-- ==== Sys2Proof/Word.lean ====
section
/-! DEFINITION. The word types of the block and their plainest arithmetic. -/

namespace Sys2Proof

/-- One byte (R12). -/
abbrev Byte := BitVec 8

/-- The number spelled by a list of bytes, byte 0 least significant (R12). -/
def leNat : List Byte → Nat
  | [] => 0
  | b :: bs => b.toNat + 256 * leNat bs

/-- The `n` low bytes of a number, byte 0 first (R12). -/
def leBytes : Nat → Nat → List Byte
  | 0, _ => []
  | n + 1, v => BitVec.ofNat 8 v :: leBytes n (v / 256)

/-- The `w` bits of `v` from bit `lo` upward (R11). -/
def bits (v lo w : Nat) : Nat := v / 2 ^ lo % 2 ^ w

/-- Bit `i` of `v` (R11). -/
def bit (v i : Nat) : Bool := v.testBit i

/-- `v` with bit `i` set to `b`. -/
def setBit (v i : Nat) (b : Bool) : Nat :=
  if v.testBit i = b then v else if b then v + 2 ^ i else v - 2 ^ i

/-- The least multiple of `a` that is at least `v`. -/
def roundUp (v a : Nat) : Nat := (v + a - 1) / a * a

/-- The quotient rounded up. -/
def ceilDiv (v a : Nat) : Nat := (v + a - 1) / a

end Sys2Proof
end

