-- ==== Sys2Proof/Syntax.lean ====
section
/-! DEFINITION. The commands of the block: one constructor of `Instr` per row of spec/opcode_table.json.

A data-path row names the unit whose queue takes the step; the command's own operands are the 32 bytes (R72) that
the queue holds. An event row names the unit it concerns and what the outside world brings with it. -/

namespace Sys2Proof

/-- Engine classes (R65). -/
inductive EngineClass
  | array | vector | move | embed | update | fabric | sched
  deriving DecidableEq, Repr

/-- One engine queue: its class and the physical unit (R65, R66). -/
structure QueueId where
  cls  : EngineClass
  unit : Nat
  deriving DecidableEq, Repr

/-- A detected hardware fault that strikes a command in execution (R412): its reason, where it lies (the structure and offset of a word
or a location, R204, R413; for a check of the array or the vector engine what its command says), and the work before it. -/
structure HwFault where
  reason   : Nat
  detail   : Nat
  progress : Nat
  deriving DecidableEq, Repr

/-- What the memory controller meets in one access (R303 to R306): retries of an interface parity error, where more than 3 end the
transaction, sectors or units corrected, and the offset in the run of a unit that is uncorrectable. -/
structure MemAccess where
  retries   : Nat
  corrected : Nat
  bad       : Option Nat
  deriving DecidableEq, Repr

/-- An access that meets nothing. -/
def MemAccess.clean : MemAccess := { retries := 0, corrected := 0, bad := none }

/-- Path of a mailbox or dictionary request (R474). -/
inductive Path
  | vc1 | sideband
  deriving DecidableEq, Repr

/-- The value part of one dictionary write: path, type code, value bytes (R473, R480). -/
structure OdVal where
  path  : Path
  ty    : Nat
  bytes : List Byte
  deriving DecidableEq, Repr

/-- Header of a mailbox message (R361); `session` is the number in the Ryeve frame that carries it (R351). -/
structure MsgHdr where
  path     : Path
  seq      : Nat
  session  : Nat
  major    : Nat
  status   : Nat
  response : Bool
  reserved : Nat
  deriving DecidableEq, Repr

/-- A data frame that arrives on a fabric port, decrypted (R316). -/
structure Frame where
  port    : Nat
  src     : Nat
  acting  : Nat
  dst     : Nat
  flags   : Nat
  key     : Nat
  tag     : Nat
  addr    : Nat
  arg     : Nat
  status  : Nat
  payload : List Byte
  deriving DecidableEq, Repr

/-- A VC0 or VC2 transaction header of the Ryeve link (R351). -/
structure TxHdr where
  job     : Nat
  tag     : Nat
  addr    : Nat
  bytes   : Nat
  session : Nat
  deriving DecidableEq, Repr

/-- Fields of a map request (R278); `reserved` is the OR of its reserved fields, `op` is the row. -/
structure MapReq where
  size     : Nat
  tier     : Nat
  read     : Bool
  write    : Bool
  pin      : Bool
  policy   : Nat
  srcJob   : Nat
  reserved : Nat
  va       : Nat
  length   : Nat
  srcVa    : Nat
  deriving DecidableEq, Repr

/-- Fields of a service request (R428) besides its op; `reserved` is the OR of its reserved fields. -/
structure ServiceReq where
  cls      : Nat
  unit     : Nat
  mode     : Nat
  reserved : Nat
  deriving DecidableEq, Repr

/-- Where the partial of a keyed add comes from: an EE of this module (its outstanding-partial number), or a frame. -/
inductive KeyedSrc
  | ee (k id : Nat)
  | frame (f : Frame)
  deriving DecidableEq, Repr

/-- A keyed add and what the access to its bucket meets. -/
structure KeyedTry where
  src    : KeyedSrc
  access : MemAccess
  deriving DecidableEq, Repr

/-- A frame that writes memory, and what its access meets. -/
structure MetFrame where
  frame  : Frame
  access : MemAccess
  deriving DecidableEq, Repr

/-- The bytes of a write of the control node, and what its access meets. -/
structure MetData where
  bytes  : List Byte
  access : MemAccess
  deriving DecidableEq, Repr

/-- A phrase whose array runs a command, and the fault that strikes it. -/
structure Struck where
  unit  : Nat
  fault : Option HwFault
  deriving DecidableEq, Repr

/-- What a COMMIT meets on a slice: in the access to its first record, and a fault that strikes it. -/
structure SliceMet where
  access : MemAccess
  fault  : Option HwFault
  deriving DecidableEq, Repr

/-- A word of an SRAM on the die: its structure's code and its byte offset (R204, R416). -/
structure SramWord where
  code   : Nat
  offset : Nat
  deriving DecidableEq, Repr

/-- What a scrub read finds (R307, R416). -/
inductive ScrubResult
  | clean | corrected | uncorrectable
  deriving DecidableEq, Repr

/-- Frames of the link-key exchange (R451). -/
inductive KeyingMsg
  | hello (random pub : Nat) (chain : List Byte)
  | sign (sig : Nat)
  | confirm
  deriving DecidableEq, Repr

/-- A power-managed unit (R398). -/
inductive PowerUnit
  | array (n : Nat) | vector (n : Nat) | sequencer (n : Nat) | ee (k : Nat) | slice (s : Nat) | fabric | core (c : Nat)
  deriving DecidableEq, Repr

/-- The discrete inputs (R405). -/
inductive Pin
  | modEn | modRst | pfw
  deriving DecidableEq, Repr

/-- A link frame of the Ryeve port other than data (R350), a frame that the port drops, for its type or operation is undefined, it travels
on another channel than its own or it sets a reserved field (`numbered` where it is a data frame, R350 to R352), or a DOORBELL whose ring
byte is above 2 (R353). -/
inductive LinkFrame
  | ack (seq : Nat) | nak (seq : Nat) | credit (vc0 vc1 vc2 : Nat)
  | undefined (numbered : Bool)
  | doorbellOther (job : Nat)
  deriving DecidableEq, Repr

/-- Which check of a fabric frame fails (R318), or that both pass and a frame of so many payload bytes has an undefined op or a reserved
bit set outside the fields of `Frame` (R316, R317). -/
inductive FrameError
  | crc | tag | undefined (bytes : Nat)
  deriving DecidableEq, Repr

/-- A sideband frame after the Ethernet header (R484, R485). -/
structure SbFrame where
  ethertype : Nat
  dstOk     : Bool
  version   : Nat
  slot      : Nat
  kind      : Nat
  fragIndex : Nat
  fragCount : Nat
  exchange  : Nat
  fragLen   : Nat
  reserved  : Nat
  data      : List Byte
  deriving DecidableEq, Repr

/-- Rings of a job that carry NOTIFYs, or the session event ring (R370). -/
inductive RingId
  | completion (j : Nat) | event (j : Nat) | session
  deriving DecidableEq, Repr

/-- The commands and events of the block, in the table's order. -/
inductive Instr
  | nop (q : QueueId)
  | clauseOpen (q : QueueId)
  | clauseDecl (q : QueueId)
  | fence (q : QueueId)
  | regionDefine (q : QueueId)
  | regionRelease (q : QueueId)
  | codeSwitch (j : Nat)
  | statLoad (n : Nat) (flt : Option HwFault)
  | pass (n : Nat) (flt : Option HwFault)
  | readout (n : Nat) (flt : Option HwFault)
  | scaleLoad (n : Nat) (flt : Option HwFault)
  | rescaleLoad (n : Nat) (flt : Option HwFault)
  | elemwise (n : Nat) (flt : Option HwFault)
  | accClear (n : Nat)
  | vunary (n : Nat) (flt : Option HwFault)
  | vbinary (n : Nat) (flt : Option HwFault)
  | vternary (n : Nat) (flt : Option HwFault)
  | vreduce (n : Nat) (flt : Option HwFault)
  | vquant (n : Nat) (flt : Option HwFault)
  | vdequant (n : Nat) (flt : Option HwFault)
  | vcombine (n : Nat) (flt : Option HwFault)
  | vconvert (n : Nat) (flt : Option HwFault)
  | load (n : Nat) (flt : Option HwFault)
  | store (n : Nat) (flt : Option HwFault)
  | tload (n : Nat) (flt : Option HwFault)
  | stashPut (n : Nat) (flt : Option HwFault)
  | stashGet (n : Nat) (flt : Option HwFault)
  | rbAdd (n : Nat) (flt : Option HwFault)
  | rbRead (n : Nat) (flt : Option HwFault)
  | lookupPool (k : Nat) (flt : Option HwFault)
  | gradScatter (k : Nat) (flt : Option HwFault)
  | combineFlush (k : Nat) (flt : Option HwFault)
  | commit (sl : Nat) (m : SliceMet)
  | recipeLoad (sl : Nat) (a : MemAccess)
  | exportRows (sl : Nat) (a : MemAccess)
  | allReduce (q : Nat)
  | reduceScatter (q : Nat)
  | allGather (q : Nat)
  | broadcast (q : Nat)
  | reduce (q : Nat)
  | allToAll (q : Nat)
  | agree (q : Nat)
  | gather (q : Nat)
  | refetch (q : Nat)
  | stepRelease (q : Nat)
  | remoteGet (q : Nat)
  | remotePut (q : Nat)
  | remoteAdd (q : Nat)
  | remoteAtomic (q : Nat)
  | remoteSignal (q : Nat)
  | debugBreak (q : QueueId)
  | accRead (x : Struck)
  | accWrite (x : Struck)
  | debugHaltResume (q : QueueId)
  | debugHaltEnd (q : QueueId)
  | rowFetchArrival (k id : Nat) (a : MemAccess)
  | moveSectorArrival (n id : Nat) (a : MemAccess)
  | memoryWriteAck (q : QueueId) (id : Nat) (a : MemAccess)
  | partialAck (k id : Nat)
  | spillAddDone (n : Nat) (flt : Option HwFault)
  | submissionEntry (j : Nat)
  | stepEntry (j : Nat)
  | admitWaiting
  | handlerEntryDecide
  | quotaWaitExpiry (q : QueueId) (j : Nat)
  | overflowPageGrant (k j : Nat)
  | commitReplay (seq : Nat)
  | insertedFlush (q : Nat)
  | insertedFlushDone (q : Nat)
  | codeRegionRetired (j r : Nat)
  | sketchHalving (k : Nat)
  | demotionSweep (j t : Nat)
  | migrationWindow
  | rowMoveSlotFree (i : Nat)
  | keyedAdd (x : KeyedTry)
  | pendingPageArrival (i : Nat)
  | pageMoveCopyDone (i : Nat)
  | pageFrameRelease (i : Nat)
  | pageMigrationWindow
  | pageSweep
  | patrolScrub (addr : Nat) (r : ScrubResult)
  | onDieScrub (cls unit : Nat) (w : SramWord) (r : ScrubResult)
  | hbmTempReport (st : Nat) (milli : Int)
  | hbmOvertemp (st : Nat)
  | hbmReportTimeout (st : Nat)
  | map (j : Nat) (p : Path) (r : MapReq)
  | unmap (j : Nat) (p : Path) (r : MapReq)
  | mapAlias (j : Nat) (p : Path) (r : MapReq)
  | retarget (j : Nat) (p : Path) (r : MapReq)
  | read (f : Frame)
  | readResp (f : Frame)
  | write (f : MetFrame)
  | writeAck (f : Frame)
  | add (f : MetFrame)
  | atomic (f : MetFrame)
  | atomicResp (f : Frame)
  | signal (f : Frame)
  | rowReq (f : Frame)
  | rowResp (f : Frame)
  | candidate (f : Frame)
  | collData (f : Frame)
  | agreeContrib (f : Frame)
  | agreeResult (f : Frame)
  | release (f : Frame)
  | releaseFloor (f : Frame)
  | gatherReq (f : Frame)
  | gatherResp (f : Frame)
  | aliasInstall (f : Frame)
  | aliasAck (f : Frame)
  | unreachable (f : Frame)
  | agreeQuery (f : Frame)
  | fabricLinkAck (p seq : Nat)
  | fabricLinkNak (p seq : Nat)
  | fabricLinkCredit (p n : Nat)
  | keyingFrame (p : Nat) (m : KeyingMsg)
  | fabricReplayTimeout (p : Nat)
  | portSignalDetect (p lanes : Nat)
  | portTrainingDone (p lanes : Nat)
  | portTrainingTimeout (p : Nat)
  | portTrainingRetry (p : Nat)
  | keyingTimeout (p : Nat)
  | portLossOfSignal (p : Nat)
  | quarantineEnd (p : Nat)
  | laneLossOfLock (p l : Nat)
  | laneFecWindow (p l corrected received : Nat)
  | rekeyDue (p : Nat)
  | prevKeyExpiry (p : Nat)
  | planeReportExpiry (p node : Nat)
  | requestTimeout (tag : Nat)
  | retryWindowExpiry (node : Nat)
  | agreeTimeout (j g step : Nat)
  | agreeResultQueryTimer (j step : Nat)
  | collTimeout (q : Nat)
  | releaseTimeout (sl : Nat)
  | takeOver (v : OdVal)
  | takeoverRetry
  | nodeIdWrite (v : OdVal)
  | portService (p : Nat) (v : OdVal)
  | memRead (h : TxHdr)
  | memWrite (h : TxHdr) (data : MetData)
  | doorbellSubmission (job index session : Nat)
  | doorbellCompletion (job index session : Nat)
  | doorbellEvent (job index session : Nat)
  | heartbeat (session : Nat)
  | msgResp (p : Path)
  | ryeveLinkAck (l : LinkFrame)
  | ryeveReplayTimeout
  | ryeveTrainingDone
  | ryeveSignalDetect
  | sessionOpen (m : MsgHdr) (body : List Byte)
  | sessionResume (m : MsgHdr) (body : List Byte)
  | sessionClose (m : MsgHdr) (body : List Byte)
  | heartbeatMessage (m : MsgHdr) (body : List Byte)
  | fwStage (m : MsgHdr) (body : List Byte)
  | fwActivate (m : MsgHdr) (body : List Byte)
  | odRead (m : MsgHdr) (body : List Byte)
  | odWrite (m : MsgHdr) (body : List Byte)
  | heartbeatTimeout
  | leaseEnd
  | holdOffEnd
  | create (j : Nat) (p : Path)
  | start (j : Nat) (p : Path)
  | park (j : Nat) (p : Path)
  | unpark (j : Nat) (p : Path)
  | checkpoint (j : Nat) (p : Path)
  | destroy (j : Nat) (p : Path)
  | checkpointDone (j : Nat)
  | jobScrubDone (j : Nat)
  | governorWindow (measured : Nat)
  | powerSample (mv ma : Nat)
  | dieSensorRead (temps : List Int)
  | standbyStart (mv slot : Nat)
  | standbyStop
  | inrushEnd
  | inputUndervoltage (mv us : Nat)
  | inputOvervoltage (mv us : Nat)
  | railFault (group : Nat)
  | undervoltageRecovery (mv us : Nat)
  | railGroupGood (g : Nat)
  | railGroupOff (g : Nat)
  | pllLock
  | pllUnlock (p : Nat)
  | pllRelock (p : Nat)
  | modEnAssert
  | modEnDeassert
  | modRstAssert
  | modRstRelease (slot : Nat)
  | pfwHold
  | pfwRelease
  | unitIdleEntry (u : PowerUnit)
  | napDelayExpiry (u : PowerUnit)
  | offDelayExpiry (u : PowerUnit)
  | deepIdle (v : OdVal)
  | watchdogExpiry (c : Nat)
  | fwCoreRestart (c : Nat)
  | updateHandoverDone (accepted : Bool)
  | handoverDeadline
  | bootComplete (failed : List Nat)
  | fuseCommit (kind : Nat)
  | lockstepMismatch
  | attestNonce (v : OdVal)
  | attestReportReady
  | debugChallenge (p : Path)
  | debugToken (v : OdVal)
  | debugLock (v : OdVal)
  | debugLifetimeEnd
  | challengeExpiry
  | serviceRemove (p : Path) (r : ServiceReq)
  | serviceTest (p : Path) (r : ServiceReq)
  | serviceReturn (p : Path) (r : ServiceReq)
  | serviceRemovalDone
  | selfTestDone (pass : Bool)
  | clearDegraded (v : OdVal)
  | snapshot (v : OdVal)
  | snapshotPeriodExpiry
  | counterSelect (unit c : Nat) (v : OdVal)
  | countClear (unit c : Nat) (v : OdVal)
  | sampleSeed (v : OdVal)
  | sampleConsumed (v : OdVal)
  | alertStatus (v : OdVal)
  | dictWrite (index sub : Nat) (v : OdVal)
  | beacon
  | beaconLoss
  | sidebandReassemblyTimeout
  | restore (j : Nat) (container : List Byte)
  | sidebandFrame (f : SbFrame)
  | notifyIntervalEnd (r : RingId)
  | rawInputEdge (p : Pin) (level : Bool)
  | corruptFabricFrame (p : Nat) (e : FrameError)
  | memoryReadArrival (id : Nat) (a : MemAccess)
  deriving DecidableEq, Repr

end Sys2Proof
end

