-- ==== Sys2Proof/Decode.lean ====
section
/-! DEFINITION. Commands as words of spec/opcode_table.json. No row of the table has bits: a data-path command is the 32
bytes of R72 that a queue holds in State, and every other row is an event or a request whose fields are arguments. -/

namespace Sys2Proof

/-- The command a table word spells: none, since the table gives no row bits. -/
def decodeTableWord (_nbits _w : Nat) : Option Instr := none

end Sys2Proof
end

