-- ==== Sys2Proof/Config.lean ====
section
/-! DEFINITION. What an implementation fixes and the manual leaves open: opaque constants, so that no proof can
see a value. Each is named in the assumption log (notes/assumptions/2.md, 6.md to 12.md). -/

namespace Sys2Proof.Config

/-- A free number: the value a rule calls undefined, unpromised or vendor's choice. The first argument is the
state's free-value counter, the second tells several values of one step apart (log 2). -/
opaque freeNat : Nat → Nat → Nat

/-- The vendor's hash that picks a combining-table set from the descriptor address and the row (R152). -/
opaque combineSet : Nat → Nat → Nat

/-- The vendor's sketch hash: sketch row, descriptor address, table row (R122). -/
opaque sketchHash : Nat → Nat → Nat → Nat

/-- The vendor's hash of a destination node ID (R314). -/
opaque portHash : Nat → Nat

/-- True where the vendor's lossless encoding holds a 128-byte block in 64 bytes (R287). -/
opaque blockFits : List (BitVec 8) → Bool

/-- Which of the four usual forms of the LFSR with the polynomial of R48 the units use, by its rest modulo 4: Fibonacci to the
right, Fibonacci to the left, Galois to the right, Galois to the left. -/
opaque lfsrForm : Nat

/-- The result of a function that R219 promises only within 2 ulp: function number and fp32 operand. -/
opaque function2ulp : Nat → Nat → Nat

/-- What a frame of the firmware reserve holds: 1 + j page tables of job j (R276), 65 the scheduler journal, anything else
neither; the manual gives no layout of the reserve (R280). -/
opaque reserveUse : Nat → Nat

/-- The energy in nJ that a move of the migration engine draws: 0 of a row, 1 of a page (R173, R296; log 87). -/
opaque migrationNj : Nat → Nat

/-- The physical offset of a job's level 0 page table in the firmware reserve (R276, R311). -/
opaque ptRoot : Nat → Nat

/-- The counts of cycles that a snapshot copied: snapshot number, place (R457, R464; the model keeps no cycles). -/
opaque cycles : Nat → Nat → Nat

/-- SHA-512 (R379, R438 and others name the standard). -/
opaque sha512Bits : List (BitVec 8) → BitVec 512

/-- SHA-512 as a number of 512 bits. -/
def sha512 (l : List (BitVec 8)) : Nat := (sha512Bits l).toNat

/-- Ed25519 verification under RFC 8032: public key, message, signature. -/
opaque ed25519Verify : Nat → List (BitVec 8) → Nat → Bool

/-- Ed25519 signature (RFC 8032): private key, message. -/
opaque ed25519Sign : Nat → List (BitVec 8) → Nat

/-- The Ed25519 public key of a private key (R438). -/
opaque ed25519Public : Nat → Nat

/-- What the boot store's slots hold when the model starts: kind (1 trusted, 2 control) and slot (0 A, 1 B). The manual states no
content (R444; log 4). -/
opaque bootImage : Nat → Nat → List (BitVec 8)

/-- The verdict on an X.509 certificate chain against a root key (R451): chain, root key. -/
opaque chainVerify : List (BitVec 8) → Nat → Bool

/-- The public identity key a certificate chain certifies (R451). -/
opaque chainKey : List (BitVec 8) → Nat

/-- The X25519 public key of an ephemeral secret (RFC 7748). -/
opaque x25519Public : Nat → Nat

/-- The link key of R451: own secret, peer public key, the two random values in sender order, generation. -/
opaque linkKey : Nat → Nat → Nat → Nat → Nat → Nat

/-- A random value of the trust core's DRBG (R440), by the free-value counter. -/
opaque random : Nat → Nat

end Sys2Proof.Config
end

