-- ==== Sys2Proof/Machine/State.lean ====
section
/-! DEFINITION. The state of the block as plain data, its reset, and the reasons a step can stop.

Dictionary entries, which hold most registers, live in one register file `regs` under index and subindex
(Machine/Dict.lean gives every entry's type, access, role and reset value); the rest are the fields below. -/

namespace Sys2Proof.Machine

/-- R2: no combination of inputs leaves the device in a state the manual does not describe, so no step faults. -/
inductive Fault
  deriving DecidableEq, Repr

/-- Why a command has no meaning in the model. -/
inductive Refusal
  /-- Raised by an arm of `exec` whose command has no meaning yet; safe. -/
  | notModelled (mnemonic : String)
  deriving DecidableEq, Repr

/-- A sparse register file or word memory: (key, value) pairs, keys strictly rising, no value equal to its default. -/
abbrev Regs := List (Nat × Nat)

/-- A sparse byte space: addresses strictly rising, no entry 0; an unlisted byte reads 0. -/
abbrev Bytes := List Host.Cell

/-- A byte or word space whose unlisted places read 0, or, after a halt left it undefined (R209), free values of the
seed `bg`. -/
structure Buf where
  bg    : Option Nat
  cells : Regs
  deriving DecidableEq, Repr

/-- Constants and fuses of the part (R3, R437, R491). -/
structure Part where
  grade          : Nat
  phrasesPresent : Nat
  eesPresent     : Nat
  serial         : Nat
  rootKey        : Nat
  identitySeed   : Nat
  certDevice     : Nat
  certInter      : Nat
  certRoot       : Nat
  hwLevel        : Nat
  rollback       : Regs
  revoked        : Nat
  deriving DecidableEq, Repr

/-- One fetched command of a queue (R66, R69): its clause, position, address, and its 32 bytes as a number;
`bad` is the reason and detail
with which its bytes could not be read; `again` marks a resumed command, `prog` and `pos` where it continues (R98). -/
structure QCmd where
  seq  : Nat
  idx  : Nat
  addr : Nat
  word : Nat
  bad  : Option (Nat × Nat)
  prog : Nat
  pos  : Nat
  again : Bool
  deriving DecidableEq, Repr

/-- One memory transfer a unit waits for (R282): its number, the physical or global address, where it lands. -/
structure Xfer where
  id    : Nat
  va    : Nat
  len   : Nat
  dst   : Nat
  deriving DecidableEq, Repr

/-- The command a queue has in execution (R70, R97): units of work done, transfers awaited, and a note that the
unit's chapter names (for GRAD_SCATTER the position of R151, for a halted command where it resumes). `waited` marks a write or
add that has been counted as waiting on a page move (R297, R311). -/
structure InFlight where
  progress : Nat
  pos      : Nat
  waits    : List Xfer
  waited   : Bool := false
  deriving DecidableEq, Repr

/-- A halt of a queue (R97, R100). `page` is 1 more than the page whose placement a TIER_QUOTA halt was refused, or 0; `need` the
chunks that R290 wants for it, or 256 and the table whose overflow log R162 did not grow, or 0. -/
structure Halt where
  cmd       : QCmd
  job       : Nat
  reason    : Nat
  resumable : Bool
  begun     : Bool
  detail    : Nat
  progress  : Nat
  pos       : Nat
  page      : Nat
  decided   : Bool
  need      : Nat := 0
  deriving DecidableEq, Repr

/-- A job whose commands core 2 holds aside in a queue (R98): the halt, its commands, its clauses not all fetched. -/
structure HeldJob where
  halt   : Halt
  cmds   : List QCmd
  unread : List (Nat × Nat)
  deriving DecidableEq, Repr

/-- One engine queue (R66): commands fetched and not completed, clauses whose commands are not all fetched yet with
the next index to fetch, the command in execution, the halt that stops it, the jobs held by core 2 with their
set-aside commands (R98), the sampling LFSR (R466), and the 256-byte line whose commands enter it: clause, address, bytes (R96). -/
structure Queue where
  cmds    : List QCmd
  unread  : List (Nat × Nat)
  infl    : Option InFlight
  halt    : Option Halt
  held    : List HeldJob
  sampler : Nat
  tagged  : Option (Nat × Nat)
  line    : Option (Nat × Nat × List Byte)
  deriving DecidableEq, Repr

/-- A live stationary tile (R190): its expanded format, k_live, its elements row by row, and the check elements c_k and g_k of each cell
row (R203). -/
structure Tile where
  fmt   : Nat
  kLive : Nat
  elems : List Nat
  checks : List (Nat × Nat)
  deriving DecidableEq, Repr

/-- The staging plane (R188): `kLive` 0 means no STAT_LOAD has written it. -/
structure Staging where
  fmt   : Nat
  kLive : Nat
  elems : List Nat
  deriving DecidableEq, Repr

/-- The open product (R197, R198): its bank, passes, passes since it opened or spilled, spill fields. -/
structure Product where
  bank      : Nat
  passes    : Nat
  run       : Nat
  spillN    : Nat
  spillTile : Nat
  spilled   : Bool
  byClear   : Bool
  deriving DecidableEq, Repr

/-- The rounding LFSRs of a set of lanes (R48): each was loaded with `seed` XOR its lane's index across the die, `base` that of lane 0;
`moved` lists those, by lane, that now hold another value. -/
structure Lanes where
  seed  : Nat
  base  : Nat
  moved : Regs
  deriving DecidableEq, Repr

/-- The state of a phrase that belongs to the job that holds it (R78, R208, R229, R374). `store` keys a byte of
fixed resource r at 2^24·(r − 0xFF) + offset and a byte of the 8 MiB local buffer at its offset; `spill` holds the
bytes of the spill tiles 0 to 7. -/
structure PhraseCtx where
  store    : Bytes
  spill    : List Buf
  regions  : List (Nat × Nat × Nat)
  staging  : Staging
  live     : Option Tile
  retired  : List Tile
  bank0    : Buf
  bank1    : Buf
  lastBank : Nat
  product  : Option Product
  spilling : Option (Nat × Nat × Bool)
  scale    : Regs
  rescale  : Regs
  lfsr     : Lanes
  deriving DecidableEq, Repr

/-- A physical phrase (R18): its holder, the holder's state, the three queues, and the command cache: up to 256 lines of code by
physical address, the latest used first (R96). -/
structure Phrase where
  holder : Option (Nat × Nat)
  ctx    : PhraseCtx
  array  : Queue
  vector : Queue
  move   : Queue
  cache  : List (Nat × List Byte)
  deriving DecidableEq, Repr

/-- A row in a hot-row cache (R126): descriptor's physical address, row, generation, level, slot address, bytes;
`remote` marks a row fetched from another module (R128). -/
structure CacheRow where
  desc   : Nat
  row    : Nat
  gen    : Nat
  level  : Nat
  addr   : Nat
  remote : Bool
  bytes  : List Byte
  deriving DecidableEq, Repr

/-- A bag tracker (R136): bag number, trackers taken, indices counted, fetches awaited, contributions (weight, row)
gathered, all positions accepted. -/
structure Tracker where
  bag     : Nat
  width   : Nat
  n       : Nat
  awaited : Nat
  parts   : List (Nat × List Nat)
  sealed  : Bool
  deriving DecidableEq, Repr

/-- Stage of an outstanding fetch of an EE (R140): the map sector, the row, or a row of another module. -/
inductive FetchStage
  | map | row | remote
  deriving DecidableEq, Repr

/-- A table of a job as its descriptor gives it. `key` is the descriptor's physical address, the tag of caches and
sketches (R126, R129); `addr` its global address. -/
structure Table where
  num       : Nat
  addr      : Nat
  key       : Nat
  rows      : Nat
  dim       : Nat
  placement : Nat
  readOnly  : Bool
  cache     : Bool
  idx64     : Bool
  fmts      : List Nat
  levels    : Nat
  pset      : Nat
  age       : Nat
  shardDesc : Nat
  promWarm  : Nat
  promHot   : Nat
  shards    : Nat
  deriving DecidableEq, Repr

/-- A shard entry (R112). -/
structure ShardE where
  first : Nat
  rows  : Nat
  owner : Nat
  shard : Nat
  map   : Nat
  bases : List Nat
  slots : List Nat
  cand  : Nat
  size  : Nat
  deriving DecidableEq, Repr

/-- An outstanding fetch of an EE (R138): its number, sectors, key, location, the address of the index that asked, and
the bags attached with weights, and the table and shard entry that the command read at issue (R110). `noFill` marks a row removed from the
caches meanwhile (R177 step 5). -/
structure Fetch where
  id      : Nat
  stage   : FetchStage
  job     : Nat
  desc    : Nat
  row     : Nat
  gen     : Nat
  level   : Nat
  addr    : Nat
  sectors : Nat
  ipos    : Nat
  noFill  : Bool
  bags    : List (Nat × Nat)
  table   : Table
  shard   : ShardE
  deriving DecidableEq, Repr

/-- A combining-table entry (R152, R153): set, key, job, table number, the node that owns the row, fp32 sums; the list order is the age
order. -/
structure Comb where
  set   : Nat
  job   : Nat
  table : Nat
  desc  : Nat
  row   : Nat
  epoch : Nat
  owner : Nat
  acc   : List Nat
  deriving DecidableEq, Repr

/-- A flushed partial that awaits its keyed add's acknowledgement (R155): owner node, the clause that sent it, its
sectors, and whether the add has been made. -/
structure Partial where
  id     : Nat
  seq    : Nat
  job    : Nat
  table  : Nat
  row    : Nat
  epoch  : Nat
  acc    : List Nat
  owner  : Nat
  sectors : Nat
  landed : Bool
  deriving DecidableEq, Repr

/-- An embedding engine (R19). -/
structure Ee where
  holder   : Option (Nat × Nat)
  queue    : Queue
  cache    : List CacheRow
  mapCache : List (Nat × Nat × Nat)
  trackers : List Tracker
  fetches  : List Fetch
  comb     : List Comb
  partials : List Partial
  sketch   : Regs
  accepted : Nat
  deriving DecidableEq, Repr

/-- A conjugator slice (R255 to R266): its queue, recipe slots (job, slot, instructions), lane LFSRs per job, and
the rows' progress of the COMMIT in execution. -/
structure Slice where
  queue   : Queue
  recipes : List (Nat × Nat × List Nat)
  lfsr    : List (Nat × Lanes)
  deriving DecidableEq, Repr

/-- A fabric queue (R66). -/
structure FabricQueue where
  queue : Queue
  deriving DecidableEq, Repr

/-- An admitted clause that has not completed (R85, R88, R89). `reads` and `writes` are the declared masks of the 256
regions, `noted` the record that an AGREE leaves for the completion (R154, R250), `begun` marks a fabric command in execution that has done
part of its work (R100), `unitsLeft` the slices still running an UPDATE clause, `keeps` marks
a clause that holds an AGREE, COMMIT, EXPORT or STEP_RELEASE command (R99), `declPhrase` and `declCount` are fields of its CLAUSE_OPEN
(R77), `next` the first command that has not completed. -/
structure Clause where
  seq       : Nat
  job       : Nat
  cls       : EngineClass
  unit      : Nat
  logical   : Nat
  region    : Nat
  base      : Nat
  count     : Nat
  energy    : Nat
  declUnit  : Nat
  declPhrase : Nat
  declCount : Nat
  fixedR    : Nat
  fixedW    : Nat
  reads     : Nat
  writes    : Nat
  tag       : Nat
  ringIdx   : Nat
  step      : Option Nat
  notify    : Bool
  filler    : Bool
  overflow  : Bool
  nonfinite : Bool
  wrote     : Bool
  begun     : Bool
  charged   : Bool
  held      : Bool
  keeps     : Bool
  unitsLeft : List Nat
  next      : Nat
  replays   : Nat
  rows      : Nat
  noted     : Option (List Byte)
  deriving DecidableEq, Repr

/-- A SCHED clause in execution (R68): the clause and the commands left. -/
structure SchedRun where
  clause : Clause
  next   : Nat
  left   : List QCmd
  deriving DecidableEq, Repr

/-- A submission entry waiting for credits (R376): job, tick it began to wait, windows waited. -/
structure Waiting where
  job     : Nat
  since   : Nat
  windows : Nat
  deriving DecidableEq, Repr

/-- A binding of a logical phrase or EE to a physical unit (R373); `cls` is `array` for a phrase. `wanted` is the job and
logical unit that takes the unit over at its next switch point. -/
structure Binding where
  job     : Nat
  cls     : EngineClass
  logical : Nat
  unit    : Nat
  since   : Nat
  wanted  : Option (Nat × Nat)
  deriving DecidableEq, Repr

/-- States of a step (R234). -/
inductive StepState
  | opened | flushing | abandoned | agreeing | committing | ellipsis
  deriving DecidableEq, Repr

/-- An open step of a job (R231, R234). `scale` is the loss scale before the step's own result, which its gradients
carry (R254). `stuck` marks a step whose COMMIT failed its last replay: its gradients stay held (R265). `why` is the reason that abandoned
it, `scattered` the tables its GRAD_SCATTER commands name (R27), `flushHalts` the halts of its inserted flush, `pos` their EE (R162). -/
structure Step where
  job        : Nat
  number     : Nat
  epoch      : Nat
  group      : Nat
  ovfClasses : Nat
  nfClasses  : Nat
  scalars    : List Nat
  ringIdx    : Nat
  scale      : Nat
  agreeSeq   : Option Nat
  state      : StepState
  overflow   : Bool
  nonfinite  : Bool
  failed     : Bool
  flushHalts : List Halt
  stuck      : Bool := false
  why        : Nat
  scattered  : List Nat
  granted    : List (Nat × Nat × Nat)
  committed  : List Nat
  deriving DecidableEq, Repr

/-- What the scheduler remembers of a job beyond its dictionary entries: last descriptors (R231, R232), ring
positions (R365 to R370), redirects (R94), terminated (R99), NOTIFYs due, a part of a mJ charged, logical units whose
physical unit left service (class code, logical unit; R31). -/
structure JobCtx where
  job        : Nat
  sqProduced : Nat
  cqConsumed : Nat
  eqConsumed : Nat
  cqReserved : Nat
  evSeq      : Nat
  lostSince  : Nat
  lastStep   : Option Nat
  lastEpoch  : Option Nat
  firstEpoch : Option Nat
  refused    : Option Nat
  redirects  : List (Nat × Nat)
  terminated : Bool
  scaled     : Bool
  notifyDue  : List Nat
  notifyWait : List Nat
  ckpt       : Bool
  ckptEnd    : Nat
  scrubbing  : Bool
  recipes    : List (Nat × Nat × List Nat)
  collSeq    : Regs
  chargedNj  : Nat
  rebound    : List (Nat × Nat)
  deriving DecidableEq, Repr

/-- A valid leaf of a job's page table (R276). `src` is set for an alias: the job and offset that mapped the frames first (R278).
`tier` and `frame` count when `allocated`; `pref` is the preferred
tier of R278, `idle` the sweep's idle count (R295), `stash` the (step, stage) of a stash page (R240). -/
structure Leaf where
  job       : Nat
  va        : Nat
  size      : Nat
  read      : Bool
  write     : Bool
  tier      : Nat
  pinned    : Bool
  allocated : Bool
  migrating : Bool
  accessed  : Bool
  policy    : Nat
  src       : Option (Nat × Nat)
  frame     : Nat
  node      : Nat
  pref      : Nat
  idle      : Nat
  stash     : Option (Nat × Nat)
  deriving DecidableEq, Repr

/-- A tier 1 container (R287): its number, owning job (64 for a frame lent to the pool) and page, chunk numbers, and
unit_map (bit b: block b has one slot). -/
structure Container where
  id     : Nat
  job    : Nat
  page   : Nat
  chunks : List Nat
  unitMap : Nat
  deriving DecidableEq, Repr

/-- Steps of a page move (R297). -/
inductive MoveStage
  | copying | releasing
  deriving DecidableEq, Repr

/-- A page move in progress (R297), kept in the scheduler journal (R298). -/
structure PageMove where
  job     : Nat
  va      : Nat
  srcTier : Nat
  src     : Nat
  dstTier : Nat
  dst     : Nat
  stage   : MoveStage
  retire  : Bool
  deriving DecidableEq, Repr

/-- A page requested into tier 0: a state page (R167, R170), or with table 0x100 one that an add waits for (R283). `failed`
is the reason and detail with which its fetch failed (R172, R302). -/
structure PageReq where
  job   : Nat
  va    : Nat
  table : Nat
  epoch : Nat
  failed : Option (Nat × Nat)
  deriving DecidableEq, Repr

/-- A page pinned by a keyed add until its COMMIT or ellipsis (R167). -/
structure Pin0 where
  job   : Nat
  va    : Nat
  table : Nat
  epoch : Nat
  deriving DecidableEq, Repr

/-- A row move in the scheduler journal (R177, R179): between its steps 1 and 7, or, once `done`, until its old slot is free; `slice` performs
it, `master` is the offset of the row's record, and `fetches` are those of step 6 by EE, of the row server under 16. -/
structure RowMove where
  job   : Nat
  table : Nat
  row   : Nat
  level : Nat
  slot  : Nat
  newLevel : Nat
  newSlot  : Nat
  gen   : Nat
  slice  : Nat
  master : Nat
  done   : Bool
  fetches : List (Nat × Nat)
  deriving DecidableEq, Repr

/-- A sweep of a table's maps that has not finished: the next row, and whether another sweep starts when it ends (R175). -/
structure Sweep where
  job   : Nat
  table : Nat
  row   : Nat
  again : Bool
  deriving DecidableEq, Repr

/-- The free-slot list of one level area of a shard, by its table descriptor and first row (R176). -/
structure FreeSlots where
  key   : Nat
  first : Nat
  level : Nat
  slots : List Nat
  deriving DecidableEq, Repr

/-- An access of a job's page served from tier 1 or 2 (R294). -/
structure Touch where
  job   : Nat
  va    : Nat
  count : Nat
  since : Nat
  deriving DecidableEq, Repr

/-- Units that keep a translation cache (R275). -/
inductive TlbUnit
  | move (n : Nat) | ee (k : Nat) | slice (k : Nat) | fabric | rowServer
  deriving DecidableEq, Repr

/-- An entry of a unit's translation cache: the leaf of a job at an offset (R275). -/
structure Tlb where
  unit : TlbUnit
  job  : Nat
  va   : Nat
  deriving DecidableEq, Repr

/-- Memory, tiers and page tables. `tlb` holds the translation caches and `walks` the walk cache's entries (job, level, index), the
latest used first (R275); `unmoved` counts the moves that step 1 of R297 did not start. `rowsMoved` counts the row moves of each slice in
this window (R173), and
`rowWant` tells that row migration waits for bytes of a lender, `retired` counts the page moves of retirement in this window (R432).
`touched` lists the tables (job, table, low 32 bits of the epoch) whose gradient
region on this module took a partial (R236). -/
structure Mem where
  bytes      : Bytes
  poison     : List Nat
  window     : Bytes
  rb         : Bytes
  rbDirty    : List (Nat × Nat × Nat)
  leaves     : List Leaf
  containers : List Container
  t2used     : List (Nat × Nat)
  nextFrame  : Nat
  frameHigh  : Nat
  moves      : List PageMove
  pageReqs   : List PageReq
  pins       : List Pin0
  candidates : List (Nat × Nat)
  retargets  : List (Nat × Nat)
  rowMoves   : List RowMove
  freeSlots  : List FreeSlots
  rowsMoved  : Regs
  sweeps     : List Sweep
  rowWant    : Bool
  touches    : List Touch
  touched    : List (Nat × Nat × Nat)
  tlb        : List Tlb
  walks      : List (Nat × Nat × Nat)
  unmoved    : Nat
  retired    : Nat
  deriving DecidableEq, Repr

/-- A request of this module outstanding on the fabric (R323, R328). `what` is the fabric op it sent, `src` the queue
or EE it serves (class, unit, number), `held` the hold of R344, `phys` the node its last frame went to, `blocked` the
wait of R315. -/
structure Req where
  tag   : Nat
  what  : Nat
  job   : Nat
  owner : QueueId
  xid   : Nat
  node  : Nat
  port  : Nat
  addr  : Nat
  arg   : Nat
  dst   : Nat
  data  : List Byte
  sent  : Bool
  held  : Bool
  phys  : Nat
  blocked : Bool
  deriving DecidableEq, Repr

/-- A data frame of the module in a port's replay buffer (R316, R319); `moved` marks one that came from a port that left
UP (R315), `replays` counts how often it was sent again in a row. -/
structure TxFrame where
  seq   : Nat
  op    : Nat
  frame : Frame
  moved : Bool
  replays : Nat := 0
  deriving DecidableEq, Repr

/-- A fabric port beyond its dictionary entries (R319 to R322, R452). -/
structure Port where
  replay   : List TxFrame
  waitTx   : List TxFrame
  txSeq    : Nat
  rxSeq    : Nat
  credits  : Nat
  lanesUp  : Nat
  flapTimes : List Nat
  tagFails : List Nat
  gen      : Nat
  prevGen  : Option Nat
  txKey    : Nat
  rxKey    : Nat
  count    : Nat
  keying   : List KeyingMsg
  secret   : Nat
  rekeying : Bool
  deriving DecidableEq, Repr

/-- A contribution an agreement root has received (R247, R248). -/
structure Contrib where
  job   : Nat
  group : Nat
  step  : Nat
  node  : Nat
  flags : Nat
  scale : Nat
  clean : Nat
  deriving DecidableEq, Repr

/-- A stored agreement result record (R249). -/
structure AgreeRec where
  job   : Nat
  group : Nat
  body  : List Byte
  deriving DecidableEq, Repr

/-- What another member of a group has declared and sent for the group's collective number `seq` (R331 to R335): its
declaration, its contribution to the elements formed here, the elements it sent for placing. -/
structure CollIn where
  job   : Nat
  group : Nat
  seq   : Nat
  node  : Nat
  decl  : Option (List Nat)
  part  : Option (List Byte)
  final : Option (List Byte)
  deriving DecidableEq, Repr

/-- A shard version served to readers (R337, R338). -/
structure Served where
  job     : Nat
  pset    : Nat
  shard   : Nat
  version : Nat
  highest : Nat
  group   : Nat
  deriving DecidableEq, Repr

/-- A shard's two versions at its owner (R337). -/
structure Shard where
  job     : Nat
  pset    : Nat
  shard   : Nat
  first   : Nat
  elems   : Nat
  retain  : Nat
  group   : Nat
  fmt     : Nat
  current : Nat
  prev    : Option Nat
  waiting : Bool
  deriving DecidableEq, Repr

/-- A request that waits at a port or at the target side of the fabric engine for memory (R323, R356). `data` is what of a ROW_REQ has
been read; of a write, add or atomic its notes: bit 0, its wait on a page move is counted; bit 1, NONFINITE so far; bit 2, it has
departed to a lender. -/
structure PendRead where
  id    : Nat
  vc0   : Bool
  op    : Nat
  frame : Frame
  hdr   : TxHdr
  data  : List Byte
  deriving DecidableEq, Repr

/-- A keyed add that waits at this module, its owner: for the commit or end of an earlier epoch (R164), for a free pending entry or its
row's page (R171, a stall), or with `page` for a page that it writes (R283, R297), since a tick. -/
structure KaWait where
  src   : KeyedSrc
  stall : Bool
  since : Nat
  page  : Bool := false
  deriving DecidableEq, Repr

/-- The fabric engine (R312 to R349). `rxParts` holds payloads of requests and responses of several frames (source node,
tag) of which the last frame has not arrived; `farData` bytes fetched from other modules and lenders (a lender's node is
raised by 2^16), `farFail` the fetches that failed: node, address, length, reason, detail. `rowCache` is the row server's
map cache: descriptor, row, entry (R121); `due` the timers of agreement and the takeover (0 to 2), with job, group and number, that wait for
the list of their group. -/
structure Fab where
  ports     : List Port
  queues    : List FabricQueue
  reqs      : List Req
  nextTag   : Nat
  reports   : List (Nat × Nat)
  dead      : List Nat
  contribs  : List Contrib
  results   : List AgreeRec
  releases  : List (Nat × Nat × Nat × Nat)
  floors    : List (Nat × Nat × Nat)
  coll      : List CollIn
  shards    : List Shard
  served    : List Served
  kaWait    : List KaWait
  pendReads : List PendRead
  takeover  : List Nat
  farData   : List (Nat × Nat × Byte)
  farFail   : List (Nat × Nat × Nat × Nat × Nat)
  rowCache  : List (Nat × Nat × Nat)
  rxParts   : List (Nat × Nat × List Byte)
  due       : List (Nat × Nat × Nat × Nat) := []
  deriving DecidableEq, Repr

/-- A frame the module sends on the Ryeve link (R351, R352): op, channel, header fields, payload, and how often it was sent again in a
row (R355). -/
structure RyeveOut where
  seq     : Nat
  vc      : Nat
  op      : Nat
  status  : Nat
  job     : Nat
  tag     : Nat
  session : Nat
  payload : List Byte
  replays : Nat := 0
  deriving DecidableEq, Repr

/-- Session, mailbox and link to the control node (R350 to R363, R481 to R486). `holdOff` is the tick at which a hold-off
began (R360). -/
structure Sess where
  token      : Nat
  ringBase   : Nat
  ringEntries : Nat
  produced   : Nat
  consumed   : Nat
  lostSince  : Nat
  silentAt   : Nat
  releaseTo  : Option (Nat × Nat × Nat × Nat)
  reconnects : List Nat
  holdOff    : Option Nat
  replay     : List RyeveOut
  waitTx     : List RyeveOut
  txSeq      : Nat
  rxSeq      : Nat
  credits    : List Nat
  notifyWait : Bool
  notifyDue  : Bool
  sbPartial  : Option (Nat × Nat × List Byte)
  sbBusy     : Option Nat
  sbKept     : Option (Nat × List Byte)
  sbOut      : List (Nat × List Byte)
  deriving DecidableEq, Repr

/-- Governor and gate state (R376, R389, R393, R394, R401). Energies are in nJ. `limitPosted` is 1 more than the tick of the last
POWER_LIMIT, `limitTicks` the ticks of the samples of the last second with the gate closed, `hbmTicks` by stack, and under key
12 for the die, 1 more than the tick up to which throttled time is counted, `energyRest` the pJ not yet counted as a mJ. -/
structure Gov where
  credit      : Int
  charged     : Nat
  windowStart : Nat
  excess      : Nat
  baselines   : List Nat
  samples     : List (Nat × Nat)
  gateLimiter : Bool
  gateThermal : Bool
  gatePfw     : Bool
  gateStop    : Bool
  limitPosted : Nat
  limitTicks  : List Nat
  implausible : Regs
  excluded    : List Nat
  hbmTicks    : Regs
  energyRest  : Nat
  deriving DecidableEq, Repr

/-- Rails, clocks and inputs (R386 to R409). `railsUp` counts the groups that are good, `rearm` waits for a MOD_EN cycle, `uvWait`
for 40 V; bit i of `rawLevel` and `filtered` tells whether input i of 0x1220.01 is asserted; `releasedAt` is the tick at which the
internal reset was released. -/
structure Pow where
  standby    : Bool
  inrushDone : Bool
  railsUp    : Nat
  railsWant  : Bool
  rearm      : Bool
  uvWait     : Bool
  inReset    : Bool
  pllStopped : Bool
  rawLevel   : Nat
  rawSince   : List Int
  filtered   : Nat
  pfwSince   : Nat
  releasedAt : Nat
  inHold     : Bool
  alertN     : Bool
  selfRefresh : Bool
  deriving DecidableEq, Repr

/-- An entry of core 2's handler queue (R419). -/
structure Handler where
  seq   : Nat
  kind  : Nat
  cls   : Nat
  unit  : Nat
  queue : Option QueueId
  job   : Nat
  reason : Nat
  detail : Nat
  occ    : Nat
  deriving DecidableEq, Repr

/-- A record of the fault journal (R426). -/
structure JRec where
  seq    : Nat
  tick   : Nat
  kind   : Nat
  cls    : Nat
  unit   : Nat
  reason : Nat
  action : Nat
  detail : Nat
  occ    : Nat
  job    : Nat
  deriving DecidableEq, Repr

/-- A service procedure in progress (R428, R429): a removal (op 1) or a self-test (op 2) of a unit, by a request or by a fault
(R422), since a tick. `mode` is the mode of an EE's removal, or the state the unit was in before its test. `after` tells what
follows: 0 nothing, 1 the self-test, 2 the self-test and the return, 3 the state FAILED. -/
structure ServiceRun where
  op   : Nat
  cls  : Nat
  unit : Nat
  mode : Nat
  byFault : Bool
  after : Nat
  since : Nat
  deriving DecidableEq, Repr

/-- Faults, journal and service (R419 to R436). `history` lists decided entries of units with their reason and tick, 256 marking
every entry of a unit (R422); `corrected` lists corrections and `lastSeen` the last one that entered the queue, with those only counted
since (R419), each by class, unit, structure and tick; `deferred` holds the completion entries of a core's outage that the
scheduler journal keeps (R381): job, notify, entry; `badWords` the words with a double-bit error that a scrub found and nothing has
overwritten (R416): class, unit, structure, byte offset. -/
structure Svc where
  queue    : List Handler
  journal  : List JRec
  mirror   : List JRec
  history  : List (Nat × Nat × Nat × Nat)
  corrected : List (Nat × Nat × Nat × Nat)
  lastSeen : List (Nat × Nat × Nat × Nat × Nat)
  runs     : List ServiceRun
  passed   : List (Nat × Nat)
  coreDown : List Nat
  coreLog  : List (Nat × Nat)
  deferred : List (Nat × Bool × List Byte)
  badWords : List (Nat × Nat × Nat × Nat)
  deriving DecidableEq, Repr

/-- A firmware image kept by the model as its bytes (R441). -/
abbrev Image := List Byte

/-- Trust core, boot store, debug (R437 to R455). `fusesDue` lists the raises of R443 not done yet: kind, security version, revoke
bits; `lifetime` is the tick at which debug ends. -/
structure Trust where
  staging   : Bytes
  trustedA  : Image
  trustedB  : Image
  controlA  : Image
  controlB  : Image
  prefTrusted : Nat
  prefControl : Nat
  running   : Image
  trusted   : Image
  newImage  : Image
  updateReq : Option MsgHdr
  pauseTick : Nat
  m0        : Nat
  m1        : Nat
  log       : Nat
  nonce     : Option Nat
  report    : List Byte
  challenge : Option Nat
  unlocked  : Bool
  everUnlocked : Bool
  scope     : Nat
  lifetime  : Nat
  fusesDue  : List (Nat × Nat × Nat)
  deriving DecidableEq, Repr

/-- The state of the block. -/
structure State where
  pending  : List Instr
  free     : Nat
  tick     : Nat
  part     : Part
  regs     : Regs
  mem      : Mem
  phrases  : List Phrase
  ees      : List Ee
  slices   : List Slice
  saved    : List (Nat × Nat × PhraseCtx)
  bindings : List Binding
  clauses  : List Clause
  sched    : List SchedRun
  waiting  : List Waiting
  jobs     : List JobCtx
  steps    : List Step
  nextSeq  : Nat
  fab      : Fab
  sess     : Sess
  gov      : Gov
  pow      : Pow
  svc      : Svc
  trust    : Trust
  deriving DecidableEq, Repr

/-- An empty queue; the sampling LFSR is loaded from sample_seed's reset value 1 XOR the queue's index across the die,
0 replaced by 1 (R466). -/
def Queue.reset (idx : Nat) : Queue where
  cmds := []
  unread := []
  infl := none
  halt := none
  held := []
  sampler := if (1 ^^^ idx) = 0 then 1 else 1 ^^^ idx
  tagged := none
  line := none

/-- The job state of a phrase as a job first bound to it finds it (R53, R59, R208, R229). -/
def PhraseCtx.reset : PhraseCtx where
  store := []
  spill := List.replicate 8 { bg := none, cells := [] }
  regions := []
  staging := { fmt := 0, kLive := 0, elems := [] }
  live := none
  retired := []
  bank0 := { bg := none, cells := [] }
  bank1 := { bg := none, cells := [] }
  lastBank := 1
  product := none
  spilling := none
  scale := []
  rescale := []
  lfsr := { seed := 0, base := 0, moved := [] }

/-- Phrase `n` after reset. -/
def Phrase.reset (n : Nat) : Phrase where
  holder := none
  ctx := PhraseCtx.reset
  array := Queue.reset (3 * n)
  vector := Queue.reset (3 * n + 1)
  move := Queue.reset (3 * n + 2)
  cache := []

/-- EE `k` after reset (R136: its trackers are FREE). -/
def Ee.reset (k : Nat) : Ee where
  holder := none
  queue := Queue.reset (24 + k)
  cache := []
  mapCache := []
  trackers := []
  fetches := []
  comb := []
  partials := []
  sketch := []
  accepted := 0

/-- Slice `s` after reset. -/
def Slice.reset (s : Nat) : Slice where
  queue := Queue.reset (40 + s)
  recipes := []
  lfsr := []

/-- A port after reset: DOWN (R320), no frame sent, no key. -/
def Port.reset : Port where
  replay := []
  waitTx := []
  txSeq := 0
  rxSeq := 0
  credits := 0
  lanesUp := 0
  flapTimes := []
  tagFails := []
  gen := 0
  prevGen := none
  txKey := 0
  rxKey := 0
  count := 0
  keying := []
  secret := 0
  rekeying := false

/-- The fabric engine after reset. -/
def Fab.reset : Fab where
  ports := List.replicate 16 Port.reset
  queues := (List.range 16).map fun q => { queue := Queue.reset (52 + q) }
  reqs := []
  nextTag := 1
  reports := []
  dead := []
  contribs := []
  results := []
  releases := []
  floors := []
  coll := []
  shards := []
  served := []
  kaWait := []
  pendReads := []
  takeover := []
  farData := []
  farFail := []
  rowCache := []
  rxParts := []

/-- Memory after reset: nothing listed, nothing mapped (R276: valid is 0). -/
def Mem.reset : Mem where
  bytes := []
  poison := []
  window := []
  rb := []
  rbDirty := []
  leaves := []
  containers := []
  t2used := []
  nextFrame := 16384
  frameHigh := 0
  moves := []
  pageReqs := []
  pins := []
  candidates := []
  retargets := []
  rowMoves := []
  freeSlots := []
  rowsMoved := []
  sweeps := []
  rowWant := false
  touches := []
  touched := []
  tlb := []
  walks := []
  unmoved := 0
  retired := 0

/-- No session (R357). -/
def Sess.reset : Sess where
  token := 0
  ringBase := 0
  ringEntries := 0
  produced := 0
  consumed := 0
  lostSince := 0
  silentAt := 0
  releaseTo := none
  reconnects := []
  holdOff := none
  replay := []
  waitTx := []
  txSeq := 0
  rxSeq := 0
  credits := [512, 64, 16]
  notifyWait := false
  notifyDue := false
  sbPartial := none
  sbBusy := none
  sbKept := none
  sbOut := []

/-- The governor and the issue gate after reset: no window has run, the gate is open. -/
def Gov.reset : Gov where
  credit := 0
  charged := 0
  windowStart := 0
  excess := 0
  baselines := []
  samples := []
  gateLimiter := false
  gateThermal := false
  gatePfw := false
  gateStop := false
  limitPosted := 0
  limitTicks := []
  implausible := []
  excluded := []
  hbmTicks := []
  energyRest := 0

/-- Rails on, PLLs locked, internal reset just released, MOD_EN recognised asserted, MOD_RST_N and PFW_N not (log 5). -/
def Pow.reset : Pow where
  standby := true
  inrushDone := true
  railsUp := 6
  railsWant := true
  rearm := false
  uvWait := false
  inReset := false
  pllStopped := false
  rawLevel := 1
  rawSince := [0, 0, 0]
  filtered := 1
  pfwSince := 0
  releasedAt := 0
  inHold := false
  alertN := true
  selfRefresh := false

/-- No fault recorded, no service running. -/
def Svc.reset : Svc where
  queue := []
  journal := []
  mirror := []
  history := []
  corrected := []
  lastSeen := []
  runs := []
  passed := []
  coreDown := []
  coreLog := []
  deferred := []
  badWords := []

/-- Trust core right after internal reset is released: nothing measured yet, debug locked. -/
def Trust.reset : Trust where
  staging := []
  trustedA := Config.bootImage 1 0
  trustedB := Config.bootImage 1 1
  controlA := Config.bootImage 2 0
  controlB := Config.bootImage 2 1
  prefTrusted := 0
  prefControl := 0
  running := []
  trusted := []
  newImage := []
  updateReq := none
  pauseTick := 0
  m0 := 0
  m1 := 0
  log := 0
  nonce := none
  report := []
  challenge := none
  unlocked := false
  everUnlocked := false
  scope := 0
  lifetime := 0
  fusesDue := []

/-- The part the model starts from: a UX7-A with blank fuses (log 4); its boot store holds the vendor's images. -/
def Part.reset : Part where
  grade := 1
  phrasesPresent := 0xFF
  eesPresent := 0xFFFF
  serial := 0
  rootKey := 0
  identitySeed := 0
  certDevice := 0
  certInter := 0
  certRoot := 0
  hwLevel := 0
  rollback := []
  revoked := 0

/-- The machine right after the internal reset is released (R391, R446): every dictionary entry at its reset value,
tick 0 (R397), boot not complete, no command waiting. -/
def State.reset : State where
  pending := []
  free := 0
  tick := 0
  part := Part.reset
  regs := []
  mem := Mem.reset
  phrases := (List.range 8).map Phrase.reset
  ees := (List.range 16).map Ee.reset
  slices := (List.range 12).map Slice.reset
  saved := []
  bindings := []
  clauses := []
  sched := []
  waiting := []
  jobs := []
  steps := []
  nextSeq := 1
  fab := Fab.reset
  sess := Sess.reset
  gov := Gov.reset
  pow := Pow.reset
  svc := Svc.reset
  trust := Trust.reset

end Sys2Proof.Machine
end

