-- ==== Sys2Proof/Machine/Dict.lean ====
section
/-! DEFINITION. The object dictionary: every entry's index, subindex, type, access, role, range and reset value
(R472 to R475, R492), its key in the register file, and access to the register file.

A key is index × 256 + subindex. `K.x` is the key of entry x; an entry of a unit or job takes its number, an entry of
several subindices its position. -/

namespace Sys2Proof.Machine

/-- Types of dictionary values (R473). -/
inductive OdType
  | bool | u8 | u16 | u32 | u64 | i32 | f32 | vis | octets | ref
  deriving DecidableEq, Repr

/-- Access codes (00_scope.md). -/
inductive Access
  | ro | rw | wo | const
  deriving DecidableEq, Repr

/-- One row of an entry table: indices `base + stride·u` for u below `count`, subindices `sub` to `sub + subs − 1`,
type, size (largest for VIS), access, role (0 operator, 1 service, 2 vendor), range, required multiple, and the bits
that are not reserved. -/
structure Entry where
  base   : Nat
  stride : Nat
  count  : Nat
  sub    : Nat
  subs   : Nat
  ty     : OdType
  size   : Nat
  access : Access
  role   : Nat
  lo     : Nat
  hi     : Nat
  mult   : Nat
  mask   : Nat
  deriving DecidableEq, Repr

/-- Result codes of a dictionary request (R475). -/
inductive OdResult
  | ok | noIndex | noSubindex | role | access | typeMismatch | reservedNonzero | unitAbsent | refused | unavailable
  deriving DecidableEq, Repr

/-- R491: vendor. -/
abbrev K.vendor : Nat := 0x100001
/-- R491: product. -/
abbrev K.product : Nat := 0x100002
/-- R491: ordering_code. -/
abbrev K.orderingCode : Nat := 0x100003
/-- R491: device_serial. -/
abbrev K.deviceSerialMirror : Nat := 0x100004
/-- R491: hw_level. -/
abbrev K.hwLevel : Nat := 0x100005
/-- R490: last_refused. -/
abbrev K.lastRefused : Nat := 0x100201
/-- R490: last_result. -/
abbrev K.lastResult : Nat := 0x100202
/-- R490: refusals. -/
abbrev K.refusals : Nat := 0x100203
/-- R490: requests. -/
abbrev K.requests : Nat := 0x100204
/-- R490: busy_answers. -/
abbrev K.busyAnswers : Nat := 0x100205
/-- R491: trust_version. -/
abbrev K.trustVersionMirror : Nat := 0x100401
/-- R491: control_version. -/
abbrev K.controlVersionMirror : Nat := 0x100402
/-- R491: fw_interface_version. -/
abbrev K.fwInterfaceVersionMirror : Nat := 0x100403
/-- R491: od_format_version. -/
abbrev K.odFormatVersion : Nat := 0x100404
/-- R491: contract_version. -/
abbrev K.contractVersionMirror : Nat := 0x100405
/-- R491: grade. -/
abbrev K.grade : Nat := 0x100800
/-- R491: phrases_present. -/
abbrev K.phrasesPresent : Nat := 0x100901
/-- R491: ees_present. -/
abbrev K.eesPresent : Nat := 0x100902
/-- R34: contract_version. -/
abbrev K.contractVersion : Nat := 0x101001
/-- R34: phrases_grade. -/
abbrev K.phrasesGrade : Nat := 0x101002
/-- R34: ees_grade. -/
abbrev K.eesGrade : Nat := 0x101003
/-- R34: conj_slices. -/
abbrev K.conjSlices : Nat := 0x101004
/-- R34: hbm_stacks. -/
abbrev K.hbmStacks : Nat := 0x101005
/-- R34: tier0_bytes. -/
abbrev K.tier0Bytes : Nat := 0x101006
/-- R34: tier1_raw_bytes. -/
abbrev K.tier1RawBytes : Nat := 0x101007
/-- R34: fabric_ports. -/
abbrev K.fabricPorts : Nat := 0x101008
/-- R34: array_dim. -/
abbrev K.arrayDim : Nat := 0x101009
/-- R34: lanes_per_phrase. -/
abbrev K.lanesPerPhrase : Nat := 0x10100A
/-- R34: mult_formats. -/
abbrev K.multFormats : Nat := 0x10100B
/-- R34: row_classes. -/
abbrev K.rowClasses : Nat := 0x10100C
/-- R34: msa_types. -/
abbrev K.msaTypes : Nat := 0x10100D
/-- R34: max_jobs. -/
abbrev K.maxJobs : Nat := 0x10100E
/-- R34: bag_trackers. -/
abbrev K.bagTrackers : Nat := 0x10100F
/-- R34: max_nodes. -/
abbrev K.maxNodes : Nat := 0x101010
/-- R34: phrases_in_service. -/
abbrev K.phrasesInService : Nat := 0x101101
/-- R34: ees_in_service. -/
abbrev K.eesInService : Nat := 0x101102
/-- R34: slices_in_service. -/
abbrev K.slicesInService : Nat := 0x101103
/-- R34: stacks_in_service. -/
abbrev K.stacksInService : Nat := 0x101104
/-- R34: tier0_bytes_avail. -/
abbrev K.tier0BytesAvail : Nat := 0x101105
/-- R34: dram_pkgs_in_service. -/
abbrev K.dramPkgsInService : Nat := 0x101106
/-- R34: ports_up. -/
abbrev K.portsUp : Nat := 0x101107
/-- R34: health_changes. -/
abbrev K.healthChanges : Nat := 0x101108
/-- R385: link_state. -/
abbrev K.ryeveLinkState : Nat := 0x110001
/-- R385: reconnects. -/
abbrev K.ryeveReconnects : Nat := 0x110002
/-- R385: holdoff_left. -/
abbrev K.ryeveHoldoffLeft : Nat := 0x110003
/-- R385: link_replays. -/
abbrev K.ryeveLinkReplays : Nat := 0x110004
/-- R385: fec_corrected. -/
abbrev K.ryeveFecCorrected : Nat := 0x110005
/-- R385: frames_dropped. -/
abbrev K.ryeveFramesDropped : Nat := 0x110006
/-- R385: session_state. -/
abbrev K.sessionState : Nat := 0x110101
/-- R385: heartbeat_timeout. -/
abbrev K.heartbeatTimeout : Nat := 0x110102
/-- R385: lease. -/
abbrev K.lease : Nat := 0x110103
/-- R385: host_version. -/
abbrev K.hostVersion : Nat := 0x110104
/-- R385: fw_interface_version. -/
abbrev K.fwInterfaceVersion : Nat := 0x110105
/-- R385: ignored_writes. -/
abbrev K.ignoredWrites : Nat := 0x110106
/-- R385: refused_opens. -/
abbrev K.refusedOpens : Nat := 0x110107
/-- R385: session_number. -/
abbrev K.sessionNumber : Nat := 0x110108
/-- R385: session_events_lost. -/
abbrev K.sessionEventsLost : Nat := 0x110109
/-- R489: plca_node_id. -/
abbrev K.sbPlcaNodeId : Nat := 0x120001
/-- R489: mac_address. -/
abbrev K.sbMacAddress : Nat := 0x120002
/-- R489: ryeve_service. -/
abbrev K.sbRyeveService : Nat := 0x120003
/-- R489: frames_rx. -/
abbrev K.sbFramesRx : Nat := 0x120004
/-- R489: frames_tx. -/
abbrev K.sbFramesTx : Nat := 0x120005
/-- R489: frames_dropped. -/
abbrev K.sbFramesDropped : Nat := 0x120006
/-- R489: plca_state. -/
abbrev K.sbPlcaState : Nat := 0x120007
/-- R489: repeated_exchanges. -/
abbrev K.sbRepeatedExchanges : Nat := 0x120008
/-- R411: inputs. -/
abbrev K.inputs : Nat := 0x122001
/-- R411: raw_inputs. -/
abbrev K.rawInputs : Nat := 0x122002
/-- R411: slot_id. -/
abbrev K.slotId : Nat := 0x122003
/-- R411: slot_id_mismatch. -/
abbrev K.slotIdMismatch : Nat := 0x122004
/-- R411: alert_status. -/
abbrev K.alertStatus : Nat := 0x122005
/-- R411: alert_mask. -/
abbrev K.alertMask : Nat := 0x122006
/-- R411: glitches. -/
abbrev K.glitches : Nat := 0x122007
/-- R411: pfw_holds. -/
abbrev K.pfwHolds : Nat := 0x122008
/-- R411: input_mv. -/
abbrev K.inputMv : Nat := 0x200001
/-- R411: input_ma. -/
abbrev K.inputMa : Nat := 0x200002
/-- R411: input_mw. -/
abbrev K.inputMw : Nat := 0x200003
/-- R411: power_cap. -/
abbrev K.powerCap : Nat := 0x200004
/-- R411: input_energy. -/
abbrev K.inputEnergy : Nat := 0x200005
/-- R411: limiter_samples. -/
abbrev K.limiterSamples : Nat := 0x200006
/-- R411: input_faults. -/
abbrev K.inputFaults : Nat := 0x200007
/-- R411: last_off_cause. -/
abbrev K.lastOffCause : Nat := 0x200008
/-- R385: window_credit. -/
abbrev K.windowCredit : Nat := 0x201001
/-- R385: window_charged. -/
abbrev K.windowCharged : Nat := 0x201002
/-- R385: window_excess. -/
abbrev K.windowExcess : Nat := 0x201003
/-- R385: hold_windows. -/
abbrev K.holdWindows : Nat := 0x201004
/-- R411: baseline_mw. -/
abbrev K.baselineMw : Nat := 0x201101
/-- R411: thermal_h. -/
abbrev K.thermalH : Nat := 0x201102
/-- R411: pll_locked. -/
abbrev K.pllLocked : Nat := 0x210001
/-- R411: deep_idle. -/
abbrev K.deepIdle : Nat := 0x210002
/-- R411: pll_unlocks. -/
abbrev K.pllUnlocks : Nat := 0x210003
/-- R411: phrase_states. -/
abbrev K.phraseStates (i : Nat) : Nat := 0x210201 + i
/-- R411: ee_states. -/
abbrev K.eeStates (i : Nat) : Nat := 0x210211 + i
/-- R411: slice_states. -/
abbrev K.sliceStates (i : Nat) : Nat := 0x210221 + i
/-- R411: fabric_engine_state. -/
abbrev K.fabricEngineState : Nat := 0x210231
/-- R411: core_states. -/
abbrev K.coreStates (i : Nat) : Nat := 0x210241 + i
/-- R411: junction. -/
abbrev K.junction : Nat := 0x220001
/-- R411: junction_limit. -/
abbrev K.junctionLimit : Nat := 0x220002
/-- R411: thermal_gate_ms. -/
abbrev K.thermalGateMs : Nat := 0x220003
/-- R411: thermal_trips. -/
abbrev K.thermalTrips : Nat := 0x220004
/-- R101: halt_record_array. -/
abbrev K.phrHaltRecordArray (u : Nat) : Nat := 0x230401 + 0x1000 * u
/-- R101: halt_record_vector. -/
abbrev K.phrHaltRecordVector (u : Nat) : Nat := 0x230402 + 0x1000 * u
/-- R101: halt_record_move. -/
abbrev K.phrHaltRecordMove (u : Nat) : Nat := 0x230403 + 0x1000 * u
/-- R101: halt_count. -/
abbrev K.phrHaltCount (u : Nat) : Nat := 0x230404 + 0x1000 * u
/-- R101: queue_occupancy_array. -/
abbrev K.phrQueueOccupancyArray (u : Nat) : Nat := 0x230405 + 0x1000 * u
/-- R101: queue_occupancy_vector. -/
abbrev K.phrQueueOccupancyVector (u : Nat) : Nat := 0x230406 + 0x1000 * u
/-- R101: queue_occupancy_move. -/
abbrev K.phrQueueOccupancyMove (u : Nat) : Nat := 0x230407 + 0x1000 * u
/-- R211: passes. -/
abbrev K.aryPasses (u : Nat) : Nat := 0x230501 + 0x1000 * u
/-- R211: rows_streamed. -/
abbrev K.aryRowsStreamed (u : Nat) : Nat := 0x230502 + 0x1000 * u
/-- R211: swap_wait_cycles. -/
abbrev K.arySwapWaitCycles (u : Nat) : Nat := 0x230503 + 0x1000 * u
/-- R211: swaps. -/
abbrev K.arySwaps (u : Nat) : Nat := 0x230504 + 0x1000 * u
/-- R211: spill_wait_cycles. -/
abbrev K.arySpillWaitCycles (u : Nat) : Nat := 0x230505 + 0x1000 * u
/-- R211: spills. -/
abbrev K.arySpills (u : Nat) : Nat := 0x230506 + 0x1000 * u
/-- R211: check_mismatches. -/
abbrev K.aryCheckMismatches (u : Nat) : Nat := 0x230507 + 0x1000 * u
/-- R211: elemwise_elements. -/
abbrev K.aryElemwiseElements (u : Nat) : Nat := 0x230508 + 0x1000 * u
/-- R230: commands. -/
abbrev K.vecCommands (u : Nat) : Nat := 0x230601 + 0x1000 * u
/-- R230: elements. -/
abbrev K.vecElements (u : Nat) : Nat := 0x230602 + 0x1000 * u
/-- R230: dep_wait_cycles. -/
abbrev K.vecDepWaitCycles (u : Nat) : Nat := 0x230603 + 0x1000 * u
/-- R230: half_rate_commands. -/
abbrev K.vecHalfRateCommands (u : Nat) : Nat := 0x230604 + 0x1000 * u
/-- R230: check_mismatches. -/
abbrev K.vecCheckMismatches (u : Nat) : Nat := 0x230605 + 0x1000 * u
/-- R230: tile_corrected. -/
abbrev K.vecTileCorrected (u : Nat) : Nat := 0x230606 + 0x1000 * u
/-- R146: indices_accepted. -/
abbrev K.eeIndicesAccepted (u : Nat) : Nat := 0x240001 + 0x1000 * u
/-- R146: cache_hits. -/
abbrev K.eeCacheHits (u : Nat) : Nat := 0x240002 + 0x1000 * u
/-- R146: row_fetches. -/
abbrev K.eeRowFetches (u : Nat) : Nat := 0x240003 + 0x1000 * u
/-- R146: attached. -/
abbrev K.eeAttached (u : Nat) : Nat := 0x240004 + 0x1000 * u
/-- R146: map_misses. -/
abbrev K.eeMapMisses (u : Nat) : Nat := 0x240005 + 0x1000 * u
/-- R146: pads. -/
abbrev K.eePads (u : Nat) : Nat := 0x240006 + 0x1000 * u
/-- R146: candidates_posted. -/
abbrev K.eeCandidatesPosted (u : Nat) : Nat := 0x240007 + 0x1000 * u
/-- R146: sketch_decay. -/
abbrev K.eeSketchDecay (u : Nat) : Nat := 0x240101 + 0x1000 * u
/-- R146: sectors_outstanding. -/
abbrev K.eeSectorsOutstanding (u : Nat) : Nat := 0x240102 + 0x1000 * u
/-- R146: trackers_busy. -/
abbrev K.eeTrackersBusy (u : Nat) : Nat := 0x240103 + 0x1000 * u
/-- R184: scatter_positions. -/
abbrev K.combScatterPositions (u : Nat) : Nat := 0x240201 + 0x1000 * u
/-- R184: combine_hits. -/
abbrev K.combineHits (u : Nat) : Nat := 0x240202 + 0x1000 * u
/-- R184: rows_allocated. -/
abbrev K.combRowsAllocated (u : Nat) : Nat := 0x240203 + 0x1000 * u
/-- R184: evictions. -/
abbrev K.combEvictions (u : Nat) : Nat := 0x240204 + 0x1000 * u
/-- R184: partials_sent. -/
abbrev K.combPartialsSent (u : Nat) : Nat := 0x240205 + 0x1000 * u
/-- R184: entries_held. -/
abbrev K.combEntriesHeld (u : Nat) : Nat := 0x240206 + 0x1000 * u
/-- R184: discarded. -/
abbrev K.combDiscarded (u : Nat) : Nat := 0x240207 + 0x1000 * u
/-- R101: halt_record. -/
abbrev K.eeHaltRecord (u : Nat) : Nat := 0x240401 + 0x1000 * u
/-- R101: halt_count. -/
abbrev K.eeHaltCount (u : Nat) : Nat := 0x240404 + 0x1000 * u
/-- R101: queue_occupancy. -/
abbrev K.eeQueueOccupancy (u : Nat) : Nat := 0x240405 + 0x1000 * u
/-- R181: sweep_period. -/
abbrev K.rowSweepPeriod : Nat := 0x252001
/-- R181: migrate_budget. -/
abbrev K.rowMigrateBudget : Nat := 0x252002
/-- R181: promotions. -/
abbrev K.promotions : Nat := 0x252101
/-- R181: demotions. -/
abbrev K.demotions : Nat := 0x252102
/-- R181: candidates_skipped. -/
abbrev K.candidatesSkipped : Nat := 0x252103
/-- R181: moves_repaired. -/
abbrev K.movesRepaired : Nat := 0x252104
/-- R181: epoch_waits. -/
abbrev K.epochWaits : Nat := 0x252105
/-- R181: overflow_records. -/
abbrev K.overflowRecords : Nat := 0x252106
/-- R272: pset_list. -/
abbrev K.psetList (u : Nat) : Nat := 0x254001 + 0x100 * u
/-- R272: pset_count. -/
abbrev K.psetCount (u : Nat) : Nat := 0x254002 + 0x100 * u
/-- R272: rb_base. -/
abbrev K.rbBase (u : Nat) : Nat := 0x254003 + 0x100 * u
/-- R272: rb_len. -/
abbrev K.rbLen (u : Nat) : Nat := 0x254004 + 0x100 * u
/-- R272: ext_base. -/
abbrev K.extBase (u : Nat) : Nat := 0x254005 + 0x100 * u
/-- R272: ext_len. -/
abbrev K.extLen (u : Nat) : Nat := 0x254006 + 0x100 * u
/-- R272: agree_timeout. -/
abbrev K.agreeTimeout (u : Nat) : Nat := 0x254007 + 0x100 * u
/-- R272: loss_scale. -/
abbrev K.lossScale (u : Nat) : Nat := 0x254008 + 0x100 * u
/-- R272: clean_steps. -/
abbrev K.cleanSteps (u : Nat) : Nat := 0x254009 + 0x100 * u
/-- R272: growth_interval. -/
abbrev K.growthInterval (u : Nat) : Nat := 0x25400A + 0x100 * u
/-- R272: scale_min. -/
abbrev K.scaleMin (u : Nat) : Nat := 0x25400B + 0x100 * u
/-- R272: scale_max. -/
abbrev K.scaleMax (u : Nat) : Nat := 0x25400C + 0x100 * u
/-- R272: scale_word. -/
abbrev K.scaleWord (u : Nat) : Nat := 0x25400D + 0x100 * u
/-- R272: agreed_epoch. -/
abbrev K.agreedEpoch (u : Nat) : Nat := 0x25400E + 0x100 * u
/-- R272: commits. -/
abbrev K.commits (u : Nat) : Nat := 0x25400F + 0x100 * u
/-- R272: ellipses. -/
abbrev K.ellipses (u : Nat) : Nat := 0x254010 + 0x100 * u
/-- R272: timeouts. -/
abbrev K.timeouts (u : Nat) : Nat := 0x254011 + 0x100 * u
/-- R272: last_results. -/
abbrev K.lastResults (u : Nat) : Nat := 0x254012 + 0x100 * u
/-- R272: commit_replays. -/
abbrev K.commitReplays (u : Nat) : Nat := 0x254013 + 0x100 * u
/-- R272: rb_waits. -/
abbrev K.rbWaits (u : Nat) : Nat := 0x254014 + 0x100 * u
/-- R272: uncommitted_drops. -/
abbrev K.uncommittedDrops (u : Nat) : Nat := 0x254015 + 0x100 * u
/-- R101: halt_record. -/
abbrev K.slHaltRecord (u : Nat) : Nat := 0x25C001 + 0x100 * u
/-- R101: halt_count. -/
abbrev K.slHaltCount (u : Nat) : Nat := 0x25C004 + 0x100 * u
/-- R101: queue_occupancy. -/
abbrev K.slQueueOccupancy (u : Nat) : Nat := 0x25C005 + 0x100 * u
/-- R309: t0_frames_in_service. -/
abbrev K.t0FramesInService : Nat := 0x260001
/-- R309: t0_reserve_frames. -/
abbrev K.t0ReserveFrames : Nat := 0x260002
/-- R309: t0_free_pool. -/
abbrev K.t0FreePool : Nat := 0x260003
/-- R309: t1_usable_bytes. -/
abbrev K.t1UsableBytes : Nat := 0x260101
/-- R309: t1_chunks_free. -/
abbrev K.t1ChunksFree : Nat := 0x260102
/-- R309: overcommit. -/
abbrev K.overcommit : Nat := 0x260103
/-- R309: t1_free_pool. -/
abbrev K.t1FreePool : Nat := 0x260104
/-- R309: t1_ratio. -/
abbrev K.t1Ratio : Nat := 0x260105
/-- R309: repacks. -/
abbrev K.repacks : Nat := 0x260106
/-- R309: t1_corrected. -/
abbrev K.t1Corrected : Nat := 0x260107
/-- R309: t1_uncorrectable. -/
abbrev K.t1Uncorrectable : Nat := 0x260108
/-- R309: export_bytes. -/
abbrev K.exportBytes : Nat := 0x260201
/-- R309: export_used. -/
abbrev K.exportUsed : Nat := 0x260202
/-- R309: import_grant. -/
abbrev K.importGrant (i : Nat) : Nat := 0x260301 + i
/-- R309: hbm_scrub. -/
abbrev K.hbmScrub : Nat := 0x260401
/-- R309: dram_scrub. -/
abbrev K.dramScrub : Nat := 0x260402
/-- R309: scrub_passes_t0. -/
abbrev K.scrubPassesT0 : Nat := 0x260403
/-- R309: scrub_passes_t1. -/
abbrev K.scrubPassesT1 : Nat := 0x260404
/-- R309: hbm_threshold. -/
abbrev K.hbmThreshold : Nat := 0x260501
/-- R309: hbm_hysteresis. -/
abbrev K.hbmHysteresis : Nat := 0x260502
/-- R309: low_water. -/
abbrev K.pageLowWater : Nat := 0x260601
/-- R309: sweep_period. -/
abbrev K.pageSweepPeriod : Nat := 0x260602
/-- R309: migrate_pages. -/
abbrev K.pageMigratePages : Nat := 0x260603
/-- R309: export_grant. -/
abbrev K.exportGrant (i : Nat) : Nat := 0x260701 + i
/-- R310: temperature. -/
abbrev K.hbmTemperature (u : Nat) : Nat := 0x261001 + 0x100 * u
/-- R310: throttle_level. -/
abbrev K.hbmThrottleLevel (u : Nat) : Nat := 0x261002 + 0x100 * u
/-- R310: throttled_ms. -/
abbrev K.hbmThrottledMs (u : Nat) : Nat := 0x261003 + 0x100 * u
/-- R310: corrected. -/
abbrev K.hbmCorrected (u : Nat) : Nat := 0x261004 + 0x100 * u
/-- R310: uncorrectable. -/
abbrev K.hbmUncorrectable (u : Nat) : Nat := 0x261005 + 0x100 * u
/-- R310: parity_retries. -/
abbrev K.hbmParityRetries (u : Nat) : Nat := 0x261006 + 0x100 * u
/-- R310: channels_in_service. -/
abbrev K.hbmChannelsInService (u : Nat) : Nat := 0x261007 + 0x100 * u
/-- R293: pol_allowed. -/
abbrev K.polAllowed (u : Nat) : Nat := 0x262001 + 0x100 * u
/-- R293: pol_promote_touches. -/
abbrev K.polPromoteTouches (u : Nat) : Nat := 0x262002 + 0x100 * u
/-- R293: pol_touch_window. -/
abbrev K.polTouchWindow (u : Nat) : Nat := 0x262003 + 0x100 * u
/-- R293: pol_demote_idle. -/
abbrev K.polDemoteIdle (u : Nat) : Nat := 0x262004 + 0x100 * u
/-- R293: pol_demote_to. -/
abbrev K.polDemoteTo (u : Nat) : Nat := 0x262005 + 0x100 * u
/-- R311: pt_root. -/
abbrev K.ptRoot (u : Nat) : Nat := 0x264001 + 0x100 * u
/-- R311: map_request. -/
abbrev K.mapRequest (u : Nat) : Nat := 0x264002 + 0x100 * u
/-- R311: map_status. -/
abbrev K.mapStatus (u : Nat) : Nat := 0x264003 + 0x100 * u
/-- R311: t0_data_quota. -/
abbrev K.t0DataQuota (u : Nat) : Nat := 0x264004 + 0x100 * u
/-- R311: t0_stash_quota. -/
abbrev K.t0StashQuota (u : Nat) : Nat := 0x264005 + 0x100 * u
/-- R311: t1_data_quota. -/
abbrev K.t1DataQuota (u : Nat) : Nat := 0x264006 + 0x100 * u
/-- R311: t1_stash_quota. -/
abbrev K.t1StashQuota (u : Nat) : Nat := 0x264007 + 0x100 * u
/-- R311: t2_data_quota. -/
abbrev K.t2DataQuota (u : Nat) : Nat := 0x264008 + 0x100 * u
/-- R311: t0_data_used. -/
abbrev K.t0DataUsed (u : Nat) : Nat := 0x264009 + 0x100 * u
/-- R311: t0_stash_used. -/
abbrev K.t0StashUsed (u : Nat) : Nat := 0x26400A + 0x100 * u
/-- R311: t1_data_used. -/
abbrev K.t1DataUsed (u : Nat) : Nat := 0x26400B + 0x100 * u
/-- R311: t1_stash_used. -/
abbrev K.t1StashUsed (u : Nat) : Nat := 0x26400C + 0x100 * u
/-- R311: t2_data_used. -/
abbrev K.t2DataUsed (u : Nat) : Nat := 0x26400D + 0x100 * u
/-- R311: quota_wait. -/
abbrev K.quotaWait (u : Nat) : Nat := 0x26400E + 0x100 * u
/-- R311: pages_promoted. -/
abbrev K.pagesPromoted (u : Nat) : Nat := 0x26400F + 0x100 * u
/-- R311: pages_demoted. -/
abbrev K.pagesDemoted (u : Nat) : Nat := 0x264010 + 0x100 * u
/-- R311: migration_write_waits. -/
abbrev K.migrationWriteWaits (u : Nat) : Nat := 0x264011 + 0x100 * u
/-- R348: node_id. -/
abbrev K.nodeId : Nat := 0x270001
/-- R348: retry_window. -/
abbrev K.retryWindow : Nat := 0x270002
/-- R348: request_timeout. -/
abbrev K.requestTimeout : Nat := 0x270003
/-- R348: frames_tx. -/
abbrev K.fabFramesTx : Nat := 0x270101
/-- R348: frames_rx. -/
abbrev K.fabFramesRx : Nat := 0x270102
/-- R348: held_requests. -/
abbrev K.fabHeldRequests : Nat := 0x270103
/-- R348: unreachable_halts. -/
abbrev K.fabUnreachableHalts : Nat := 0x270104
/-- R348: refused_inbound. -/
abbrev K.fabRefusedInbound : Nat := 0x270105
/-- R348: alias_entry. -/
abbrev K.aliasEntry (i : Nat) : Nat := 0x271001 + i
/-- R348: take_over. -/
abbrev K.takeOver : Nat := 0x271101
/-- R348: takeover_group. -/
abbrev K.takeoverGroup : Nat := 0x271102
/-- R348: takeover_status. -/
abbrev K.takeoverStatus : Nat := 0x271103
/-- R348: port_state. -/
abbrev K.portState (u : Nat) : Nat := 0x272001 + 0x100 * u
/-- R348: lanes_in_service. -/
abbrev K.portLanesInService (u : Nat) : Nat := 0x272002 + 0x100 * u
/-- R348: flaps. -/
abbrev K.portFlaps (u : Nat) : Nat := 0x272003 + 0x100 * u
/-- R348: quarantine_left. -/
abbrev K.portQuarantineLeft (u : Nat) : Nat := 0x272004 + 0x100 * u
/-- R348: link_replays. -/
abbrev K.portLinkReplays (u : Nat) : Nat := 0x272005 + 0x100 * u
/-- R348: fec_corrected. -/
abbrev K.portFecCorrected (u : Nat) : Nat := 0x272006 + 0x100 * u
/-- R348: auth_failures. -/
abbrev K.portAuthFailures (u : Nat) : Nat := 0x272007 + 0x100 * u
/-- R348: bytes_tx. -/
abbrev K.portBytesTx (u : Nat) : Nat := 0x272008 + 0x100 * u
/-- R348: bytes_rx. -/
abbrev K.portBytesRx (u : Nat) : Nat := 0x272009 + 0x100 * u
/-- R348: port_service. -/
abbrev K.portService (u : Nat) : Nat := 0x27200A + 0x100 * u
/-- R349: fabric_key. -/
abbrev K.fabricKey (u : Nat) : Nat := 0x274001 + 0x100 * u
/-- R349: group_list. -/
abbrev K.groupList (u : Nat) : Nat := 0x274002 + 0x100 * u
/-- R349: group_count. -/
abbrev K.groupCount (u : Nat) : Nat := 0x274003 + 0x100 * u
/-- R349: skew_policy. -/
abbrev K.skewPolicy (u : Nat) : Nat := 0x274004 + 0x100 * u
/-- R349: takeover_mode. -/
abbrev K.takeoverMode (u : Nat) : Nat := 0x274005 + 0x100 * u
/-- R349: release_timeout. -/
abbrev K.releaseTimeout (u : Nat) : Nat := 0x274006 + 0x100 * u
/-- R349: coll_timeout. -/
abbrev K.collTimeout (u : Nat) : Nat := 0x274007 + 0x100 * u
/-- R349: version_skews. -/
abbrev K.versionSkews (u : Nat) : Nat := 0x274008 + 0x100 * u
/-- R349: retain_waits. -/
abbrev K.retainWaits (u : Nat) : Nat := 0x274009 + 0x100 * u
/-- R349: retain_drops. -/
abbrev K.retainDrops (u : Nat) : Nat := 0x27400A + 0x100 * u
/-- R349: arrival_counter. -/
abbrev K.arrivalCounter (u : Nat) (i : Nat) : Nat := 0x278001 + 0x100 * u + i
/-- R101: halt_record. -/
abbrev K.fqHaltRecord (u : Nat) : Nat := 0x27C001 + 0x100 * u
/-- R101: halt_count. -/
abbrev K.fqHaltCount (u : Nat) : Nat := 0x27C004 + 0x100 * u
/-- R101: queue_occupancy. -/
abbrev K.fqQueueOccupancy (u : Nat) : Nat := 0x27C005 + 0x100 * u
/-- R471: snapshot. -/
abbrev K.snapshot : Nat := 0x280001
/-- R471: snapshot_tick. -/
abbrev K.snapshotTick : Nat := 0x280002
/-- R471: snapshot_a_cycles. -/
abbrev K.snapshotACycles : Nat := 0x280003
/-- R471: snapshot_seq. -/
abbrev K.snapshotSeq : Nat := 0x280004
/-- R471: snapshot_period. -/
abbrev K.snapshotPeriod : Nat := 0x280005
/-- R471: aon_now. -/
abbrev K.aonNow : Nat := 0x280006
/-- R471: sample_k. -/
abbrev K.smpSampleK : Nat := 0x281001
/-- R471: sample_classes. -/
abbrev K.smpSampleClasses : Nat := 0x281002
/-- R471: sample_job. -/
abbrev K.smpSampleJob : Nat := 0x281003
/-- R471: sample_seed. -/
abbrev K.smpSampleSeed : Nat := 0x281004
/-- R471: ring_base. -/
abbrev K.smpRingBase : Nat := 0x281005
/-- R471: produced. -/
abbrev K.smpProduced : Nat := 0x281006
/-- R471: consumed. -/
abbrev K.smpConsumed : Nat := 0x281007
/-- R471: dropped. -/
abbrev K.smpDropped : Nat := 0x281008
/-- R471: ctr_cycles. -/
abbrev K.ctrCycles (u : Nat) : Nat := 0x288001 + 0x100 * u
/-- R471: ctr_count. -/
abbrev K.ctrCount (u : Nat) (i : Nat) : Nat := 0x288002 + 0x100 * u + i
/-- R471: ctr_select. -/
abbrev K.ctrSelect (u : Nat) (i : Nat) : Nat := 0x28800A + 0x100 * u + i
/-- R471: ctr_cycles_shadow. -/
abbrev K.ctrCyclesShadow (u : Nat) : Nat := 0x288012 + 0x100 * u
/-- R471: ctr_count_shadow. -/
abbrev K.ctrCountShadow (u : Nat) (i : Nat) : Nat := 0x288013 + 0x100 * u + i
/-- R436: module_state. -/
abbrev K.moduleState : Nat := 0x290001
/-- R436: clear_degraded. -/
abbrev K.clearDegraded : Nat := 0x290002
/-- R436: queue_depth. -/
abbrev K.queueDepth : Nat := 0x290003
/-- R436: lost_entries. -/
abbrev K.lostEntries : Nat := 0x290004
/-- R436: next_seq. -/
abbrev K.nextSeq : Nat := 0x290005
/-- R436: corrected_total. -/
abbrev K.correctedTotal : Nat := 0x290006
/-- R436: detected_total. -/
abbrev K.detectedTotal : Nat := 0x290007
/-- R436: journal_head. -/
abbrev K.journalHead : Nat := 0x290101
/-- R436: journal_select. -/
abbrev K.journalSelect : Nat := 0x290102
/-- R436: journal_record. -/
abbrev K.journalRecord : Nat := 0x290103
/-- R436: journal_mirror. -/
abbrev K.journalMirror (i : Nat) : Nat := 0x290201 + i
/-- R436: service_request. -/
abbrev K.serviceRequest : Nat := 0x292001
/-- R436: service_status. -/
abbrev K.serviceStatus : Nat := 0x292002
/-- R436: phrase_service. -/
abbrev K.phraseService (i : Nat) : Nat := 0x293001 + i
/-- R436: ee_service. -/
abbrev K.eeService (i : Nat) : Nat := 0x293101 + i
/-- R436: slice_service. -/
abbrev K.sliceService (i : Nat) : Nat := 0x293201 + i
/-- R436: channel_service. -/
abbrev K.channelService (i : Nat) : Nat := 0x293301 + i
/-- R436: stack_service. -/
abbrev K.stackService (i : Nat) : Nat := 0x293401 + i
/-- R436: package_service. -/
abbrev K.packageService (i : Nat) : Nat := 0x293501 + i
/-- R436: port_service_state. -/
abbrev K.portServiceState (i : Nat) : Nat := 0x293601 + i
/-- R436: lane_service. -/
abbrev K.laneService (i : Nat) : Nat := 0x293701 + i
/-- R455: boot_status. -/
abbrev K.bootStatus : Nat := 0x2A0001
/-- R455: trust_slot. -/
abbrev K.trustSlot : Nat := 0x2A0002
/-- R455: control_slot. -/
abbrev K.controlSlot : Nat := 0x2A0003
/-- R455: boot_ticks. -/
abbrev K.bootTicks : Nat := 0x2A0004
/-- R455: verify_cause. -/
abbrev K.verifyCause : Nat := 0x2A0101
/-- R455: rejected_images. -/
abbrev K.rejectedImages : Nat := 0x2A0102
/-- R455: rollback_counter. -/
abbrev K.rollbackCounter (i : Nat) : Nat := 0x2A0201 + i
/-- R455: revoked_serials. -/
abbrev K.revokedSerials : Nat := 0x2A0301
/-- R455: trust_version. -/
abbrev K.trustVersion : Nat := 0x2A0401
/-- R455: trust_sv. -/
abbrev K.trustSv : Nat := 0x2A0402
/-- R455: m0. -/
abbrev K.m0 : Nat := 0x2A0403
/-- R455: m1. -/
abbrev K.m1 : Nat := 0x2A0404
/-- R455: log. -/
abbrev K.log : Nat := 0x2A0405
/-- R455: device_serial. -/
abbrev K.deviceSerial : Nat := 0x2A1001
/-- R455: identity_public. -/
abbrev K.identityPublic : Nat := 0x2A1002
/-- R455: cert_device. -/
abbrev K.certDevice : Nat := 0x2A1003
/-- R455: cert_intermediate. -/
abbrev K.certIntermediate : Nat := 0x2A1004
/-- R455: cert_root. -/
abbrev K.certRoot : Nat := 0x2A1005
/-- R455: attest_nonce. -/
abbrev K.attestNonce : Nat := 0x2A2001
/-- R455: attest_report. -/
abbrev K.attestReport : Nat := 0x2A2002
/-- R455: attest_status. -/
abbrev K.attestStatus : Nat := 0x2A2003
/-- R455: hall_root. -/
abbrev K.hallRoot : Nat := 0x2A3001
/-- R455: link_rekeys. -/
abbrev K.linkRekeys : Nat := 0x2A3002
/-- R455: keying_failures. -/
abbrev K.keyingFailures : Nat := 0x2A3003
/-- R385: image_version. -/
abbrev K.imageVersion : Nat := 0x2B0001
/-- R385: handover_count. -/
abbrev K.handoverCount : Nat := 0x2B0002
/-- R385: last_update. -/
abbrev K.lastUpdate : Nat := 0x2B0003
/-- R385: core_restarts. -/
abbrev K.coreRestarts (i : Nat) : Nat := 0x2B0101 + i
/-- R385: quantum. -/
abbrev K.quantum : Nat := 0x2B0801
/-- R385: nap_delay. -/
abbrev K.napDelay : Nat := 0x2B0802
/-- R385: off_delay. -/
abbrev K.offDelay : Nat := 0x2B0803
/-- R384: job_state. -/
abbrev K.jobState (u : Nat) : Nat := 0x300001 + 0x1000 * u
/-- R384: job_command. -/
abbrev K.jobCommand (u : Nat) : Nat := 0x300002 + 0x1000 * u
/-- R384: job_error. -/
abbrev K.jobError (u : Nat) : Nat := 0x300003 + 0x1000 * u
/-- R384: logical_phrases. -/
abbrev K.logicalPhrases (u : Nat) : Nat := 0x300004 + 0x1000 * u
/-- R384: logical_ees. -/
abbrev K.logicalEes (u : Nat) : Nat := 0x300005 + 0x1000 * u
/-- R384: halt_policy. -/
abbrev K.haltPolicy (u : Nat) : Nat := 0x300006 + 0x1000 * u
/-- R384: lease_policy. -/
abbrev K.leasePolicy (u : Nat) : Nat := 0x300007 + 0x1000 * u
/-- R384: priority. -/
abbrev K.priority (u : Nat) : Nat := 0x300008 + 0x1000 * u
/-- R384: accept_fillers. -/
abbrev K.acceptFillers (u : Nat) : Nat := 0x300009 + 0x1000 * u
/-- R384: ckpt_dest. -/
abbrev K.ckptDest (u : Nat) : Nat := 0x30000A + 0x1000 * u
/-- R384: ckpt_capacity. -/
abbrev K.ckptCapacity (u : Nat) : Nat := 0x30000B + 0x1000 * u
/-- R366: sq_base. -/
abbrev K.sqBase (u : Nat) : Nat := 0x300101 + 0x1000 * u
/-- R366: sq_entries. -/
abbrev K.sqEntries (u : Nat) : Nat := 0x300102 + 0x1000 * u
/-- R366: cq_base. -/
abbrev K.cqBase (u : Nat) : Nat := 0x300103 + 0x1000 * u
/-- R366: cq_entries. -/
abbrev K.cqEntries (u : Nat) : Nat := 0x300104 + 0x1000 * u
/-- R366: eq_base. -/
abbrev K.eqBase (u : Nat) : Nat := 0x300105 + 0x1000 * u
/-- R366: eq_entries. -/
abbrev K.eqEntries (u : Nat) : Nat := 0x300106 + 0x1000 * u
/-- R366: sq_consumed. -/
abbrev K.sqConsumed (u : Nat) : Nat := 0x300107 + 0x1000 * u
/-- R366: cq_produced. -/
abbrev K.cqProduced (u : Nat) : Nat := 0x300108 + 0x1000 * u
/-- R366: eq_produced. -/
abbrev K.eqProduced (u : Nat) : Nat := 0x300109 + 0x1000 * u
/-- R366: events_lost. -/
abbrev K.eventsLost (u : Nat) : Nat := 0x30010A + 0x1000 * u
/-- R384: clauses_admitted. -/
abbrev K.clausesAdmitted (u : Nat) : Nat := 0x300201 + 0x1000 * u
/-- R384: credit_wait_ticks. -/
abbrev K.creditWaitTicks (u : Nat) : Nat := 0x300202 + 0x1000 * u
/-- R384: switches. -/
abbrev K.switches (u : Nat) : Nat := 0x300203 + 0x1000 * u
/-- R384: filler_clauses. -/
abbrev K.fillerClauses (u : Nat) : Nat := 0x300204 + 0x1000 * u
/-- R384: charged_mj. -/
abbrev K.chargedMj (u : Nat) : Nat := 0x300205 + 0x1000 * u
/-- R384: held_windows. -/
abbrev K.heldWindows (u : Nat) : Nat := 0x300206 + 0x1000 * u
/-- R493: job_label. -/
abbrev K.jobLabel (u : Nat) : Nat := 0x300301 + 0x1000 * u
/-- R493: created_tick. -/
abbrev K.createdTick (u : Nat) : Nat := 0x300302 + 0x1000 * u
/-- R493: created_session. -/
abbrev K.createdSession (u : Nat) : Nat := 0x300303 + 0x1000 * u
/-- R493: resident. -/
abbrev K.resident (u : Nat) : Nat := 0x300304 + 0x1000 * u
/-- R493: lane_seed. -/
abbrev K.laneSeed (u : Nat) : Nat := 0x300305 + 0x1000 * u
/-- R92: code_base. -/
abbrev K.codeBase (u : Nat) (i : Nat) : Nat := 0x300801 + 0x1000 * u + i
/-- R92: code_len_state. -/
abbrev K.codeLenState (u : Nat) (i : Nat) : Nat := 0x300901 + 0x1000 * u + i
/-- R108: table_list. -/
abbrev K.tableList (u : Nat) : Nat := 0x300A01 + 0x1000 * u
/-- R108: table_count. -/
abbrev K.tableCount (u : Nat) : Nat := 0x300A02 + 0x1000 * u
/-- R157: grad_list. -/
abbrev K.gradList (u : Nat) : Nat := 0x300B01 + 0x1000 * u
/-- R168: pend_base. -/
abbrev K.pendBase (u : Nat) : Nat := 0x300C01 + 0x1000 * u
/-- R168: pend_bucket_bits. -/
abbrev K.pendBucketBits (u : Nat) : Nat := 0x300C02 + 0x1000 * u
/-- R168: pend_stride. -/
abbrev K.pendStride (u : Nat) : Nat := 0x300C03 + 0x1000 * u
/-- R168: parked. -/
abbrev K.parked (u : Nat) : Nat := 0x300C04 + 0x1000 * u
/-- R168: page_requests. -/
abbrev K.pageRequests (u : Nat) : Nat := 0x300C05 + 0x1000 * u
/-- R168: flush_stalls. -/
abbrev K.flushStalls (u : Nat) : Nat := 0x300C06 + 0x1000 * u
/-- R168: stall_ticks. -/
abbrev K.stallTicks (u : Nat) : Nat := 0x300C07 + 0x1000 * u
/-- R168: longest_stall. -/
abbrev K.longestStall (u : Nat) : Nat := 0x300C08 + 0x1000 * u
/-- R237: stash_base. -/
abbrev K.stashBase (u : Nat) : Nat := 0x300D01 + 0x1000 * u
/-- R237: stash_len. -/
abbrev K.stashLen (u : Nat) : Nat := 0x300D02 + 0x1000 * u
/-- R237: stash_grant. -/
abbrev K.stashGrant (u : Nat) : Nat := 0x300D03 + 0x1000 * u
/-- R237: grant_limit. -/
abbrev K.grantLimit (u : Nat) : Nat := 0x300D04 + 0x1000 * u
/-- R237: spilled_pages. -/
abbrev K.spilledPages (u : Nat) : Nat := 0x300D05 + 0x1000 * u
/-- R237: quota_halts. -/
abbrev K.quotaHalts (u : Nat) : Nat := 0x300D06 + 0x1000 * u
/-- R237: granted_pages. -/
abbrev K.grantedPages (u : Nat) : Nat := 0x300D07 + 0x1000 * u
/-- R237: stage_quota_t0. -/
abbrev K.stageQuotaT0 (u : Nat) (i : Nat) : Nat := 0x300E01 + 0x1000 * u + i
/-- R237: stage_quota_t1. -/
abbrev K.stageQuotaT1 (u : Nat) (i : Nat) : Nat := 0x300E41 + 0x1000 * u + i
/-- R237: stage_used_t0. -/
abbrev K.stageUsedT0 (u : Nat) (i : Nat) : Nat := 0x300F01 + 0x1000 * u + i
/-- R237: stage_used_t1. -/
abbrev K.stageUsedT1 (u : Nat) (i : Nat) : Nat := 0x300F41 + 0x1000 * u + i
/-- R455: debug_challenge. -/
abbrev K.debugChallenge : Nat := 0x500001
/-- R455: debug_token. -/
abbrev K.debugToken : Nat := 0x500002
/-- R455: debug_status. -/
abbrev K.debugStatus : Nat := 0x500003
/-- R455: debug_lock. -/
abbrev K.debugLock : Nat := 0x500004
/-- R455: debug_remaining. -/
abbrev K.debugRemaining : Nat := 0x500005
/-- R36: physical_binding. -/
abbrev K.physicalBinding : Nat := 0x501000
/-- R107: live_code_write. -/
abbrev K.liveCodeWrite : Nat := 0x501100

/-- Entry tables at 0x10__. -/
def Dict.rows10 : List Entry :=
  [ ⟨0x1000, 0, 1, 0x1, 1, .vis, 16, .const, 0, 0, 0, 1, 0x0⟩,
    ⟨0x1000, 0, 1, 0x2, 1, .vis, 32, .const, 0, 0, 0, 1, 0x0⟩,
    ⟨0x1000, 0, 1, 0x3, 1, .vis, 16, .const, 0, 0, 0, 1, 0x0⟩,
    ⟨0x1000, 0, 1, 0x4, 1, .u64, 8, .const, 0, 0, 18446744073709551615, 1, 0xFFFFFFFFFFFFFFFF⟩,
    ⟨0x1000, 0, 1, 0x5, 1, .vis, 8, .const, 0, 0, 0, 1, 0x0⟩,
    ⟨0x1002, 0, 1, 0x1, 1, .ref, 4, .ro, 0, 0, 4294967295, 1, 0xFFFFFFFF⟩,
    ⟨0x1002, 0, 1, 0x2, 1, .u8, 1, .ro, 0, 0, 255, 1, 0xFF⟩,
    ⟨0x1002, 0, 1, 0x3, 1, .u64, 8, .ro, 0, 0, 18446744073709551615, 1, 0xFFFFFFFFFFFFFFFF⟩,
    ⟨0x1002, 0, 1, 0x4, 1, .u64, 8, .ro, 0, 0, 18446744073709551615, 1, 0xFFFFFFFFFFFFFFFF⟩,
    ⟨0x1002, 0, 1, 0x5, 1, .u64, 8, .ro, 0, 0, 18446744073709551615, 1, 0xFFFFFFFFFFFFFFFF⟩,
    ⟨0x1004, 0, 1, 0x1, 1, .u32, 4, .ro, 0, 0, 4294967295, 1, 0xFFFFFFFF⟩,
    ⟨0x1004, 0, 1, 0x2, 1, .u32, 4, .ro, 0, 0, 4294967295, 1, 0xFFFFFFFF⟩,
    ⟨0x1004, 0, 1, 0x3, 1, .u32, 4, .ro, 0, 0, 4294967295, 1, 0xFFFFFFFF⟩,
    ⟨0x1004, 0, 1, 0x4, 1, .u32, 4, .const, 0, 0, 4294967295, 1, 0xFFFFFFFF⟩,
    ⟨0x1004, 0, 1, 0x5, 1, .u32, 4, .const, 0, 0, 4294967295, 1, 0xFFFFFFFF⟩,
    ⟨0x1008, 0, 1, 0x0, 1, .u8, 1, .const, 0, 0, 255, 1, 0xFF⟩,
    ⟨0x1009, 0, 1, 0x1, 1, .u8, 1, .const, 0, 0, 255, 1, 0xFF⟩,
    ⟨0x1009, 0, 1, 0x2, 1, .u16, 2, .const, 0, 0, 65535, 1, 0xFFFF⟩,
    ⟨0x1010, 0, 1, 0x1, 1, .u32, 4, .const, 0, 0, 4294967295, 1, 0xFFFFFFFF⟩,
    ⟨0x1010, 0, 1, 0x2, 1, .u8, 1, .const, 0, 0, 255, 1, 0xFF⟩,
    ⟨0x1010, 0, 1, 0x3, 1, .u8, 1, .const, 0, 0, 255, 1, 0xFF⟩,
    ⟨0x1010, 0, 1, 0x4, 1, .u8, 1, .const, 0, 0, 255, 1, 0xFF⟩,
    ⟨0x1010, 0, 1, 0x5, 1, .u8, 1, .const, 0, 0, 255, 1, 0xFF⟩,
    ⟨0x1010, 0, 1, 0x6, 1, .u64, 8, .const, 0, 0, 18446744073709551615, 1, 0xFFFFFFFFFFFFFFFF⟩,
    ⟨0x1010, 0, 1, 0x7, 1, .u64, 8, .const, 0, 0, 18446744073709551615, 1, 0xFFFFFFFFFFFFFFFF⟩,
    ⟨0x1010, 0, 1, 0x8, 1, .u8, 1, .const, 0, 0, 255, 1, 0xFF⟩,
    ⟨0x1010, 0, 1, 0x9, 1, .u16, 2, .const, 0, 0, 65535, 1, 0xFFFF⟩,
    ⟨0x1010, 0, 1, 0xA, 1, .u16, 2, .const, 0, 0, 65535, 1, 0xFFFF⟩,
    ⟨0x1010, 0, 1, 0xB, 1, .u32, 4, .const, 0, 0, 4294967295, 1, 0xFFFFFFFF⟩,
    ⟨0x1010, 0, 1, 0xC, 1, .u32, 4, .const, 0, 0, 4294967295, 1, 0xFFFFFFFF⟩,
    ⟨0x1010, 0, 1, 0xD, 1, .u32, 4, .const, 0, 0, 4294967295, 1, 0xFFFFFFFF⟩,
    ⟨0x1010, 0, 1, 0xE, 1, .u8, 1, .const, 0, 0, 255, 1, 0xFF⟩,
    ⟨0x1010, 0, 1, 0xF, 1, .u16, 2, .const, 0, 0, 65535, 1, 0xFFFF⟩,
    ⟨0x1010, 0, 1, 0x10, 1, .u16, 2, .const, 0, 0, 65535, 1, 0xFFFF⟩,
    ⟨0x1011, 0, 1, 0x1, 1, .u8, 1, .ro, 0, 0, 255, 1, 0xFF⟩,
    ⟨0x1011, 0, 1, 0x2, 1, .u8, 1, .ro, 0, 0, 255, 1, 0xFF⟩,
    ⟨0x1011, 0, 1, 0x3, 1, .u8, 1, .ro, 0, 0, 255, 1, 0xFF⟩,
    ⟨0x1011, 0, 1, 0x4, 1, .u8, 1, .ro, 0, 0, 255, 1, 0xFF⟩,
    ⟨0x1011, 0, 1, 0x5, 1, .u64, 8, .ro, 0, 0, 18446744073709551615, 1, 0xFFFFFFFFFFFFFFFF⟩,
    ⟨0x1011, 0, 1, 0x6, 1, .u8, 1, .ro, 0, 0, 255, 1, 0xFF⟩,
    ⟨0x1011, 0, 1, 0x7, 1, .u8, 1, .ro, 0, 0, 255, 1, 0xFF⟩,
    ⟨0x1011, 0, 1, 0x8, 1, .u32, 4, .ro, 0, 0, 4294967295, 1, 0xFFFFFFFF⟩ ]

/-- Entry tables at 0x11__. -/
def Dict.rows11 : List Entry :=
  [ ⟨0x1100, 0, 1, 0x1, 1, .u8, 1, .ro, 0, 0, 255, 1, 0xFF⟩,
    ⟨0x1100, 0, 1, 0x2, 1, .u8, 1, .ro, 0, 0, 255, 1, 0xFF⟩,
    ⟨0x1100, 0, 1, 0x3, 1, .u32, 4, .ro, 0, 0, 4294967295, 1, 0xFFFFFFFF⟩,
    ⟨0x1100, 0, 1, 0x4, 1, .u64, 8, .ro, 0, 0, 18446744073709551615, 1, 0xFFFFFFFFFFFFFFFF⟩,
    ⟨0x1100, 0, 1, 0x5, 1, .u64, 8, .ro, 0, 0, 18446744073709551615, 1, 0xFFFFFFFFFFFFFFFF⟩,
    ⟨0x1100, 0, 1, 0x6, 1, .u64, 8, .ro, 0, 0, 18446744073709551615, 1, 0xFFFFFFFFFFFFFFFF⟩,
    ⟨0x1101, 0, 1, 0x1, 1, .u8, 1, .ro, 0, 0, 255, 1, 0xFF⟩,
    ⟨0x1101, 0, 1, 0x2, 1, .u32, 4, .rw, 1, 100, 60000, 1, 0xFFFFFFFF⟩,
    ⟨0x1101, 0, 1, 0x3, 1, .u32, 4, .rw, 1, 0, 86400, 1, 0xFFFFFFFF⟩,
    ⟨0x1101, 0, 1, 0x4, 1, .u32, 4, .ro, 0, 0, 4294967295, 1, 0xFFFFFFFF⟩,
    ⟨0x1101, 0, 1, 0x5, 1, .u32, 4, .ro, 0, 0, 4294967295, 1, 0xFFFFFFFF⟩,
    ⟨0x1101, 0, 1, 0x6, 1, .u64, 8, .ro, 0, 0, 18446744073709551615, 1, 0xFFFFFFFFFFFFFFFF⟩,
    ⟨0x1101, 0, 1, 0x7, 1, .u64, 8, .ro, 0, 0, 18446744073709551615, 1, 0xFFFFFFFFFFFFFFFF⟩,
    ⟨0x1101, 0, 1, 0x8, 1, .u32, 4, .ro, 0, 0, 4294967295, 1, 0xFFFFFFFF⟩,
    ⟨0x1101, 0, 1, 0x9, 1, .u64, 8, .ro, 0, 0, 18446744073709551615, 1, 0xFFFFFFFFFFFFFFFF⟩ ]

/-- Entry tables at 0x12__. -/
def Dict.rows12 : List Entry :=
  [ ⟨0x1200, 0, 1, 0x1, 1, .u8, 1, .ro, 0, 0, 255, 1, 0xFF⟩,
    ⟨0x1200, 0, 1, 0x2, 1, .octets, 6, .ro, 0, 0, 0, 1, 0x0⟩,
    ⟨0x1200, 0, 1, 0x3, 1, .bool, 1, .rw, 1, 0, 255, 1, 0xFF⟩,
    ⟨0x1200, 0, 1, 0x4, 1, .u64, 8, .ro, 0, 0, 18446744073709551615, 1, 0xFFFFFFFFFFFFFFFF⟩,
    ⟨0x1200, 0, 1, 0x5, 1, .u64, 8, .ro, 0, 0, 18446744073709551615, 1, 0xFFFFFFFFFFFFFFFF⟩,
    ⟨0x1200, 0, 1, 0x6, 1, .u64, 8, .ro, 0, 0, 18446744073709551615, 1, 0xFFFFFFFFFFFFFFFF⟩,
    ⟨0x1200, 0, 1, 0x7, 1, .u8, 1, .ro, 0, 0, 255, 1, 0xFF⟩,
    ⟨0x1200, 0, 1, 0x8, 1, .u64, 8, .ro, 0, 0, 18446744073709551615, 1, 0xFFFFFFFFFFFFFFFF⟩,
    ⟨0x1220, 0, 1, 0x1, 1, .u8, 1, .ro, 0, 0, 255, 1, 0xFF⟩,
    ⟨0x1220, 0, 1, 0x2, 1, .u8, 1, .ro, 0, 0, 255, 1, 0xFF⟩,
    ⟨0x1220, 0, 1, 0x3, 1, .u8, 1, .ro, 0, 0, 255, 1, 0xFF⟩,
    ⟨0x1220, 0, 1, 0x4, 1, .bool, 1, .ro, 0, 0, 255, 1, 0xFF⟩,
    ⟨0x1220, 0, 1, 0x5, 1, .u32, 4, .rw, 0, 0, 4294967295, 1, 0xFF⟩,
    ⟨0x1220, 0, 1, 0x6, 1, .u32, 4, .rw, 1, 0, 4294967295, 1, 0xFFFFFFFF⟩,
    ⟨0x1220, 0, 1, 0x7, 1, .u32, 4, .ro, 0, 0, 4294967295, 1, 0xFFFFFFFF⟩,
    ⟨0x1220, 0, 1, 0x8, 1, .u32, 4, .ro, 0, 0, 4294967295, 1, 0xFFFFFFFF⟩ ]

/-- Entry tables at 0x20__. -/
def Dict.rows20 : List Entry :=
  [ ⟨0x2000, 0, 1, 0x1, 1, .u32, 4, .ro, 0, 0, 4294967295, 1, 0xFFFFFFFF⟩,
    ⟨0x2000, 0, 1, 0x2, 1, .u32, 4, .ro, 0, 0, 4294967295, 1, 0xFFFFFFFF⟩,
    ⟨0x2000, 0, 1, 0x3, 1, .u32, 4, .ro, 0, 0, 4294967295, 1, 0xFFFFFFFF⟩,
    ⟨0x2000, 0, 1, 0x4, 1, .u32, 4, .rw, 1, 400, 1250, 1, 0xFFFFFFFF⟩,
    ⟨0x2000, 0, 1, 0x5, 1, .u64, 8, .ro, 0, 0, 18446744073709551615, 1, 0xFFFFFFFFFFFFFFFF⟩,
    ⟨0x2000, 0, 1, 0x6, 1, .u64, 8, .ro, 0, 0, 18446744073709551615, 1, 0xFFFFFFFFFFFFFFFF⟩,
    ⟨0x2000, 0, 1, 0x7, 1, .u32, 4, .ro, 0, 0, 4294967295, 1, 0xFFFFFFFF⟩,
    ⟨0x2000, 0, 1, 0x8, 1, .u8, 1, .ro, 0, 0, 255, 1, 0xFF⟩,
    ⟨0x2010, 0, 1, 0x1, 1, .u32, 4, .ro, 0, 0, 4294967295, 1, 0xFFFFFFFF⟩,
    ⟨0x2010, 0, 1, 0x2, 1, .u32, 4, .ro, 0, 0, 4294967295, 1, 0xFFFFFFFF⟩,
    ⟨0x2010, 0, 1, 0x3, 1, .u32, 4, .ro, 0, 0, 4294967295, 1, 0xFFFFFFFF⟩,
    ⟨0x2010, 0, 1, 0x4, 1, .u64, 8, .ro, 0, 0, 18446744073709551615, 1, 0xFFFFFFFFFFFFFFFF⟩,
    ⟨0x2011, 0, 1, 0x1, 1, .u32, 4, .ro, 0, 0, 4294967295, 1, 0xFFFFFFFF⟩,
    ⟨0x2011, 0, 1, 0x2, 1, .f32, 4, .ro, 0, 0, 4294967295, 1, 0xFFFFFFFF⟩ ]

/-- Entry tables at 0x21__. -/
def Dict.rows21 : List Entry :=
  [ ⟨0x2100, 0, 1, 0x1, 1, .u8, 1, .ro, 0, 0, 255, 1, 0xFF⟩,
    ⟨0x2100, 0, 1, 0x2, 1, .bool, 1, .rw, 1, 0, 255, 1, 0xFF⟩,
    ⟨0x2100, 0, 1, 0x3, 1, .u32, 4, .ro, 0, 0, 4294967295, 1, 0xFFFFFFFF⟩,
    ⟨0x2102, 0, 1, 0x1, 8, .u8, 1, .ro, 0, 0, 255, 1, 0xFF⟩,
    ⟨0x2102, 0, 1, 0x11, 16, .u8, 1, .ro, 0, 0, 255, 1, 0xFF⟩,
    ⟨0x2102, 0, 1, 0x21, 12, .u8, 1, .ro, 0, 0, 255, 1, 0xFF⟩,
    ⟨0x2102, 0, 1, 0x31, 1, .u8, 1, .ro, 0, 0, 255, 1, 0xFF⟩,
    ⟨0x2102, 0, 1, 0x41, 4, .u8, 1, .ro, 0, 0, 255, 1, 0xFF⟩ ]

/-- Entry tables at 0x22__. -/
def Dict.rows22 : List Entry :=
  [ ⟨0x2200, 0, 1, 0x1, 1, .i32, 4, .ro, 0, 0, 4294967295, 1, 0xFFFFFFFF⟩,
    ⟨0x2200, 0, 1, 0x2, 1, .u8, 1, .rw, 1, 90, 105, 1, 0xFF⟩,
    ⟨0x2200, 0, 1, 0x3, 1, .u64, 8, .ro, 0, 0, 18446744073709551615, 1, 0xFFFFFFFFFFFFFFFF⟩,
    ⟨0x2200, 0, 1, 0x4, 1, .u32, 4, .ro, 0, 0, 4294967295, 1, 0xFFFFFFFF⟩ ]

/-- Entry tables at 0x23__. -/
def Dict.rows23 : List Entry :=
  [ ⟨0x2304, 16, 8, 0x1, 1, .octets, 32, .ro, 0, 0, 0, 1, 0x0⟩,
    ⟨0x2304, 16, 8, 0x2, 1, .octets, 32, .ro, 0, 0, 0, 1, 0x0⟩,
    ⟨0x2304, 16, 8, 0x3, 1, .octets, 32, .ro, 0, 0, 0, 1, 0x0⟩,
    ⟨0x2304, 16, 8, 0x4, 1, .u32, 4, .ro, 0, 0, 4294967295, 1, 0xFFFFFFFF⟩,
    ⟨0x2304, 16, 8, 0x5, 1, .u16, 2, .ro, 0, 0, 65535, 1, 0xFFFF⟩,
    ⟨0x2304, 16, 8, 0x6, 1, .u16, 2, .ro, 0, 0, 65535, 1, 0xFFFF⟩,
    ⟨0x2304, 16, 8, 0x7, 1, .u16, 2, .ro, 0, 0, 65535, 1, 0xFFFF⟩,
    ⟨0x2305, 16, 8, 0x1, 1, .u64, 8, .ro, 0, 0, 18446744073709551615, 1, 0xFFFFFFFFFFFFFFFF⟩,
    ⟨0x2305, 16, 8, 0x2, 1, .u64, 8, .ro, 0, 0, 18446744073709551615, 1, 0xFFFFFFFFFFFFFFFF⟩,
    ⟨0x2305, 16, 8, 0x3, 1, .u64, 8, .ro, 0, 0, 18446744073709551615, 1, 0xFFFFFFFFFFFFFFFF⟩,
    ⟨0x2305, 16, 8, 0x4, 1, .u64, 8, .ro, 0, 0, 18446744073709551615, 1, 0xFFFFFFFFFFFFFFFF⟩,
    ⟨0x2305, 16, 8, 0x5, 1, .u64, 8, .ro, 0, 0, 18446744073709551615, 1, 0xFFFFFFFFFFFFFFFF⟩,
    ⟨0x2305, 16, 8, 0x6, 1, .u64, 8, .ro, 0, 0, 18446744073709551615, 1, 0xFFFFFFFFFFFFFFFF⟩,
    ⟨0x2305, 16, 8, 0x7, 1, .u32, 4, .ro, 0, 0, 4294967295, 1, 0xFFFFFFFF⟩,
    ⟨0x2305, 16, 8, 0x8, 1, .u64, 8, .ro, 0, 0, 18446744073709551615, 1, 0xFFFFFFFFFFFFFFFF⟩,
    ⟨0x2306, 16, 8, 0x1, 1, .u64, 8, .ro, 0, 0, 18446744073709551615, 1, 0xFFFFFFFFFFFFFFFF⟩,
    ⟨0x2306, 16, 8, 0x2, 1, .u64, 8, .ro, 0, 0, 18446744073709551615, 1, 0xFFFFFFFFFFFFFFFF⟩,
    ⟨0x2306, 16, 8, 0x3, 1, .u64, 8, .ro, 0, 0, 18446744073709551615, 1, 0xFFFFFFFFFFFFFFFF⟩,
    ⟨0x2306, 16, 8, 0x4, 1, .u64, 8, .ro, 0, 0, 18446744073709551615, 1, 0xFFFFFFFFFFFFFFFF⟩,
    ⟨0x2306, 16, 8, 0x5, 1, .u32, 4, .ro, 0, 0, 4294967295, 1, 0xFFFFFFFF⟩,
    ⟨0x2306, 16, 8, 0x6, 1, .u32, 4, .ro, 0, 0, 4294967295, 1, 0xFFFFFFFF⟩ ]

/-- Entry tables at 0x24__. -/
def Dict.rows24 : List Entry :=
  [ ⟨0x2400, 16, 16, 0x1, 1, .u64, 8, .ro, 0, 0, 18446744073709551615, 1, 0xFFFFFFFFFFFFFFFF⟩,
    ⟨0x2400, 16, 16, 0x2, 1, .u64, 8, .ro, 0, 0, 18446744073709551615, 1, 0xFFFFFFFFFFFFFFFF⟩,
    ⟨0x2400, 16, 16, 0x3, 1, .u64, 8, .ro, 0, 0, 18446744073709551615, 1, 0xFFFFFFFFFFFFFFFF⟩,
    ⟨0x2400, 16, 16, 0x4, 1, .u64, 8, .ro, 0, 0, 18446744073709551615, 1, 0xFFFFFFFFFFFFFFFF⟩,
    ⟨0x2400, 16, 16, 0x5, 1, .u64, 8, .ro, 0, 0, 18446744073709551615, 1, 0xFFFFFFFFFFFFFFFF⟩,
    ⟨0x2400, 16, 16, 0x6, 1, .u64, 8, .ro, 0, 0, 18446744073709551615, 1, 0xFFFFFFFFFFFFFFFF⟩,
    ⟨0x2400, 16, 16, 0x7, 1, .u64, 8, .ro, 0, 0, 18446744073709551615, 1, 0xFFFFFFFFFFFFFFFF⟩,
    ⟨0x2401, 16, 16, 0x1, 1, .u32, 4, .rw, 1, 65536, 2147483648, 1, 0xFFFFFFFF⟩,
    ⟨0x2401, 16, 16, 0x2, 1, .u16, 2, .ro, 0, 0, 65535, 1, 0xFFFF⟩,
    ⟨0x2401, 16, 16, 0x3, 1, .u16, 2, .ro, 0, 0, 65535, 1, 0xFFFF⟩,
    ⟨0x2402, 16, 16, 0x1, 1, .u64, 8, .ro, 0, 0, 18446744073709551615, 1, 0xFFFFFFFFFFFFFFFF⟩,
    ⟨0x2402, 16, 16, 0x2, 1, .u64, 8, .ro, 0, 0, 18446744073709551615, 1, 0xFFFFFFFFFFFFFFFF⟩,
    ⟨0x2402, 16, 16, 0x3, 1, .u64, 8, .ro, 0, 0, 18446744073709551615, 1, 0xFFFFFFFFFFFFFFFF⟩,
    ⟨0x2402, 16, 16, 0x4, 1, .u64, 8, .ro, 0, 0, 18446744073709551615, 1, 0xFFFFFFFFFFFFFFFF⟩,
    ⟨0x2402, 16, 16, 0x5, 1, .u64, 8, .ro, 0, 0, 18446744073709551615, 1, 0xFFFFFFFFFFFFFFFF⟩,
    ⟨0x2402, 16, 16, 0x6, 1, .u16, 2, .ro, 0, 0, 65535, 1, 0xFFFF⟩,
    ⟨0x2402, 16, 16, 0x7, 1, .u64, 8, .ro, 0, 0, 18446744073709551615, 1, 0xFFFFFFFFFFFFFFFF⟩,
    ⟨0x2404, 16, 16, 0x1, 1, .octets, 32, .ro, 0, 0, 0, 1, 0x0⟩,
    ⟨0x2404, 16, 16, 0x4, 1, .u32, 4, .ro, 0, 0, 4294967295, 1, 0xFFFFFFFF⟩,
    ⟨0x2404, 16, 16, 0x5, 1, .u16, 2, .ro, 0, 0, 65535, 1, 0xFFFF⟩ ]

/-- Entry tables at 0x25__. -/
def Dict.rows25 : List Entry :=
  [ ⟨0x2520, 0, 1, 0x1, 1, .u32, 4, .rw, 1, 10, 3600000, 1, 0xFFFFFFFF⟩,
    ⟨0x2520, 0, 1, 0x2, 1, .u32, 4, .rw, 1, 0, 65535, 1, 0xFFFFFFFF⟩,
    ⟨0x2521, 0, 1, 0x1, 1, .u64, 8, .ro, 0, 0, 18446744073709551615, 1, 0xFFFFFFFFFFFFFFFF⟩,
    ⟨0x2521, 0, 1, 0x2, 1, .u64, 8, .ro, 0, 0, 18446744073709551615, 1, 0xFFFFFFFFFFFFFFFF⟩,
    ⟨0x2521, 0, 1, 0x3, 1, .u64, 8, .ro, 0, 0, 18446744073709551615, 1, 0xFFFFFFFFFFFFFFFF⟩,
    ⟨0x2521, 0, 1, 0x4, 1, .u64, 8, .ro, 0, 0, 18446744073709551615, 1, 0xFFFFFFFFFFFFFFFF⟩,
    ⟨0x2521, 0, 1, 0x5, 1, .u64, 8, .ro, 0, 0, 18446744073709551615, 1, 0xFFFFFFFFFFFFFFFF⟩,
    ⟨0x2521, 0, 1, 0x6, 1, .u64, 8, .ro, 0, 0, 18446744073709551615, 1, 0xFFFFFFFFFFFFFFFF⟩,
    ⟨0x2540, 1, 64, 0x1, 1, .u64, 8, .rw, 0, 0, 18446744073709551615, 128, 0xFFFFFFFFFFFFFFFF⟩,
    ⟨0x2540, 1, 64, 0x2, 1, .u16, 2, .rw, 0, 0, 256, 1, 0xFFFF⟩,
    ⟨0x2540, 1, 64, 0x3, 1, .u32, 4, .rw, 0, 0, 4294967295, 4096, 0xFFFFFFFF⟩,
    ⟨0x2540, 1, 64, 0x4, 1, .u32, 4, .rw, 0, 0, 4294967295, 4096, 0xFFFFFFFF⟩,
    ⟨0x2540, 1, 64, 0x5, 1, .u64, 8, .rw, 0, 0, 18446744073709551615, 4096, 0xFFFFFFFFFFFFFFFF⟩,
    ⟨0x2540, 1, 64, 0x6, 1, .u32, 4, .rw, 0, 0, 4294967295, 1, 0xFFFFFFFF⟩,
    ⟨0x2540, 1, 64, 0x7, 1, .u32, 4, .rw, 0, 1, 60000, 1, 0xFFFFFFFF⟩,
    ⟨0x2540, 1, 64, 0x8, 1, .f32, 4, .rw, 0, 0, 4294967295, 1, 0xFFFFFFFF⟩,
    ⟨0x2540, 1, 64, 0x9, 1, .u32, 4, .ro, 0, 0, 4294967295, 1, 0xFFFFFFFF⟩,
    ⟨0x2540, 1, 64, 0xA, 1, .u32, 4, .rw, 0, 1, 2147483648, 1, 0xFFFFFFFF⟩,
    ⟨0x2540, 1, 64, 0xB, 1, .f32, 4, .rw, 0, 0, 4294967295, 1, 0xFFFFFFFF⟩,
    ⟨0x2540, 1, 64, 0xC, 1, .f32, 4, .rw, 0, 0, 4294967295, 1, 0xFFFFFFFF⟩,
    ⟨0x2540, 1, 64, 0xD, 1, .u64, 8, .rw, 0, 0, 18446744073709551615, 16, 0xFFFFFFFFFFFFFFFF⟩,
    ⟨0x2540, 1, 64, 0xE, 1, .u64, 8, .ro, 0, 0, 18446744073709551615, 1, 0xFFFFFFFFFFFFFFFF⟩,
    ⟨0x2540, 1, 64, 0xF, 1, .u64, 8, .ro, 0, 0, 18446744073709551615, 1, 0xFFFFFFFFFFFFFFFF⟩,
    ⟨0x2540, 1, 64, 0x10, 1, .u64, 8, .ro, 0, 0, 18446744073709551615, 1, 0xFFFFFFFFFFFFFFFF⟩,
    ⟨0x2540, 1, 64, 0x11, 1, .u64, 8, .ro, 0, 0, 18446744073709551615, 1, 0xFFFFFFFFFFFFFFFF⟩,
    ⟨0x2540, 1, 64, 0x12, 1, .octets, 512, .ro, 0, 0, 0, 1, 0x0⟩,
    ⟨0x2540, 1, 64, 0x13, 1, .u32, 4, .ro, 0, 0, 4294967295, 1, 0xFFFFFFFF⟩,
    ⟨0x2540, 1, 64, 0x14, 1, .u64, 8, .ro, 0, 0, 18446744073709551615, 1, 0xFFFFFFFFFFFFFFFF⟩,
    ⟨0x2540, 1, 64, 0x15, 1, .u64, 8, .ro, 0, 0, 18446744073709551615, 1, 0xFFFFFFFFFFFFFFFF⟩,
    ⟨0x25C0, 1, 12, 0x1, 1, .octets, 32, .ro, 0, 0, 0, 1, 0x0⟩,
    ⟨0x25C0, 1, 12, 0x4, 1, .u32, 4, .ro, 0, 0, 4294967295, 1, 0xFFFFFFFF⟩,
    ⟨0x25C0, 1, 12, 0x5, 1, .u16, 2, .ro, 0, 0, 65535, 1, 0xFFFF⟩ ]

/-- Entry tables at 0x26__. -/
def Dict.rows26 : List Entry :=
  [ ⟨0x2600, 0, 1, 0x1, 1, .u32, 4, .ro, 0, 0, 4294967295, 1, 0xFFFFFFFF⟩,
    ⟨0x2600, 0, 1, 0x2, 1, .u32, 4, .ro, 0, 0, 4294967295, 1, 0xFFFFFFFF⟩,
    ⟨0x2600, 0, 1, 0x3, 1, .u64, 8, .ro, 0, 0, 18446744073709551615, 1, 0xFFFFFFFFFFFFFFFF⟩,
    ⟨0x2601, 0, 1, 0x1, 1, .u64, 8, .ro, 0, 0, 18446744073709551615, 1, 0xFFFFFFFFFFFFFFFF⟩,
    ⟨0x2601, 0, 1, 0x2, 1, .u32, 4, .ro, 0, 0, 4294967295, 1, 0xFFFFFFFF⟩,
    ⟨0x2601, 0, 1, 0x3, 1, .f32, 4, .rw, 1, 0, 4294967295, 1, 0xFFFFFFFF⟩,
    ⟨0x2601, 0, 1, 0x4, 1, .u64, 8, .ro, 0, 0, 18446744073709551615, 1, 0xFFFFFFFFFFFFFFFF⟩,
    ⟨0x2601, 0, 1, 0x5, 1, .f32, 4, .ro, 0, 0, 4294967295, 1, 0xFFFFFFFF⟩,
    ⟨0x2601, 0, 1, 0x6, 1, .u64, 8, .ro, 0, 0, 18446744073709551615, 1, 0xFFFFFFFFFFFFFFFF⟩,
    ⟨0x2601, 0, 1, 0x7, 1, .u64, 8, .ro, 0, 0, 18446744073709551615, 1, 0xFFFFFFFFFFFFFFFF⟩,
    ⟨0x2601, 0, 1, 0x8, 1, .u64, 8, .ro, 0, 0, 18446744073709551615, 1, 0xFFFFFFFFFFFFFFFF⟩,
    ⟨0x2602, 0, 1, 0x1, 1, .u64, 8, .rw, 1, 0, 18446744073709551615, 65536, 0xFFFFFFFFFFFFFFFF⟩,
    ⟨0x2602, 0, 1, 0x2, 1, .u64, 8, .ro, 0, 0, 18446744073709551615, 1, 0xFFFFFFFFFFFFFFFF⟩,
    ⟨0x2603, 0, 1, 0x1, 64, .octets, 16, .rw, 1, 0, 0, 1, 0x0⟩,
    ⟨0x2604, 0, 1, 0x1, 1, .u16, 2, .rw, 1, 6, 168, 1, 0xFFFF⟩,
    ⟨0x2604, 0, 1, 0x2, 1, .u16, 2, .rw, 1, 24, 336, 1, 0xFFFF⟩,
    ⟨0x2604, 0, 1, 0x3, 1, .u32, 4, .ro, 0, 0, 4294967295, 1, 0xFFFFFFFF⟩,
    ⟨0x2604, 0, 1, 0x4, 1, .u32, 4, .ro, 0, 0, 4294967295, 1, 0xFFFFFFFF⟩,
    ⟨0x2605, 0, 1, 0x1, 1, .u8, 1, .rw, 1, 75, 92, 1, 0xFF⟩,
    ⟨0x2605, 0, 1, 0x2, 1, .u8, 1, .rw, 1, 1, 10, 1, 0xFF⟩,
    ⟨0x2606, 0, 1, 0x1, 1, .u8, 1, .rw, 1, 1, 50, 1, 0xFF⟩,
    ⟨0x2606, 0, 1, 0x2, 1, .u32, 4, .rw, 1, 10, 600000, 1, 0xFFFFFFFF⟩,
    ⟨0x2606, 0, 1, 0x3, 1, .u32, 4, .rw, 1, 0, 65535, 1, 0xFFFFFFFF⟩,
    ⟨0x2607, 0, 1, 0x1, 64, .octets, 16, .rw, 1, 0, 0, 1, 0x0⟩,
    ⟨0x2610, 1, 12, 0x1, 1, .i32, 4, .ro, 0, 0, 4294967295, 1, 0xFFFFFFFF⟩,
    ⟨0x2610, 1, 12, 0x2, 1, .u8, 1, .ro, 0, 0, 255, 1, 0xFF⟩,
    ⟨0x2610, 1, 12, 0x3, 1, .u64, 8, .ro, 0, 0, 18446744073709551615, 1, 0xFFFFFFFFFFFFFFFF⟩,
    ⟨0x2610, 1, 12, 0x4, 1, .u64, 8, .ro, 0, 0, 18446744073709551615, 1, 0xFFFFFFFFFFFFFFFF⟩,
    ⟨0x2610, 1, 12, 0x5, 1, .u64, 8, .ro, 0, 0, 18446744073709551615, 1, 0xFFFFFFFFFFFFFFFF⟩,
    ⟨0x2610, 1, 12, 0x6, 1, .u64, 8, .ro, 0, 0, 18446744073709551615, 1, 0xFFFFFFFFFFFFFFFF⟩,
    ⟨0x2610, 1, 12, 0x7, 1, .u16, 2, .ro, 0, 0, 65535, 1, 0xFFFF⟩,
    ⟨0x2620, 1, 16, 0x1, 1, .u8, 1, .rw, 1, 0, 255, 1, 0x7⟩,
    ⟨0x2620, 1, 16, 0x2, 1, .u16, 2, .rw, 1, 0, 65535, 1, 0xFFFF⟩,
    ⟨0x2620, 1, 16, 0x3, 1, .u16, 2, .rw, 1, 1, 10000, 1, 0xFFFF⟩,
    ⟨0x2620, 1, 16, 0x4, 1, .u16, 2, .rw, 1, 0, 65535, 1, 0xFFFF⟩,
    ⟨0x2620, 1, 16, 0x5, 1, .u8, 1, .rw, 1, 0, 255, 1, 0xFF⟩,
    ⟨0x2640, 1, 64, 0x1, 1, .u64, 8, .ro, 0, 0, 18446744073709551615, 1, 0xFFFFFFFFFFFFFFFF⟩,
    ⟨0x2640, 1, 64, 0x2, 1, .octets, 32, .wo, 0, 0, 0, 1, 0x0⟩,
    ⟨0x2640, 1, 64, 0x3, 1, .u32, 4, .ro, 0, 0, 4294967295, 1, 0xFFFFFFFF⟩,
    ⟨0x2640, 1, 64, 0x4, 1, .u64, 8, .rw, 0, 0, 18446744073709551615, 65536, 0xFFFFFFFFFFFFFFFF⟩,
    ⟨0x2640, 1, 64, 0x5, 1, .u64, 8, .rw, 0, 0, 18446744073709551615, 65536, 0xFFFFFFFFFFFFFFFF⟩,
    ⟨0x2640, 1, 64, 0x6, 1, .u64, 8, .rw, 0, 0, 18446744073709551615, 65536, 0xFFFFFFFFFFFFFFFF⟩,
    ⟨0x2640, 1, 64, 0x7, 1, .u64, 8, .rw, 0, 0, 18446744073709551615, 65536, 0xFFFFFFFFFFFFFFFF⟩,
    ⟨0x2640, 1, 64, 0x8, 1, .u64, 8, .rw, 0, 0, 18446744073709551615, 65536, 0xFFFFFFFFFFFFFFFF⟩,
    ⟨0x2640, 1, 64, 0x9, 1, .u64, 8, .ro, 0, 0, 18446744073709551615, 1, 0xFFFFFFFFFFFFFFFF⟩,
    ⟨0x2640, 1, 64, 0xA, 1, .u64, 8, .ro, 0, 0, 18446744073709551615, 1, 0xFFFFFFFFFFFFFFFF⟩,
    ⟨0x2640, 1, 64, 0xB, 1, .u64, 8, .ro, 0, 0, 18446744073709551615, 1, 0xFFFFFFFFFFFFFFFF⟩,
    ⟨0x2640, 1, 64, 0xC, 1, .u64, 8, .ro, 0, 0, 18446744073709551615, 1, 0xFFFFFFFFFFFFFFFF⟩,
    ⟨0x2640, 1, 64, 0xD, 1, .u64, 8, .ro, 0, 0, 18446744073709551615, 1, 0xFFFFFFFFFFFFFFFF⟩,
    ⟨0x2640, 1, 64, 0xE, 1, .u32, 4, .rw, 0, 0, 60000, 1, 0xFFFFFFFF⟩,
    ⟨0x2640, 1, 64, 0xF, 1, .u64, 8, .ro, 0, 0, 18446744073709551615, 1, 0xFFFFFFFFFFFFFFFF⟩,
    ⟨0x2640, 1, 64, 0x10, 1, .u64, 8, .ro, 0, 0, 18446744073709551615, 1, 0xFFFFFFFFFFFFFFFF⟩,
    ⟨0x2640, 1, 64, 0x11, 1, .u64, 8, .ro, 0, 0, 18446744073709551615, 1, 0xFFFFFFFFFFFFFFFF⟩ ]

/-- Entry tables at 0x27__. -/
def Dict.rows27 : List Entry :=
  [ ⟨0x2700, 0, 1, 0x1, 1, .u16, 2, .rw, 1, 0, 65535, 1, 0xFFFF⟩,
    ⟨0x2700, 0, 1, 0x2, 1, .u32, 4, .rw, 1, 0, 60000, 1, 0xFFFFFFFF⟩,
    ⟨0x2700, 0, 1, 0x3, 1, .u32, 4, .rw, 1, 100, 100000, 1, 0xFFFFFFFF⟩,
    ⟨0x2701, 0, 1, 0x1, 1, .u64, 8, .ro, 0, 0, 18446744073709551615, 1, 0xFFFFFFFFFFFFFFFF⟩,
    ⟨0x2701, 0, 1, 0x2, 1, .u64, 8, .ro, 0, 0, 18446744073709551615, 1, 0xFFFFFFFFFFFFFFFF⟩,
    ⟨0x2701, 0, 1, 0x3, 1, .u32, 4, .ro, 0, 0, 4294967295, 1, 0xFFFFFFFF⟩,
    ⟨0x2701, 0, 1, 0x4, 1, .u64, 8, .ro, 0, 0, 18446744073709551615, 1, 0xFFFFFFFFFFFFFFFF⟩,
    ⟨0x2701, 0, 1, 0x5, 1, .u64, 8, .ro, 0, 0, 18446744073709551615, 1, 0xFFFFFFFFFFFFFFFF⟩,
    ⟨0x2710, 0, 1, 0x1, 64, .octets, 8, .rw, 1, 0, 0, 1, 0x0⟩,
    ⟨0x2711, 0, 1, 0x1, 1, .u16, 2, .rw, 1, 0, 65535, 1, 0xFFFF⟩,
    ⟨0x2711, 0, 1, 0x2, 1, .u16, 2, .rw, 1, 0, 65535, 1, 0xFFFF⟩,
    ⟨0x2711, 0, 1, 0x3, 1, .u8, 1, .ro, 0, 0, 255, 1, 0xFF⟩,
    ⟨0x2720, 1, 16, 0x1, 1, .u8, 1, .ro, 0, 0, 255, 1, 0xFF⟩,
    ⟨0x2720, 1, 16, 0x2, 1, .u8, 1, .ro, 0, 0, 255, 1, 0xFF⟩,
    ⟨0x2720, 1, 16, 0x3, 1, .u32, 4, .ro, 0, 0, 4294967295, 1, 0xFFFFFFFF⟩,
    ⟨0x2720, 1, 16, 0x4, 1, .u32, 4, .ro, 0, 0, 4294967295, 1, 0xFFFFFFFF⟩,
    ⟨0x2720, 1, 16, 0x5, 1, .u64, 8, .ro, 0, 0, 18446744073709551615, 1, 0xFFFFFFFFFFFFFFFF⟩,
    ⟨0x2720, 1, 16, 0x6, 1, .u64, 8, .ro, 0, 0, 18446744073709551615, 1, 0xFFFFFFFFFFFFFFFF⟩,
    ⟨0x2720, 1, 16, 0x7, 1, .u64, 8, .ro, 0, 0, 18446744073709551615, 1, 0xFFFFFFFFFFFFFFFF⟩,
    ⟨0x2720, 1, 16, 0x8, 1, .u64, 8, .ro, 0, 0, 18446744073709551615, 1, 0xFFFFFFFFFFFFFFFF⟩,
    ⟨0x2720, 1, 16, 0x9, 1, .u64, 8, .ro, 0, 0, 18446744073709551615, 1, 0xFFFFFFFFFFFFFFFF⟩,
    ⟨0x2720, 1, 16, 0xA, 1, .u8, 1, .rw, 1, 0, 1, 1, 0xFF⟩,
    ⟨0x2740, 1, 64, 0x1, 1, .u32, 4, .rw, 0, 0, 4294967295, 1, 0xFFFFFFFF⟩,
    ⟨0x2740, 1, 64, 0x2, 1, .u64, 8, .rw, 0, 0, 18446744073709551615, 16, 0xFFFFFFFFFFFFFFFF⟩,
    ⟨0x2740, 1, 64, 0x3, 1, .u16, 2, .rw, 0, 0, 256, 1, 0xFFFF⟩,
    ⟨0x2740, 1, 64, 0x4, 1, .u8, 1, .rw, 0, 0, 1, 1, 0xFF⟩,
    ⟨0x2740, 1, 64, 0x5, 1, .u8, 1, .rw, 0, 0, 1, 1, 0xFF⟩,
    ⟨0x2740, 1, 64, 0x6, 1, .u32, 4, .rw, 0, 1, 600000, 1, 0xFFFFFFFF⟩,
    ⟨0x2740, 1, 64, 0x7, 1, .u32, 4, .rw, 0, 1, 600000, 1, 0xFFFFFFFF⟩,
    ⟨0x2740, 1, 64, 0x8, 1, .u64, 8, .ro, 0, 0, 18446744073709551615, 1, 0xFFFFFFFFFFFFFFFF⟩,
    ⟨0x2740, 1, 64, 0x9, 1, .u64, 8, .ro, 0, 0, 18446744073709551615, 1, 0xFFFFFFFFFFFFFFFF⟩,
    ⟨0x2740, 1, 64, 0xA, 1, .u64, 8, .ro, 0, 0, 18446744073709551615, 1, 0xFFFFFFFFFFFFFFFF⟩,
    ⟨0x2780, 1, 64, 0x1, 16, .u64, 8, .rw, 0, 0, 18446744073709551615, 1, 0xFFFFFFFFFFFFFFFF⟩,
    ⟨0x27C0, 1, 16, 0x1, 1, .octets, 32, .ro, 0, 0, 0, 1, 0x0⟩,
    ⟨0x27C0, 1, 16, 0x4, 1, .u32, 4, .ro, 0, 0, 4294967295, 1, 0xFFFFFFFF⟩,
    ⟨0x27C0, 1, 16, 0x5, 1, .u16, 2, .ro, 0, 0, 65535, 1, 0xFFFF⟩ ]

/-- Entry tables at 0x28__. -/
def Dict.rows28 : List Entry :=
  [ ⟨0x2800, 0, 1, 0x1, 1, .bool, 1, .wo, 0, 0, 255, 1, 0xFF⟩,
    ⟨0x2800, 0, 1, 0x2, 1, .u64, 8, .ro, 0, 0, 18446744073709551615, 1, 0xFFFFFFFFFFFFFFFF⟩,
    ⟨0x2800, 0, 1, 0x3, 1, .u64, 8, .ro, 0, 0, 18446744073709551615, 1, 0xFFFFFFFFFFFFFFFF⟩,
    ⟨0x2800, 0, 1, 0x4, 1, .u32, 4, .ro, 0, 0, 4294967295, 1, 0xFFFFFFFF⟩,
    ⟨0x2800, 0, 1, 0x5, 1, .u32, 4, .rw, 0, 0, 60000, 1, 0xFFFFFFFF⟩,
    ⟨0x2800, 0, 1, 0x6, 1, .u64, 8, .ro, 0, 0, 18446744073709551615, 1, 0xFFFFFFFFFFFFFFFF⟩,
    ⟨0x2810, 0, 1, 0x1, 1, .u8, 1, .rw, 0, 0, 255, 1, 0xFF⟩,
    ⟨0x2810, 0, 1, 0x2, 1, .u8, 1, .rw, 0, 0, 255, 1, 0x3F⟩,
    ⟨0x2810, 0, 1, 0x3, 1, .u8, 1, .rw, 0, 0, 255, 1, 0xFF⟩,
    ⟨0x2810, 0, 1, 0x4, 1, .u32, 4, .rw, 0, 0, 4294967295, 1, 0xFFFFFFFF⟩,
    ⟨0x2810, 0, 1, 0x5, 1, .u64, 8, .ro, 0, 0, 18446744073709551615, 1, 0xFFFFFFFFFFFFFFFF⟩,
    ⟨0x2810, 0, 1, 0x6, 1, .u64, 8, .ro, 0, 0, 18446744073709551615, 1, 0xFFFFFFFFFFFFFFFF⟩,
    ⟨0x2810, 0, 1, 0x7, 1, .u64, 8, .rw, 0, 0, 18446744073709551615, 1, 0xFFFFFFFFFFFFFFFF⟩,
    ⟨0x2810, 0, 1, 0x8, 1, .u64, 8, .ro, 0, 0, 18446744073709551615, 1, 0xFFFFFFFFFFFFFFFF⟩,
    ⟨0x2880, 1, 83, 0x1, 1, .u64, 8, .ro, 0, 0, 18446744073709551615, 1, 0xFFFFFFFFFFFFFFFF⟩,
    ⟨0x2880, 1, 83, 0x2, 8, .u64, 8, .rw, 0, 0, 18446744073709551615, 1, 0xFFFFFFFFFFFFFFFF⟩,
    ⟨0x2880, 1, 83, 0xA, 8, .u32, 4, .rw, 0, 0, 4294967295, 1, 0xFFFF⟩,
    ⟨0x2880, 1, 83, 0x12, 1, .u64, 8, .ro, 0, 0, 18446744073709551615, 1, 0xFFFFFFFFFFFFFFFF⟩,
    ⟨0x2880, 1, 83, 0x13, 8, .u64, 8, .ro, 0, 0, 18446744073709551615, 1, 0xFFFFFFFFFFFFFFFF⟩ ]

/-- Entry tables at 0x29__. -/
def Dict.rows29 : List Entry :=
  [ ⟨0x2900, 0, 1, 0x1, 1, .u8, 1, .ro, 0, 0, 255, 1, 0xFF⟩,
    ⟨0x2900, 0, 1, 0x2, 1, .bool, 1, .wo, 1, 0, 255, 1, 0xFF⟩,
    ⟨0x2900, 0, 1, 0x3, 1, .u16, 2, .ro, 0, 0, 65535, 1, 0xFFFF⟩,
    ⟨0x2900, 0, 1, 0x4, 1, .u64, 8, .ro, 0, 0, 18446744073709551615, 1, 0xFFFFFFFFFFFFFFFF⟩,
    ⟨0x2900, 0, 1, 0x5, 1, .u32, 4, .ro, 0, 0, 4294967295, 1, 0xFFFFFFFF⟩,
    ⟨0x2900, 0, 1, 0x6, 1, .u64, 8, .ro, 0, 0, 18446744073709551615, 1, 0xFFFFFFFFFFFFFFFF⟩,
    ⟨0x2900, 0, 1, 0x7, 1, .u64, 8, .ro, 0, 0, 18446744073709551615, 1, 0xFFFFFFFFFFFFFFFF⟩,
    ⟨0x2901, 0, 1, 0x1, 1, .u32, 4, .ro, 0, 0, 4294967295, 1, 0xFFFFFFFF⟩,
    ⟨0x2901, 0, 1, 0x2, 1, .u32, 4, .rw, 0, 0, 4294967295, 1, 0xFFFFFFFF⟩,
    ⟨0x2901, 0, 1, 0x3, 1, .octets, 64, .ro, 0, 0, 0, 1, 0x0⟩,
    ⟨0x2902, 0, 1, 0x1, 64, .octets, 64, .ro, 0, 0, 0, 1, 0x0⟩,
    ⟨0x2920, 0, 1, 0x1, 1, .octets, 16, .wo, 1, 0, 0, 1, 0x0⟩,
    ⟨0x2920, 0, 1, 0x2, 1, .u8, 1, .ro, 0, 0, 255, 1, 0xFF⟩,
    ⟨0x2930, 0, 1, 0x1, 8, .u8, 1, .ro, 0, 0, 255, 1, 0xFF⟩,
    ⟨0x2931, 0, 1, 0x1, 16, .u8, 1, .ro, 0, 0, 255, 1, 0xFF⟩,
    ⟨0x2932, 0, 1, 0x1, 12, .u8, 1, .ro, 0, 0, 255, 1, 0xFF⟩,
    ⟨0x2933, 0, 1, 0x1, 192, .u8, 1, .ro, 0, 0, 255, 1, 0xFF⟩,
    ⟨0x2934, 0, 1, 0x1, 12, .u8, 1, .ro, 0, 0, 255, 1, 0xFF⟩,
    ⟨0x2935, 0, 1, 0x1, 16, .u8, 1, .ro, 0, 0, 255, 1, 0xFF⟩,
    ⟨0x2936, 0, 1, 0x1, 16, .u8, 1, .ro, 0, 0, 255, 1, 0xFF⟩,
    ⟨0x2937, 0, 1, 0x1, 64, .u8, 1, .ro, 0, 0, 255, 1, 0xFF⟩ ]

/-- Entry tables at 0x2A__. -/
def Dict.rows2A : List Entry :=
  [ ⟨0x2A00, 0, 1, 0x1, 1, .u8, 1, .ro, 0, 0, 255, 1, 0xFF⟩,
    ⟨0x2A00, 0, 1, 0x2, 1, .u8, 1, .ro, 0, 0, 255, 1, 0xFF⟩,
    ⟨0x2A00, 0, 1, 0x3, 1, .u8, 1, .ro, 0, 0, 255, 1, 0xFF⟩,
    ⟨0x2A00, 0, 1, 0x4, 1, .u64, 8, .ro, 0, 0, 18446744073709551615, 1, 0xFFFFFFFFFFFFFFFF⟩,
    ⟨0x2A01, 0, 1, 0x1, 1, .u8, 1, .ro, 0, 0, 255, 1, 0xFF⟩,
    ⟨0x2A01, 0, 1, 0x2, 1, .u32, 4, .ro, 0, 0, 4294967295, 1, 0xFFFFFFFF⟩,
    ⟨0x2A02, 0, 1, 0x1, 64, .u8, 1, .ro, 0, 0, 255, 1, 0xFF⟩,
    ⟨0x2A03, 0, 1, 0x1, 1, .u64, 8, .ro, 0, 0, 18446744073709551615, 1, 0xFFFFFFFFFFFFFFFF⟩,
    ⟨0x2A04, 0, 1, 0x1, 1, .u32, 4, .ro, 0, 0, 4294967295, 1, 0xFFFFFFFF⟩,
    ⟨0x2A04, 0, 1, 0x2, 1, .u32, 4, .ro, 0, 0, 4294967295, 1, 0xFFFFFFFF⟩,
    ⟨0x2A04, 0, 1, 0x3, 1, .octets, 64, .ro, 0, 0, 0, 1, 0x0⟩,
    ⟨0x2A04, 0, 1, 0x4, 1, .octets, 64, .ro, 0, 0, 0, 1, 0x0⟩,
    ⟨0x2A04, 0, 1, 0x5, 1, .octets, 64, .ro, 0, 0, 0, 1, 0x0⟩,
    ⟨0x2A10, 0, 1, 0x1, 1, .u64, 8, .const, 0, 0, 18446744073709551615, 1, 0xFFFFFFFFFFFFFFFF⟩,
    ⟨0x2A10, 0, 1, 0x2, 1, .octets, 32, .const, 0, 0, 0, 1, 0x0⟩,
    ⟨0x2A10, 0, 1, 0x3, 1, .octets, 1024, .ro, 0, 0, 0, 1, 0x0⟩,
    ⟨0x2A10, 0, 1, 0x4, 1, .octets, 1024, .ro, 0, 0, 0, 1, 0x0⟩,
    ⟨0x2A10, 0, 1, 0x5, 1, .octets, 1024, .ro, 0, 0, 0, 1, 0x0⟩,
    ⟨0x2A20, 0, 1, 0x1, 1, .octets, 32, .wo, 0, 0, 0, 1, 0x0⟩,
    ⟨0x2A20, 0, 1, 0x2, 1, .octets, 448, .ro, 0, 0, 0, 1, 0x0⟩,
    ⟨0x2A20, 0, 1, 0x3, 1, .u8, 1, .ro, 0, 0, 255, 1, 0xFF⟩,
    ⟨0x2A30, 0, 1, 0x1, 1, .octets, 32, .rw, 1, 0, 0, 1, 0x0⟩,
    ⟨0x2A30, 0, 1, 0x2, 1, .u64, 8, .ro, 0, 0, 18446744073709551615, 1, 0xFFFFFFFFFFFFFFFF⟩,
    ⟨0x2A30, 0, 1, 0x3, 1, .u64, 8, .ro, 0, 0, 18446744073709551615, 1, 0xFFFFFFFFFFFFFFFF⟩ ]

/-- Entry tables at 0x2B__. -/
def Dict.rows2B : List Entry :=
  [ ⟨0x2B00, 0, 1, 0x1, 1, .u32, 4, .ro, 0, 0, 4294967295, 1, 0xFFFFFFFF⟩,
    ⟨0x2B00, 0, 1, 0x2, 1, .u32, 4, .ro, 0, 0, 4294967295, 1, 0xFFFFFFFF⟩,
    ⟨0x2B00, 0, 1, 0x3, 1, .u16, 2, .ro, 0, 0, 65535, 1, 0xFFFF⟩,
    ⟨0x2B01, 0, 1, 0x1, 4, .u32, 4, .ro, 0, 0, 4294967295, 1, 0xFFFFFFFF⟩,
    ⟨0x2B08, 0, 1, 0x1, 1, .u32, 4, .rw, 1, 100, 100000, 1, 0xFFFFFFFF⟩,
    ⟨0x2B08, 0, 1, 0x2, 1, .u32, 4, .rw, 1, 1, 100000, 1, 0xFFFFFFFF⟩,
    ⟨0x2B08, 0, 1, 0x3, 1, .u32, 4, .rw, 1, 1, 60000, 1, 0xFFFFFFFF⟩ ]

/-- Entry tables at 0x30__. -/
def Dict.rows30 : List Entry :=
  [ ⟨0x3000, 16, 64, 0x1, 1, .u8, 1, .ro, 0, 0, 255, 1, 0xFF⟩,
    ⟨0x3000, 16, 64, 0x2, 1, .u8, 1, .wo, 0, 0, 255, 1, 0xFF⟩,
    ⟨0x3000, 16, 64, 0x3, 1, .u8, 1, .ro, 0, 0, 255, 1, 0xFF⟩,
    ⟨0x3000, 16, 64, 0x4, 1, .u8, 1, .rw, 0, 0, 255, 1, 0xFF⟩,
    ⟨0x3000, 16, 64, 0x5, 1, .u8, 1, .rw, 0, 0, 255, 1, 0xFF⟩,
    ⟨0x3000, 16, 64, 0x6, 1, .u8, 1, .rw, 0, 0, 1, 1, 0xFF⟩,
    ⟨0x3000, 16, 64, 0x7, 1, .u8, 1, .rw, 0, 0, 1, 1, 0xFF⟩,
    ⟨0x3000, 16, 64, 0x8, 1, .u8, 1, .rw, 0, 0, 3, 1, 0xFF⟩,
    ⟨0x3000, 16, 64, 0x9, 1, .bool, 1, .rw, 0, 0, 255, 1, 0xFF⟩,
    ⟨0x3000, 16, 64, 0xA, 1, .u64, 8, .rw, 0, 0, 18446744073709551615, 65536, 0xFFFFFFFFFFFFFFFF⟩,
    ⟨0x3000, 16, 64, 0xB, 1, .u64, 8, .rw, 0, 0, 18446744073709551615, 1, 0xFFFFFFFFFFFFFFFF⟩,
    ⟨0x3001, 16, 64, 0x1, 1, .u64, 8, .rw, 0, 0, 18446744073709551615, 1, 0xFFFFFFFFFFFFFFFF⟩,
    ⟨0x3001, 16, 64, 0x2, 1, .u32, 4, .rw, 0, 0, 4294967295, 1, 0xFFFFFFFF⟩,
    ⟨0x3001, 16, 64, 0x3, 1, .u64, 8, .rw, 0, 0, 18446744073709551615, 1, 0xFFFFFFFFFFFFFFFF⟩,
    ⟨0x3001, 16, 64, 0x4, 1, .u32, 4, .rw, 0, 0, 4294967295, 1, 0xFFFFFFFF⟩,
    ⟨0x3001, 16, 64, 0x5, 1, .u64, 8, .rw, 0, 0, 18446744073709551615, 1, 0xFFFFFFFFFFFFFFFF⟩,
    ⟨0x3001, 16, 64, 0x6, 1, .u32, 4, .rw, 0, 0, 4294967295, 1, 0xFFFFFFFF⟩,
    ⟨0x3001, 16, 64, 0x7, 1, .u32, 4, .ro, 0, 0, 4294967295, 1, 0xFFFFFFFF⟩,
    ⟨0x3001, 16, 64, 0x8, 1, .u32, 4, .ro, 0, 0, 4294967295, 1, 0xFFFFFFFF⟩,
    ⟨0x3001, 16, 64, 0x9, 1, .u32, 4, .ro, 0, 0, 4294967295, 1, 0xFFFFFFFF⟩,
    ⟨0x3001, 16, 64, 0xA, 1, .u64, 8, .ro, 0, 0, 18446744073709551615, 1, 0xFFFFFFFFFFFFFFFF⟩,
    ⟨0x3002, 16, 64, 0x1, 1, .u64, 8, .ro, 0, 0, 18446744073709551615, 1, 0xFFFFFFFFFFFFFFFF⟩,
    ⟨0x3002, 16, 64, 0x2, 1, .u64, 8, .ro, 0, 0, 18446744073709551615, 1, 0xFFFFFFFFFFFFFFFF⟩,
    ⟨0x3002, 16, 64, 0x3, 1, .u64, 8, .ro, 0, 0, 18446744073709551615, 1, 0xFFFFFFFFFFFFFFFF⟩,
    ⟨0x3002, 16, 64, 0x4, 1, .u64, 8, .ro, 0, 0, 18446744073709551615, 1, 0xFFFFFFFFFFFFFFFF⟩,
    ⟨0x3002, 16, 64, 0x5, 1, .u64, 8, .ro, 0, 0, 18446744073709551615, 1, 0xFFFFFFFFFFFFFFFF⟩,
    ⟨0x3002, 16, 64, 0x6, 1, .u64, 8, .ro, 0, 0, 18446744073709551615, 1, 0xFFFFFFFFFFFFFFFF⟩,
    ⟨0x3003, 16, 64, 0x1, 1, .vis, 64, .rw, 0, 0, 0, 1, 0x0⟩,
    ⟨0x3003, 16, 64, 0x2, 1, .u64, 8, .ro, 0, 0, 18446744073709551615, 1, 0xFFFFFFFFFFFFFFFF⟩,
    ⟨0x3003, 16, 64, 0x3, 1, .u32, 4, .ro, 0, 0, 4294967295, 1, 0xFFFFFFFF⟩,
    ⟨0x3003, 16, 64, 0x4, 1, .bool, 1, .ro, 0, 0, 255, 1, 0xFF⟩,
    ⟨0x3003, 16, 64, 0x5, 1, .u32, 4, .rw, 0, 0, 4294967295, 1, 0xFFFFFFFF⟩,
    ⟨0x3008, 16, 64, 0x1, 16, .u64, 8, .rw, 0, 0, 18446744073709551615, 1, 0xFFFFFFFFFFFFFFFF⟩,
    ⟨0x3009, 16, 64, 0x1, 16, .u32, 4, .rw, 0, 0, 4294967295, 1, 0x3FFFFFF⟩,
    ⟨0x300A, 16, 64, 0x1, 1, .u64, 8, .rw, 0, 0, 18446744073709551615, 64, 0xFFFFFFFFFFFFFFFF⟩,
    ⟨0x300A, 16, 64, 0x2, 1, .u8, 1, .rw, 0, 0, 255, 1, 0xFF⟩,
    ⟨0x300B, 16, 64, 0x1, 1, .u64, 8, .rw, 0, 0, 18446744073709551615, 1, 0xFFFFFFFFFFFFFFFF⟩,
    ⟨0x300C, 16, 64, 0x1, 1, .u64, 8, .rw, 0, 0, 18446744073709551615, 65536, 0xFFFFFFFFFFFFFFFF⟩,
    ⟨0x300C, 16, 64, 0x2, 1, .u8, 1, .rw, 0, 0, 16, 1, 0xFF⟩,
    ⟨0x300C, 16, 64, 0x3, 1, .u16, 2, .rw, 0, 0, 65535, 1, 0xFFFF⟩,
    ⟨0x300C, 16, 64, 0x4, 1, .u64, 8, .ro, 0, 0, 18446744073709551615, 1, 0xFFFFFFFFFFFFFFFF⟩,
    ⟨0x300C, 16, 64, 0x5, 1, .u64, 8, .ro, 0, 0, 18446744073709551615, 1, 0xFFFFFFFFFFFFFFFF⟩,
    ⟨0x300C, 16, 64, 0x6, 1, .u64, 8, .ro, 0, 0, 18446744073709551615, 1, 0xFFFFFFFFFFFFFFFF⟩,
    ⟨0x300C, 16, 64, 0x7, 1, .u64, 8, .ro, 0, 0, 18446744073709551615, 1, 0xFFFFFFFFFFFFFFFF⟩,
    ⟨0x300C, 16, 64, 0x8, 1, .u32, 4, .ro, 0, 0, 4294967295, 1, 0xFFFFFFFF⟩,
    ⟨0x300D, 16, 64, 0x1, 1, .u64, 8, .rw, 0, 0, 18446744073709551615, 65536, 0xFFFFFFFFFFFFFFFF⟩,
    ⟨0x300D, 16, 64, 0x2, 1, .u64, 8, .rw, 0, 0, 18446744073709551615, 65536, 0xFFFFFFFFFFFFFFFF⟩,
    ⟨0x300D, 16, 64, 0x3, 1, .u8, 1, .rw, 0, 0, 1, 1, 0xFF⟩,
    ⟨0x300D, 16, 64, 0x4, 1, .u64, 8, .rw, 0, 0, 18446744073709551615, 65536, 0xFFFFFFFFFFFFFFFF⟩,
    ⟨0x300D, 16, 64, 0x5, 1, .u64, 8, .ro, 0, 0, 18446744073709551615, 1, 0xFFFFFFFFFFFFFFFF⟩,
    ⟨0x300D, 16, 64, 0x6, 1, .u64, 8, .ro, 0, 0, 18446744073709551615, 1, 0xFFFFFFFFFFFFFFFF⟩,
    ⟨0x300D, 16, 64, 0x7, 1, .u64, 8, .ro, 0, 0, 18446744073709551615, 1, 0xFFFFFFFFFFFFFFFF⟩,
    ⟨0x300E, 16, 64, 0x1, 64, .u64, 8, .rw, 0, 0, 18446744073709551615, 65536, 0xFFFFFFFFFFFFFFFF⟩,
    ⟨0x300E, 16, 64, 0x41, 64, .u64, 8, .rw, 0, 0, 18446744073709551615, 65536, 0xFFFFFFFFFFFFFFFF⟩,
    ⟨0x300F, 16, 64, 0x1, 64, .u64, 8, .ro, 0, 0, 18446744073709551615, 1, 0xFFFFFFFFFFFFFFFF⟩,
    ⟨0x300F, 16, 64, 0x41, 64, .u64, 8, .ro, 0, 0, 18446744073709551615, 1, 0xFFFFFFFFFFFFFFFF⟩ ]

/-- Entry tables at 0x50__. -/
def Dict.rows50 : List Entry :=
  [ ⟨0x5000, 0, 1, 0x1, 1, .octets, 32, .ro, 0, 0, 0, 1, 0x0⟩,
    ⟨0x5000, 0, 1, 0x2, 1, .octets, 256, .wo, 0, 0, 0, 1, 0x0⟩,
    ⟨0x5000, 0, 1, 0x3, 1, .u8, 1, .ro, 0, 0, 255, 1, 0xFF⟩,
    ⟨0x5000, 0, 1, 0x4, 1, .bool, 1, .wo, 0, 0, 255, 1, 0xFF⟩,
    ⟨0x5000, 0, 1, 0x5, 1, .u32, 4, .ro, 0, 0, 4294967295, 1, 0xFFFFFFFF⟩,
    ⟨0x5010, 0, 1, 0x0, 1, .bool, 1, .rw, 2, 0, 255, 1, 0xFF⟩,
    ⟨0x5011, 0, 1, 0x0, 1, .bool, 1, .rw, 2, 0, 255, 1, 0xFF⟩ ]

/-- Indices of the counter area that R456 leaves without a unit. -/
def Dict.hole (idx : Nat) : Bool :=
  (0x2898 ≤ idx && idx < 0x28A0) || (0x28BC ≤ idx && idx < 0x28C0) || (0x28CC ≤ idx && idx < 0x28D0)

/-- The entry tables of an index's area. -/
def Dict.area (idx : Nat) : List Entry :=
  match idx / 256 with
  | 0x10 => Dict.rows10
  | 0x11 => Dict.rows11
  | 0x12 => Dict.rows12
  | 0x20 => Dict.rows20
  | 0x21 => Dict.rows21
  | 0x22 => Dict.rows22
  | 0x23 => Dict.rows23
  | 0x24 => Dict.rows24
  | 0x25 => Dict.rows25
  | 0x26 => Dict.rows26
  | 0x27 => Dict.rows27
  | 0x28 => Dict.rows28
  | 0x29 => Dict.rows29
  | 0x2A => Dict.rows2A
  | 0x2B => Dict.rows2B
  | 0x50 => Dict.rows50
  | 0x30 | 0x31 | 0x32 | 0x33 => Dict.rows30
  | _ => []

/-- Whether a row covers an index. -/
def Entry.covers (e : Entry) (idx : Nat) : Bool :=
  e.base ≤ idx && (if e.stride = 0 then idx == e.base
    else (idx - e.base) % e.stride == 0 && (idx - e.base) / e.stride < e.count)

/-- The rows of an index (R492); none where the index does not exist. -/
def Dict.index (idx : Nat) : List Entry :=
  if Dict.hole idx then [] else (Dict.area idx).filter (·.covers idx)

/-- The row of one entry. -/
def Dict.find (idx sub : Nat) : Option Entry :=
  (Dict.index idx).find? fun e => e.sub ≤ sub && sub < e.sub + e.subs

/-- The highest subindex of an index, which its subindex 0x00 holds (R472). -/
def Dict.highest (idx : Nat) : Nat :=
  (Dict.index idx).foldl (fun m e => max m (e.sub + e.subs - 1)) 0

/-- Reset values of module-wide entries that are not zero. -/
def Dict.resetOne (idx sub : Nat) : Nat :=
  match idx, sub with
  | 0x1004, 0x4 => 0x10000
  | 0x1010, 0x1 => 0x10002
  | 0x1010, 0x4 => 0xC
  | 0x1010, 0x5 => 0xC
  | 0x1010, 0x6 => 0x649534E000
  | 0x1010, 0x7 => 0x165A0BC0000
  | 0x1010, 0x8 => 0x10
  | 0x1010, 0x9 => 0x80
  | 0x1010, 0xA => 0x100
  | 0x1010, 0xB => 0x3F
  | 0x1010, 0xC => 0x1F
  | 0x1010, 0xD => 0x1F
  | 0x1010, 0xE => 0x40
  | 0x1010, 0x10 => 0x4000
  | 0x1011, 0x1 => 0x8
  | 0x1011, 0x2 => 0x10
  | 0x1011, 0x3 => 0xC
  | 0x1011, 0x4 => 0xC
  | 0x1011, 0x5 => 0x6495000000
  | 0x1011, 0x6 => 0x10
  | 0x1101, 0x2 => 0x7D0
  | 0x1101, 0x3 => 0x258
  | 0x1101, 0x5 => 0x20003
  | 0x1200, 0x3 => 0x1
  | 0x1220, 0x1 => 0x1
  | 0x1220, 0x2 => 0x1
  | 0x1220, 0x6 => 0xFF
  | 0x2000, 0x4 => 0x44C
  | 0x2011, 0x2 => 0x3F800000
  | 0x2100, 0x1 => 0x7
  | 0x2200, 0x2 => 0x69
  | 0x2520, 0x1 => 0xEA60
  | 0x2520, 0x2 => 0x1000
  | 0x2600, 0x1 => 0x649500
  | 0x2600, 0x2 => 0x4000
  | 0x2601, 0x1 => 0x14F46B04000
  | 0x2601, 0x3 => 0x3FC00000
  | 0x2604, 0x1 => 0x18
  | 0x2604, 0x2 => 0x48
  | 0x2605, 0x1 => 0x58
  | 0x2605, 0x2 => 0x3
  | 0x2606, 0x1 => 0x5
  | 0x2606, 0x2 => 0x64
  | 0x2606, 0x3 => 0x800
  | 0x2700, 0x1 => 0xFFFF
  | 0x2700, 0x2 => 0x1388
  | 0x2700, 0x3 => 0x3E8
  | 0x2810, 0x2 => 0x3F
  | 0x2810, 0x3 => 0xFF
  | 0x2810, 0x4 => 0x1
  | 0x2810, 0x5 => 0x800000
  | 0x2B08, 0x1 => 0x7D0
  | 0x2B08, 0x2 => 0x32
  | 0x2B08, 0x3 => 0xA
  | _, _ => 0

/-- Reset values of a job's entries that are not zero: offset within 0x3000 + 0x10·j, or area base. -/
def Dict.resetJob (base sub : Nat) : Nat :=
  match base, sub with
  | 0x2401, 0x1 => 0x1000000
  | 0x2540, 0x7 => 0x1F4
  | 0x2540, 0x8 => 0x47800000
  | 0x2540, 0xA => 0x7D0
  | 0x2540, 0xB => 0x3F800000
  | 0x2540, 0xC => 0x4B800000
  | 0x2610, 0x7 => 0xFFFF
  | 0x2720, 0x2 => 0xF
  | 0x2740, 0x6 => 0x2710
  | 0x2740, 0x7 => 0x7530
  | 0x3000, 0x4 => 0x1
  | 0x3000, 0x5 => 0x1
  | 0x3000, 0x8 => 0x1
  | 0x3003, 0x5 => 0x1
  | _, _ => 0

/-- The value an entry holds at reset (logs 3 to 5 where its rule states none). -/
def Dict.reset (key : Nat) : Nat :=
  let idx := key / 256
  let sub := key % 256
  if idx < 0x2400 then Dict.resetOne idx sub
  else if idx < 0x2500 then Dict.resetJob (0x2400 + idx % 16) sub
  else if idx < 0x2540 then Dict.resetOne idx sub
  else if idx < 0x2580 then Dict.resetJob 0x2540 sub
  else if idx < 0x2610 then Dict.resetOne idx sub
  else if idx < 0x2620 then Dict.resetJob 0x2610 sub
  else if idx < 0x2630 then
    if idx = 0x262F then (if sub = 1 then 1 else 0)
    else match sub with | 1 => 7 | 2 => 4 | 3 => 10 | 4 => 8 | 5 => 1 | _ => 0
  else if idx < 0x2720 then Dict.resetOne idx sub
  else if idx < 0x2730 then Dict.resetJob 0x2720 sub
  else if 0x2740 ≤ idx ∧ idx < 0x2780 then Dict.resetJob 0x2740 sub
  else if 0x3000 ≤ idx ∧ idx < 0x3400 then Dict.resetJob (0x3000 + idx % 16) sub
  else Dict.resetOne idx sub

/-- The value stored under a key, in a list whose keys rise strictly; `d` where the key is not listed. -/
def cellGet {α : Type} (d : α) (k : Nat) : List (Nat × α) → α
  | [] => d
  | c :: t => if c.1 = k then c.2 else cellGet d k t

/-- `(k, v)` in its place of a list whose keys rise strictly. -/
def cellInsert {α : Type} (k : Nat) (v : α) : List (Nat × α) → List (Nat × α)
  | [] => [(k, v)]
  | c :: t => if k < c.1 then (k, v) :: c :: t else c :: cellInsert k v t

/-- The list with `v` under `k`, in canonical form: keys strictly rising, no entry equal to `d`. -/
def cellPut {α : Type} [DecidableEq α] (d : α) (k : Nat) (v : α) (l : List (Nat × α)) : List (Nat × α) :=
  let t := l.filter fun c => c.1 != k
  if v = d then t else cellInsert k v t

/-- The value of a dictionary entry. -/
def State.reg (s : State) (k : Nat) : Nat := cellGet (Dict.reset k) k s.regs

/-- The state with an entry's value set. -/
def State.setReg (s : State) (k v : Nat) : State := { s with regs := cellPut (Dict.reset k) k v s.regs }

/-- A counter entry of `w` bits advanced by `n`, wrapping at its width (R1: counters wrap at their width). -/
def State.bumpW (w : Nat) (s : State) (k n : Nat) : State := s.setReg k ((s.reg k + n) % 2 ^ w)

/-- A 64-bit counter advanced by `n`. -/
def State.bump (s : State) (k n : Nat) : State := s.bumpW 64 k n

/-- A 32-bit counter advanced by `n`. -/
def State.bump32 (s : State) (k n : Nat) : State := s.bumpW 32 k n

end Sys2Proof.Machine
end

