-- ==== Sys2Proof/Machine/Ops.lean ====
section
/-! DEFINITION. The named operations every meaning uses: byte runs, queues and units, counters, the power states of
units, and the derived state that `settle` restores after every command. -/

namespace Sys2Proof.Machine

/-! ### Byte runs and words -/

/-- The `n` bytes from address `a`; a byte no cell lists reads 0. `m` holds no cell below `a`. -/
def readFrom : Bytes → Nat → Nat → List Byte
  | _, _, 0 => []
  | [], _, n + 1 => 0 :: readFrom [] 0 n
  | c :: t, a, n + 1 => if c.1 = a then c.2 :: readFrom t (a + 1) n else 0 :: readFrom (c :: t) (a + 1) n

/-- The `n` bytes of a byte space from address `a`. -/
def readRun (m : Bytes) (a n : Nat) : List Byte := readFrom (m.filter (a ≤ ·.1)) a n

/-- The nonzero bytes of a list, each at its address. -/
def runCells : Nat → List Byte → Bytes
  | _, [] => []
  | a, b :: bs => if b = 0 then runCells (a + 1) bs else (a, b) :: runCells (a + 1) bs

/-- A byte space with the bytes `bs` written from address `a`. -/
def writeRun (m : Bytes) (a : Nat) (bs : List Byte) : Bytes :=
  m.filter (·.1 < a) ++ runCells a bs ++ m.filter (a + bs.length ≤ ·.1)

/-- A byte space with the `n` bytes from `a` zeroed. -/
def clearRun (m : Bytes) (a n : Nat) : Bytes := m.filter fun c => c.1 < a || a + n ≤ c.1

/-- One byte of a byte space. -/
def byteAt (m : Bytes) (a : Nat) : Byte := cellGet 0 a m

/-- The form of a byte space: addresses strictly rising, no entry 0. -/
abbrev Memory.wf (m : Bytes) : Prop := m.Pairwise (·.1 < ·.1) ∧ ∀ c ∈ m, c.2 ≠ 0

/-- The number in bytes `i` to `i + n − 1` of a 32-byte command (R72, R12). -/
def cb (w i n : Nat) : Nat := bits w (8 * i) (8 * n)

/-- The number in bytes `i` to `i + n − 1` of a byte list. -/
def nb (l : List Byte) (i n : Nat) : Nat := leNat ((l.drop i).take n)

/-- `n` zero bytes. -/
def zeros (n : Nat) : List Byte := List.replicate n 0

/-- A list of bytes cut or filled with zeros to length `n`. -/
def padTo (n : Nat) (l : List Byte) : List Byte := (l ++ zeros (n - l.length)).take n

/-- `l` with the bytes `v` at offset `i`. -/
def putBytes (l : List Byte) (i : Nat) (v : List Byte) : List Byte := l.take i ++ v ++ l.drop (i + v.length)

/-- An element put before the first that it may precede. -/
def insertBy {α : Type} (le : α → α → Bool) (x : α) : List α → List α
  | [] => [x]
  | y :: ys => if le x y then x :: y :: ys else y :: insertBy le x ys

/-- A list in order; equal elements keep theirs. -/
def sortBy {α : Type} (le : α → α → Bool) (l : List α) : List α := l.foldr (insertBy le) []

/-- A cyclic difference modulo 2^32. -/
def sub32 (a b : Nat) : Nat := (a + 2 ^ 32 - b % 2 ^ 32) % 2 ^ 32

/-! ### Free values -/

/-- A free value: nothing constrains it (log 2). `n` tells the values of one command apart. -/
def State.freeVal (s : State) (n : Nat) : Nat := Config.freeNat s.free n

/-- A random value of the trust core's generator (R440): a fresh one for every command and each `n` below 16. -/
def State.randomVal (s : State) (n : Nat) : Nat := Config.random (16 * s.free + n)

/-! ### Engine classes and queues (R65, R66) -/

/-- Code of a class (R65). -/
def clsCode : EngineClass → Nat
  | .array => 0 | .vector => 1 | .move => 2 | .embed => 3 | .update => 4 | .fabric => 5 | .sched => 6

/-- The class of a code; 0x7 to 0xF are reserved (R65). -/
def classOf : Nat → Option EngineClass
  | 0 => some .array | 1 => some .vector | 2 => some .move | 3 => some .embed
  | 4 => some .update | 5 => some .fabric | 6 => some .sched | _ => none

/-- Classes whose engine belongs to a phrase. -/
def clsOfPhrase : EngineClass → Bool
  | .array | .vector | .move => true
  | _ => false

/-- The queue of an engine. -/
def State.queue (s : State) (q : QueueId) : Option Queue :=
  match q.cls with
  | .array => (s.phrases[q.unit]?).map (·.array)
  | .vector => (s.phrases[q.unit]?).map (·.vector)
  | .move => (s.phrases[q.unit]?).map (·.move)
  | .embed => (s.ees[q.unit]?).map (·.queue)
  | .update => (s.slices[q.unit]?).map (·.queue)
  | .fabric => (s.fab.queues[q.unit]?).map (·.queue)
  | .sched => none

/-- The state with an engine's queue changed. -/
def State.modQueue (s : State) (q : QueueId) (f : Queue → Queue) : State :=
  match q.cls with
  | .array => { s with phrases := s.phrases.modify q.unit fun p => { p with array := f p.array } }
  | .vector => { s with phrases := s.phrases.modify q.unit fun p => { p with vector := f p.vector } }
  | .move => { s with phrases := s.phrases.modify q.unit fun p => { p with move := f p.move } }
  | .embed => { s with ees := s.ees.modify q.unit fun e => { e with queue := f e.queue } }
  | .update => { s with slices := s.slices.modify q.unit fun e => { e with queue := f e.queue } }
  | .fabric => { s with fab := { s.fab with queues := s.fab.queues.modify q.unit fun e => { queue := f e.queue } } }
  | .sched => s

/-- Every engine queue of the die, in the order of their index across the die (R466). -/
def allQueues : List QueueId :=
  ((List.range 8).flatMap fun n => [⟨.array, n⟩, ⟨.vector, n⟩, ⟨.move, n⟩]) ++
  ((List.range 16).map fun k => ⟨.embed, k⟩) ++ ((List.range 12).map fun k => ⟨.update, k⟩) ++
  ((List.range 16).map fun k => ⟨.fabric, k⟩)

/-- A queue's index across the die (R466; the numbering is a DESIGN CHOICE, log 13). -/
def queueIndex (q : QueueId) : Nat :=
  match q.cls with
  | .array => 3 * q.unit | .vector => 3 * q.unit + 1 | .move => 3 * q.unit + 2
  | .embed => 24 + q.unit | .update => 40 + q.unit | .fabric => 52 + q.unit | .sched => 0

/-- The phrase `n` with its job state changed. -/
def State.modCtx (s : State) (n : Nat) (f : PhraseCtx → PhraseCtx) : State :=
  { s with phrases := s.phrases.modify n fun p => { p with ctx := f p.ctx } }

/-- The EE `k` changed. -/
def State.modEe (s : State) (k : Nat) (f : Ee → Ee) : State := { s with ees := s.ees.modify k f }

/-- The slice `k` changed. -/
def State.modSlice (s : State) (k : Nat) (f : Slice → Slice) : State := { s with slices := s.slices.modify k f }

/-- The port `p` changed. -/
def State.modPort (s : State) (p : Nat) (f : Port → Port) : State :=
  { s with fab := { s.fab with ports := s.fab.ports.modify p f } }

/-- The fabric engine changed. -/
def State.modFab (s : State) (f : Fab → Fab) : State := { s with fab := f s.fab }

/-- Memory and tiers changed. -/
def State.modMem (s : State) (f : Mem → Mem) : State := { s with mem := f s.mem }

/-- The scheduler's memory of job `j`; a job it holds nothing of has the empty record. -/
def JobCtx.fresh (j : Nat) : JobCtx where
  job := j
  sqProduced := 0
  cqConsumed := 0
  eqConsumed := 0
  cqReserved := 0
  evSeq := 0
  lostSince := 0
  lastStep := none
  lastEpoch := none
  firstEpoch := none
  refused := none
  redirects := []
  terminated := false
  scaled := false
  notifyDue := []
  notifyWait := []
  ckpt := false
  ckptEnd := 0
  scrubbing := false
  recipes := []
  collSeq := []
  chargedNj := 0
  rebound := []

/-- The scheduler's record of job `j`. -/
def State.job (s : State) (j : Nat) : JobCtx := (s.jobs.find? (·.job == j)).getD (JobCtx.fresh j)

/-- The state with job `j`'s record changed. -/
def State.modJob (s : State) (j : Nat) (f : JobCtx → JobCtx) : State :=
  if s.jobs.any (·.job == j) then
    { s with jobs := s.jobs.map fun c => if c.job == j then f c else c }
  else { s with jobs := s.jobs ++ [f (JobCtx.fresh j)] }

/-- An admitted clause by its admission number. -/
def State.clause (s : State) (seq : Nat) : Option Clause := s.clauses.find? (·.seq == seq)

/-- The state with one clause changed. -/
def State.modClause (s : State) (seq : Nat) (f : Clause → Clause) : State :=
  { s with clauses := s.clauses.map fun c => if c.seq == seq then f c else c }

/-- The open step `n` of job `j` (R231). -/
def State.stepOf (s : State) (j n : Nat) : Option Step := s.steps.find? fun t => t.job == j && t.number == n

/-- The state with one open step changed. -/
def State.modStep (s : State) (j n : Nat) (f : Step → Step) : State :=
  { s with steps := s.steps.map fun t => if t.job == j && t.number == n then f t else t }

/-- States of a job (R384). -/
abbrev jsFree : Nat := 0
/-- CREATED (R384). -/
abbrev jsCreated : Nat := 1
/-- RUNNING (R384). -/
abbrev jsRunning : Nat := 2
/-- PARKED (R384). -/
abbrev jsParked : Nat := 3
/-- RELEASING (R384). -/
abbrev jsReleasing : Nat := 4

/-- Whether job `j` is resident: not FREE (R493). -/
def State.isResident (s : State) (j : Nat) : Bool := s.reg (K.jobState j) != jsFree

/-- The resident jobs. -/
def State.residents (s : State) : List Nat := (List.range 64).filter fun j => s.isResident j

/-- Whether any job is resident. -/
def State.anyResident (s : State) : Bool := (List.range 64).any fun j => s.isResident j

/-- Whether physical binding is on (R36). -/
def State.physical (s : State) : Bool := s.reg K.physicalBinding == 1

/-- The node ID whose addresses this module translates itself. While node_id is unset the node field 0 is the
module's own (R273, R312; DEDUCED, log 14). -/
def State.ownNode (s : State) : Nat := if s.reg K.nodeId = 0xFFFF then 0 else s.reg K.nodeId

/-! ### Aliases (R345) -/

/-- A valid alias entry: replaced node, replacing node, self. -/
def State.aliasAt (s : State) (i : Nat) : Option (Nat × Nat × Bool) :=
  let v := s.reg (K.aliasEntry i)
  if bit v 32 then some (bits v 0 16, bits v 16 16, bit v 33) else none

/-- The valid alias entries. -/
def State.aliases (s : State) : List (Nat × Nat × Bool) := (List.range 64).filterMap fun i => s.aliasAt i

/-- Whether a node ID is this module's own, by its node ID or by a self alias. -/
def State.isMe (s : State) (n : Nat) : Bool :=
  n == s.ownNode || s.aliases.any fun a => a.2.2 && a.1 == n

/-! ### Presence and service (R4, R34, R428) -/

/-- Whether a phrase is present in the grade. -/
def State.phrasePresent (s : State) (n : Nat) : Bool := n < 8 && bit s.part.phrasesPresent n
/-- Whether an EE is present in the grade. -/
def State.eePresent (s : State) (k : Nat) : Bool := k < 16 && bit s.part.eesPresent k
/-- Whether a phrase is in service. -/
def State.phraseUp (s : State) (n : Nat) : Bool := s.phrasePresent n && s.reg (K.phraseService n) == 0
/-- Whether an EE is in service. -/
def State.eeUp (s : State) (k : Nat) : Bool := s.eePresent k && s.reg (K.eeService k) == 0
/-- Whether a slice is in service. -/
def State.sliceUp (s : State) (k : Nat) : Bool := k < 12 && s.reg (K.sliceService k) == 0

/-- Whether a slice runs clauses: in service, or on its way out with those that it holds (R105). -/
def State.sliceRuns (s : State) (k : Nat) : Bool := k < 12 && s.reg (K.sliceService k) ≤ 1

/-- The number of positions below `n` where `f` holds. -/
def countIf (n : Nat) (f : Nat → Bool) : Nat := (List.range n).countP f

/-- Port states (R320). -/
abbrev psDown : Nat := 0
/-- TRAINING. -/
abbrev psTraining : Nat := 1
/-- KEYING. -/
abbrev psKeying : Nat := 2
/-- UP. -/
abbrev psUp : Nat := 3
/-- QUARANTINED. -/
abbrev psQuarantined : Nat := 4
/-- OUT_OF_SERVICE. -/
abbrev psOut : Nat := 5

/-- Frames of tier 0 whose channel and stack are in service (R280). -/
def State.channelUp (s : State) (st c : Nat) : Bool :=
  bit (s.reg (K.hbmChannelsInService st)) c

/-- Channels in service on every stack. -/
def State.channelsUp (s : State) : Nat :=
  (List.range 12).foldl (fun a st => a + countIf 16 fun c => s.channelUp st c) 0

/-! ### Counted events (R458 to R463) -/

/-- The counter index of an engine queue (R456). -/
def queueCounter (q : QueueId) : Nat :=
  match q.cls with
  | .array => 3 * q.unit | .vector => 3 * q.unit + 1 | .move => 3 * q.unit + 2
  | .embed => 0x20 + q.unit | .update => 0x30 + q.unit | _ => 0x51

/-- One programmable counter after `n` events: 48 bits and the overflow bit (R458, R461). -/
def counterAdd (v n : Nat) : Nat :=
  let t := bits v 0 48 + n
  t % 2 ^ 48 + 2 ^ 48 * (if t ≥ 2 ^ 48 ∨ bit v 48 then 1 else 0)

/-- Whether a counted unit counts: not while it is out of service, FAILED or in its self-test (R459). -/
def State.counts (s : State) (u : Nat) : Bool :=
  decide (s.reg (if u < 24 then K.phraseService (u / 3) else if u < 0x30 then K.eeService (u - 0x20)
    else if u < 0x40 then K.sliceService (u - 0x30) else K.stackService (u - 0x40)) < 2) || decide (u ≥ 0x50)

/-- Adds `n` of event `ev` to every counter of unit `u` that selects it: enabled, and its filter, if set, names the
job the event arises from (R458, R459, R460, R462). -/
def State.count (s : State) (u ev n : Nat) (job : Option Nat) : State :=
  if s.counts u = false then s
  else (List.range 8).foldl (fun s c =>
    let sel := s.reg (K.ctrSelect u c)
    if bits sel 0 8 == ev && bit sel 8 && (!bit sel 9 || job == some (bits sel 10 6)) && ev != 0 then
      s.setReg (K.ctrCount u c) (counterAdd (s.reg (K.ctrCount u c)) n)
    else s) s

/-! ### Power states of units (R398, R411) -/

/-- The entry that holds a unit's power state and the place of its two bits. -/
def powerPlace : PowerUnit → Nat × Nat
  | .array n => (K.phraseStates n, 0)
  | .vector n => (K.phraseStates n, 2)
  | .sequencer n => (K.phraseStates n, 4)
  | .ee k => (K.eeStates k, 0)
  | .slice k => (K.sliceStates k, 0)
  | .fabric => (K.fabricEngineState, 0)
  | .core c => (K.coreStates c, 0)

/-- Whether the power unit exists on the part. -/
def State.hasUnit (s : State) : PowerUnit → Bool
  | .array n | .vector n | .sequencer n => s.phrasePresent n
  | .ee k => s.eePresent k
  | .slice k => k < 12
  | .fabric => true
  | .core c => c < 4

/-- A unit's power state: 0 Active, 1 Idle, 2 Nap, 3 Off (R411). -/
def State.powerOf (s : State) (u : PowerUnit) : Nat := bits (s.reg (powerPlace u).1) (powerPlace u).2 2

/-- The state with a unit's power state set. -/
def State.setPower (s : State) (u : PowerUnit) (v : Nat) : State :=
  let k := (powerPlace u).1
  let r := s.reg k
  s.setReg k (r - bits r (powerPlace u).2 2 * 2 ^ (powerPlace u).2 + v * 2 ^ (powerPlace u).2)

/-- The counter index of a power unit's own counters, if it has any (R456). -/
def powerCounter : PowerUnit → Option Nat
  | .array n => some (3 * n) | .vector n => some (3 * n + 1) | .sequencer n => some (3 * n + 2)
  | .ee k => some (0x20 + k) | .slice k => some (0x30 + k) | .fabric => some 0x51 | .core _ => none

/-- Every power-managed unit of the part (R398). -/
def State.powerUnits (s : State) : List PowerUnit :=
  (((List.range 8).flatMap fun n => [PowerUnit.array n, .vector n, .sequencer n]) ++
    (List.range 16).map PowerUnit.ee ++ (List.range 12).map PowerUnit.slice ++ [PowerUnit.fabric] ++ (List.range 4).map PowerUnit.core).filter
    fun u => s.hasUnit u

/-- A unit wakes for work (R8, R22): it becomes Active, and the wake is counted. Stopped PLLs relock first (R400). -/
def State.wake (s : State) (u : PowerUnit) : State :=
  if s.powerOf u = 0 ∨ s.hasUnit u = false then s
  else
    let s := if s.pow.pllStopped then ({ s with pow := { s.pow with pllStopped := false } }).setReg K.pllLocked 7 else s
    let s := { s with pow := { s.pow with selfRefresh := false } }
    let s := s.setPower u 0
    match powerCounter u with
    | some i => s.count i 0x04 1 none
    | none => s

/-- The power unit that runs a queue's commands (R398). -/
def queuePower (q : QueueId) : Option PowerUnit :=
  match q.cls with
  | .array => some (.array q.unit) | .vector => some (.vector q.unit) | .move => some (.sequencer q.unit)
  | .embed => some (.ee q.unit) | .update => some (.slice q.unit) | .fabric => some .fabric | .sched => none

/-- The issue gate is closed by any of its causes (R394, R403, R406, R425). -/
def State.gateClosed (s : State) : Bool :=
  s.gov.gateLimiter || s.gov.gateThermal || s.gov.gatePfw || s.gov.gateStop

/-- Fast domains can work: rails on and internal reset released. -/
def State.powered (s : State) : Bool := s.pow.railsUp == 6 && s.pow.railsWant && !s.pow.inReset

/-- The PLL of a queue's clock domain is locked (R396): A for engines, F for the fabric. -/
def State.clockOf (s : State) (q : QueueId) : Bool :=
  bit (s.reg K.pllLocked) (if q.cls = .fabric then 2 else 0) || s.pow.pllStopped

/-- Whether a control core does nothing now: it is held in reset, or a live update pauses every core (R379, R380). -/
def State.coreOut (s : State) (c : Nat) : Bool := s.svc.coreDown.contains c || s.trust.updateReq.isSome

/-! ### Derived state -/

/-- The value of alert_status: its latched bits, and its level bits [3:0] from their conditions (R408). -/
def State.alertLevels (s : State) : Nat :=
  (if s.pow.inHold then 1 else 0) + (if s.gov.gateLimiter || s.gov.gateThermal then 2 else 0) +
  (if (List.range 12).any (fun k => s.reg (K.hbmThrottleLevel k) == 3) then 4 else 0) +
  (if s.reg K.moduleState = 1 then 8 else 0)

/-- The in-service entries 0x1011.01 to .07 (R34, R280, R320). -/
def State.inService (s : State) : List Nat :=
  [ countIf 8 fun n => s.phraseUp n, countIf 16 fun k => s.eeUp k, countIf 12 fun k => s.sliceUp k,
    countIf 12 fun k => s.reg (K.stackService k) == 0, s.channelsUp * 2249981952,
    countIf 16 fun k => s.reg (K.packageService k) == 0, countIf 16 fun p => s.reg (K.portState p) == psUp ]

/-- The state with entries `k`, `k + 1`, … set to a list of values. -/
def State.setRegs (s : State) : Nat → List Nat → State
  | _, [] => s
  | k, v :: vs => (s.setReg k v).setRegs (k + 1) vs

/-- The entries `k` to `k + n − 1`. -/
def State.regsFrom (s : State) : Nat → Nat → List Nat
  | _, 0 => []
  | k, n + 1 => s.reg k :: s.regsFrom (k + 1) n

/-- health_changes counts every change of an in-service entry (R34). -/
def State.refreshHealth (s : State) : State :=
  let new := s.inService
  let old := s.regsFrom K.phrasesInService 7
  let n := (List.zip old new).countP fun p => p.1 != p.2
  if n = 0 then s else (s.setRegs K.phrasesInService new).bump32 K.healthChanges n

/-- alert_status level bits and the ALERT_N output follow their conditions (R408). -/
def State.refreshAlert (s : State) : State :=
  let a := s.reg K.alertStatus
  let v := a - a % 16 + s.alertLevels
  let s := s.setReg K.alertStatus v
  { s with pow := { s.pow with alertN := v &&& s.reg K.alertMask = 0 } }

end Sys2Proof.Machine
end

