-- ==== Sys2Proof/Machine/Memory.lean ====
section
/-! DEFINITION. Memory: page tables and translation (R273 to R278), placement and quotas (R299 to R302), the tiers
(R279 to R292), poison (R305), live code lines (R95), and reads and writes of a job's addresses.

A physical byte is a number (R277): tier 0 byte o of frame f is f·65,536 + o; tier 1 byte o of container c is
`t1Base` + c·65,536 + o; byte a of lender n's frames is `t2Base` + n·2^48 + a. Poisoned sectors (64 bytes, tier 0) and blocks
(128 bytes, tiers 1 and 2) are listed by their first physical byte. -/

namespace Sys2Proof.Machine

/-- First physical byte of tier 1. -/
abbrev t1Base : Nat := 0x10000000000

/-- First identity of a byte that rests with a lender (R277). -/
abbrev t2Base : Nat := 0x10000000000000000

/-- Bytes in a page and in a frame. -/
abbrev pageBytes : Nat := 65536

/-- Frames of tier 0 (R279). -/
abbrev t0Frames : Nat := 6591744

/-- The outcome of an access by a job's address: done; halts with a reason and detail; needs bytes of another module
(node, address, length); or waits. -/
inductive Acc (α : Type) where
  | ok (a : α)
  | fail (reason detail : Nat)
  | far (node addr len : Nat)
  | wait

/-- Continues a successful access. -/
def accBind {α β : Type} (x : Acc α) (f : α → Acc β) : Acc β :=
  match x with
  | .ok a => f a
  | .fail r d => .fail r d
  | .far n a l => .far n a l
  | .wait => .wait

/-- Where a byte rests. -/
inductive Place where
  | phys (a : Nat)
  | lent (node addr : Nat)
  | empty
  deriving DecidableEq, Repr

/-- The physical identity of a byte: tier, frame or container, node and offset as one number (R277). -/
def Place.ident : Place → Option Nat
  | .phys a => some a
  | .lent node la => some (t2Base + node * 2 ^ 48 + la)
  | .empty => none

/-- Whose write it is: a unit's, a stash command's (R239), a vendor-role writer's (R107), or a control core's, whose wait for a stack
or a page move is not shown (log 80). -/
inductive Via where
  | unit | stash | vendor | core
  deriving DecidableEq, Repr

/-- Bytes a leaf maps (R276). -/
def leafSpan (l : Leaf) : Nat := match l.size with | 0 => 2 ^ 16 | 1 => 2 ^ 21 | _ => 2 ^ 30

/-- Frames a leaf names. -/
def leafFrames (l : Leaf) : Nat := leafSpan l / 65536

/-- The leaf of job `j` that maps an offset. -/
def State.leafOf (s : State) (j off : Nat) : Option Leaf :=
  s.mem.leaves.find? fun l => l.job == j && l.va ≤ off && off < l.va + leafSpan l

/-- Where offset `off` of a leaf that is no alias rests. -/
def leafPlace (l : Leaf) (off : Nat) : Place :=
  if l.allocated = false then .empty
  else match l.tier with
    | 0 => .phys (l.frame * 65536 + (off - l.va))
    | 1 => .phys (t1Base + l.frame * 65536 + (off - l.va))
    | _ => .lent l.node (l.frame * 65536 + (off - l.va))

/-- The leaf whose frames an offset names, and the offset in it: an alias names the frames of the job that mapped
them first (R278). -/
def State.home (s : State) (l : Leaf) (off : Nat) : Option (Leaf × Nat) :=
  match l.src with
  | none => some (l, off)
  | some (j, va) =>
    let o := va + (off - l.va)
    (s.leafOf j o).map fun m => (m, o)

/-- Where an offset of a job rests; none where nothing maps it. -/
def State.placeOf (s : State) (j off : Nat) : Option Place :=
  match s.leafOf j off with
  | none => none
  | some l => (s.home l off).map fun m => leafPlace m.1 m.2

/-- The physical identity of a byte at a job's global address; none where it rests on another module or nowhere (R277). -/
def State.identOf (s : State) (j addr : Nat) : Option Nat :=
  if s.isMe (addr / 2 ^ 48) then (s.placeOf j (addr % 2 ^ 48)).bind Place.ident else none

/-- The 8-byte entry of a job's page table that a leaf is (R276). -/
def leafWord (l : Leaf) : Nat :=
  let b (v : Bool) (i : Nat) : Nat := if v then 2 ^ i else 0
  3 + b l.read 2 + b l.write 3 + l.tier * 2 ^ 4 + b l.pinned 6 + b l.allocated 7 + b l.migrating 8 + b l.accessed 9 +
    l.policy * 2 ^ 10 + b l.src.isSome 14 + l.frame * 2 ^ 16 + (if l.tier = 2 then l.node * 2 ^ 48 else 0)

/-- The 8-byte entry that maps an offset of a job, from the level that its size gives it; 0 where no valid entry does (R276). -/
def State.pageEntry (s : State) (j off : Nat) : Nat :=
  match s.leafOf j off with
  | none => 0
  | some l => match s.home l off with
    | none => leafWord l
    | some (h, _) => leafWord { l with allocated := h.allocated, tier := h.tier, frame := h.frame, node := h.node, migrating := h.migrating }

/-- 64 bytes of a job's own memory as they rest on this module, zeros where they do not. -/
def State.peek64 (s : State) (j addr : Nat) : List Byte :=
  match (if s.isMe (addr / 2 ^ 48) then s.placeOf j (addr % 2 ^ 48) else none) with
  | some (.phys a) => readRun s.mem.bytes a 64
  | _ => zeros 64

/-- The state with one leaf changed. -/
def State.modLeaf (s : State) (j va : Nat) (f : Leaf → Leaf) : State :=
  s.modMem fun m => { m with leaves := m.leaves.map fun l => if l.job == j && l.va == va then f l else l }

/-! ### Poison (R305) -/

/-- Bytes of the unit that ECC covers at a physical address: a sector or a tier 1 block. -/
def eccUnit (a : Nat) : Nat := if a < t1Base then 64 else 128

/-- The first poisoned unit that the run of `n` bytes at `a` touches. -/
def State.poisonIn (s : State) (a n : Nat) : Option Nat :=
  s.mem.poison.find? fun p => p < a + n && a < p + eccUnit p

/-- The poisoned units a run covers only in part. -/
def State.poisonPart (s : State) (a n : Nat) : Option Nat :=
  s.mem.poison.find? fun p => p < a + n && a < p + eccUnit p && !(a ≤ p && p + eccUnit p ≤ a + n)

/-- Removes the poison of every unit a run covers whole. -/
def State.cleanse (s : State) (a n : Nat) : State :=
  s.modMem fun m => { m with poison := m.poison.filter fun p => !(a ≤ p && p + eccUnit p ≤ a + n) }

/-- The unit at a physical address becomes poisoned. -/
def State.markPoison (s : State) (a : Nat) : State :=
  let p := a / eccUnit a * eccUnit a
  if s.mem.poison.contains p then s else s.modMem fun m => { m with poison := m.poison ++ [p] }

/-! ### Quotas and pools (R299, R300) -/

/-- Sum of an entry over the 64 jobs. -/
def State.sumJobs (s : State) (k : Nat → Nat) : Nat := (List.range 64).foldl (fun a j => a + s.reg (k j)) 0

/-- The tier 0 free pool in bytes; may be negative (R300, R433). -/
def State.pool0 (s : State) : Int :=
  (((s.reg K.t0FramesInService : Int) - s.reg K.t0ReserveFrames) * 65536) -
    s.sumJobs K.t0DataQuota - s.sumJobs K.t0StashQuota

/-- Chunk bytes of tier 1: one 128th of the usable bytes holds headers, the rest is chunks (R286). -/
def State.chunksTotal (s : State) : Nat := (s.reg K.t1UsableBytes - s.reg K.t1UsableBytes / 128) / 4096

/-- An fp32 code from 1.0 to below 4.0 as a multiple of 2^−23. -/
def f32Scaled (c : Nat) : Nat := (bits c 0 23 + 2 ^ 23) * 2 ^ (bits c 23 8 - 127)

/-- The tier 1 free pool in bytes (R300). -/
def State.pool1 (s : State) : Int :=
  ((s.chunksTotal * 4096 * f32Scaled (s.reg K.overcommit) / 2 ^ 23 : Nat) : Int) - s.reg K.exportBytes -
    s.sumJobs K.t1DataQuota - s.sumJobs K.t1StashQuota

/-- The entry of a job's data use in a tier. -/
def dataUsed (tier j : Nat) : Nat :=
  match tier with | 0 => K.t0DataUsed j | 1 => K.t1DataUsed j | _ => K.t2DataUsed j

/-- The entry of a job's data quota in a tier. -/
def dataQuota (tier j : Nat) : Nat :=
  match tier with | 0 => K.t0DataQuota j | 1 => K.t1DataQuota j | _ => K.t2DataQuota j

/-- Whether the data quota of a tier covers `n` bytes more. -/
def State.quotaFits (s : State) (tier j n : Nat) : Bool :=
  s.reg (dataUsed tier j) + n ≤ s.reg (dataQuota tier j)

/-- Bytes charged to an entry of use. -/
def State.charge (s : State) (k n : Nat) : State := s.setReg k (s.reg k + n)

/-- Bytes released from an entry of use. -/
def State.release (s : State) (k n : Nat) : State := s.setReg k (s.reg k - n)

/-! ### Tier 0 frames (R279 to R281) -/

/-- Stack of a frame. -/
def frameStack (f : Nat) : Nat := f % 12
/-- Channel of a frame. -/
def frameChannel (f : Nat) : Nat := f / 12 % 16

/-- Whether the allocator may give a frame: its channel and stack are in service, and no removal has begun (R432). -/
def State.frameOk (s : State) (f : Nat) : Bool :=
  s.channelUp (frameStack f) (frameChannel f) && s.reg (K.channelService (16 * frameStack f + frameChannel f)) == 0 &&
    s.reg (K.stackService (frameStack f)) == 0

/-- Whether a frame holds a page, or is one end of a move. -/
def State.frameUsed (s : State) (f : Nat) : Bool :=
  (s.mem.leaves.any fun l => l.src.isNone && l.allocated && l.tier == 0 && l.frame ≤ f && f < l.frame + leafFrames l) ||
  (s.mem.moves.any fun m => (m.dstTier == 0 && m.dst == f) || (m.srcTier == 0 && m.src == f))

/-- Rows of the set `p` of a job as its table gives them; none where no table names the set. -/
def State.setRowCount (s : State) (j p : Nat) : Option Nat :=
  (List.range (s.reg (K.tableCount j))).findSome? fun n =>
    let b := s.peek64 j (s.reg (K.tableList j) + 64 * n)
    if nb b 13 1 = p then some (nb b 0 8) else none

/-- Whether the page at an offset of a job lies within one of its parameter sets' records (R432): from the first record on, up to
the rows of the set's table, or, of a dense set, as far as its pages are mapped without a gap (log 26). -/
def State.paramPage (s : State) (j va : Nat) : Bool :=
  (List.range (s.reg (K.psetCount j))).any fun p =>
    let b := s.peek64 j (s.reg (K.psetList j) + 128 * p)
    let m := nb b 16 8
    let first := m % 2 ^ 48
    let perPage := 65536 / max 1 (nb b 24 2)
    s.isMe (m / 2 ^ 48) && first ≤ va && match s.setRowCount j p with
      | some n => va < first + ceilDiv n (max 1 perPage) * 65536
      | none => (List.range ((va - first) / 65536)).all fun i => (s.leafOf j (first + 65536 * i)).isSome

/-- Whether a frame may hold a page of a job: one of its parameter pages is kept off a stack whose slice is leaving or out of
service (R432). -/
def State.frameSuits (s : State) (param : Bool) (f : Nat) : Bool := !param || s.reg (K.sliceService (frameStack f)) == 0

/-- The next frame after the allocator's position. -/
def nextFrameAfter (f : Nat) : Nat := if f + 1 < t0Frames then f + 1 else 16384

/-- Search for a free frame, from `f`, `fuel` frames at most. -/
def State.seekFrame (s : State) (param : Bool) : Nat → Nat → Option Nat
  | 0, _ => none
  | fuel + 1, f =>
    if s.frameOk f && s.frameSuits param f && !s.frameUsed f then some f else s.seekFrame param fuel (nextFrameAfter f)

/-- A free frame; consecutive pages rotate over the stacks and then over the channels, which consecutive frame
numbers do (R279, R281). -/
def State.freeFrame (s : State) : Option Nat := s.seekFrame false (t0Frames - 16384) s.mem.nextFrame

/-- Whether some slice is leaving or out of service. -/
def State.sliceAway (s : State) : Bool := (List.range 12).any fun k => s.reg (K.sliceService k) != 0

/-- A free frame for the page at an offset of a job. -/
def State.freeFrameFor (s : State) (j va : Nat) : Option Nat :=
  if s.sliceAway && s.paramPage j va then s.seekFrame true (t0Frames - 16384) s.mem.nextFrame else s.freeFrame

/-- Search for `n` consecutive free frames at a multiple of `n`. -/
def State.seekFrames (s : State) (n : Nat) : Nat → Nat → Option Nat
  | 0, _ => none
  | fuel + 1, f =>
    if (List.range n).all fun i => s.frameOk (f + i) && !s.frameUsed (f + i) then some f
    else s.seekFrames n fuel (f + n)

/-- Consecutive free frames for a large leaf. -/
def State.freeFrames (s : State) (n : Nat) : Option Nat :=
  s.seekFrames n ((t0Frames - 16384) / n) (roundUp 16384 n)

/-- A frame zero-filled and free of poison. -/
def State.zeroFrame (s : State) (f : Nat) : State :=
  let a := f * 65536
  s.modMem fun m => { m with bytes := clearRun m.bytes a 65536
                             poison := m.poison.filter fun p => !(a ≤ p && p < a + 65536) }

/-- The allocator's position after it gave frame `f`. -/
def State.gaveFrame (s : State) (f : Nat) : State := s.modMem fun m => { m with nextFrame := nextFrameAfter f }

/-! ### Tier 1 containers (R286 to R290) -/

/-- The 128-byte block `b` of a page's bytes. -/
def pageBlock (bs : List Byte) (b : Nat) : List Byte := (bs.drop (128 * b)).take 128

/-- unit_map of a page encoded afresh: bit b is 1 where block b takes one slot (R287). -/
def unitMapOf (bs : List Byte) : Nat :=
  (List.range 512).foldl (fun m b => if Config.blockFits (pageBlock bs b) then m + 2 ^ b else m) 0

/-- Units in use of a container: two for every block that has not one slot. -/
def unitsOf (m : Nat) : Nat := 1024 - countIf 512 fun b => bit m b

/-- The unit at which block `b` of a container starts: 2·b less the one-slot blocks below it (R287). -/
def slotUnit (m b : Nat) : Nat := 2 * b - countIf b fun i => bit m i

/-- The chunk that holds unit `u` of a container (R287). -/
def Container.chunkOf (c : Container) (u : Nat) : Nat := c.chunks.getD (u / 64) 0

/-- The package on which block `b` of a container starts (R286, R287). -/
def Container.package (c : Container) (b : Nat) : Nat := c.chunkOf (slotUnit c.unitMap b) % 16

/-- The block that unit `u` of a container belongs to (R287). -/
def Container.blockAt (c : Container) (u : Nat) : Option Nat :=
  (List.range 512).find? fun b => slotUnit c.unitMap b ≤ u && u < slotUnit c.unitMap b + (if bit c.unitMap b then 1 else 2)

/-- The 256-byte header of a container (R287): a repack is one step of the model, so its flag is never seen set. -/
def State.containerHeader (s : State) (c : Container) : List Byte :=
  let u := unitsOf c.unitMap
  let poisoned (b : Nat) : Bool := s.mem.poison.contains (t1Base + c.id * 65536 + 128 * b)
  leBytes 64 c.unitMap ++ leBytes 2 u ++ leBytes 1 (ceilDiv u 64) ++ leBytes 1 1 ++
    ((List.range 16).flatMap fun i => leBytes 4 (c.chunks.getD i 0)) ++ leBytes 1 (c.job % 64) ++ zeros 3 ++
    leBytes 4 (c.page % 2 ^ 32) ++ leBytes 64 ((List.range 512).foldl (fun m b => if poisoned b then m + 2 ^ b else m) 0) ++ zeros 52

/-- Chunk numbers in use. -/
def State.chunksUsed (s : State) : List Nat := s.mem.containers.flatMap (·.chunks)

/-- Whether the package of a chunk is in service (R286, R434). -/
def State.chunkOk (s : State) (c : Nat) : Bool := s.reg (K.packageService (c % 16)) == 0

/-- The first `n` free chunks from `c`. -/
def State.seekChunks (s : State) (used : List Nat) : Nat → Nat → Nat → List Nat
  | 0, _, _ => []
  | _, 0, _ => []
  | fuel + 1, n + 1, c =>
    if s.chunkOk c && !used.contains c then c :: s.seekChunks used fuel n (c + 1)
    else s.seekChunks used fuel (n + 1) (c + 1)

/-- Free chunks of 4 KiB (0x2601.02). -/
def State.chunksFree (s : State) : Nat := s.chunksTotal - s.chunksUsed.length

/-- Chunk numbers of a healthy part. -/
abbrev allChunks : Nat := 348815917

/-- `n` free chunks, if there are as many. -/
def State.freeChunks (s : State) (n : Nat) : Option (List Nat) :=
  let l := s.seekChunks s.chunksUsed allChunks n 0
  if l.length = n then some l else none

/-- The least container number not in use. -/
def State.freeContainer (s : State) : Nat :=
  let ids := s.mem.containers.map (·.id)
  ((List.range (ids.length + 1)).find? fun i => !ids.contains i).getD 0

/-- A fresh container for a page's bytes: its number and the state, or none where too few chunks are free (R288,
R290). -/
def State.buildContainer (s : State) (j page : Nat) (bs : List Byte) (poison : List Nat) : Option (Nat × State) :=
  let um := unitMapOf bs
  match s.freeChunks (ceilDiv (unitsOf um) 64) with
  | none => none
  | some ch =>
    let id := s.freeContainer
    let a := t1Base + id * 65536
    some (id, (s.modMem fun m => { m with
      containers := m.containers ++ [{ id := id, job := j, page := page, chunks := ch, unitMap := um }]
      bytes := writeRun m.bytes a bs
      poison := (m.poison.filter fun p => !(a ≤ p && p < a + 65536)) ++ poison.map (a + ·) }).count 0x50 0x13 1
        (if j < 64 then some j else none))

/-- A container freed with its bytes. -/
def State.freeContainerId (s : State) (id : Nat) : State :=
  let a := t1Base + id * 65536
  s.modMem fun m => { m with
    containers := m.containers.filter fun c => c.id != id
    bytes := clearRun m.bytes a 65536
    poison := m.poison.filter fun p => !(a ≤ p && p < a + 65536) }

/-- The bytes of a container's page. -/
def State.containerBytes (s : State) (id : Nat) : List Byte := readRun s.mem.bytes (t1Base + id * 65536) 65536

/-! ### Tier 2 frames (R291, R292) -/

/-- Grants of the import table: lender, first frame, frames (R309). -/
def State.grants (s : State) : List (Nat × Nat × Nat) :=
  (List.range 64).filterMap fun i =>
    let v := s.reg (K.importGrant i)
    if bits v 64 32 = 0 then none else some (bits v 0 16, bits v 32 32, bits v 64 32)

/-- A free frame of a grant. -/
def State.freeLent (s : State) : Option (Nat × Nat) :=
  s.grants.findSome? fun g =>
    ((List.range g.2.2).find? fun i => !s.mem.t2used.contains (g.1, g.2.1 + i)).map fun i => (g.1, g.2.1 + i)

/-! ### Placement of a first write (R301) -/

/-- The tiers tried for a page, in order: the preferred one, then the others from 0 to 2. -/
def tierOrder (p : Nat) : List Nat := p :: [0, 1, 2].filter (· != p)

/-- Whether a page's policy class allows a tier (R293). -/
def State.allows (s : State) (policy tier : Nat) : Bool := bit (s.reg (K.polAllowed policy)) tier

/-- Places a first-written page in one tier, if its conditions hold (R301). -/
def State.placeIn (s : State) (l : Leaf) (tier : Nat) : Option State :=
  if s.quotaFits tier l.job 65536 && s.allows l.policy tier then
    let done (s : State) (node frame : Nat) : State :=
      (s.modLeaf l.job l.va fun l => { l with allocated := true, tier := tier, node := node, frame := frame }).charge
        (dataUsed tier l.job) 65536
    match tier with
    | 0 => (s.freeFrameFor l.job l.va).map fun f => done ((s.zeroFrame f).gaveFrame f) 0 f
    | 1 => (s.buildContainer l.job (l.va / 65536) (zeros 65536) []).map fun (id, s) => done s 0 id
    | _ => s.freeLent.map fun (n, f) => done (s.modMem fun m => { m with t2used := m.t2used ++ [(n, f)] }) n f
  else none

/-- The detail of a TIER_QUOTA halt: the tier and 65,536 bytes; above bit 63, for core 2 alone, the page refused, whether chunks
were short, and how many R290 wants for the page, 0 where R301 places it (R290, R301, R302). -/
def quotaDetail (tier page : Nat) (short : Bool) (need : Nat) : Nat :=
  tier + 65536 * 256 + 2 ^ 64 * (page + 1) + (if short then 2 ^ 100 else 0) + 2 ^ 101 * need

/-- Whether the page at an offset of a job meets a run of `n` bytes at a global address of this module. -/
def State.pageMeets (s : State) (va addr n : Nat) : Bool :=
  s.isMe (addr / 2 ^ 48) && va < addr % 2 ^ 48 + n && addr % 2 ^ 48 < va + 65536

/-- Whether a page of a resident job belongs to its pending-update area, or to the directory, data area or granted overflow log of a
writable table's gradient region (R158, R159, R163). -/
def State.regionPage (s : State) (j va : Nat) : Bool :=
  s.isResident j &&
    (s.reg (K.pendBucketBits j) != 0 &&
        s.pageMeets va (s.reg (K.pendBase j)) (32 * 2 ^ s.reg (K.pendBucketBits j) * s.reg (K.pendStride j)) ||
      s.reg (K.gradList j) != 0 && (List.range (s.reg (K.tableCount j))).any fun n =>
        let t := s.peek64 j (s.reg (K.tableList j) + 64 * n)
        let g := s.peek64 j (s.reg (K.gradList j) + 64 * n)
        let stride := roundUp (4 * nb t 8 2) 64
        !bit (nb t 10 1) 2 &&
          (s.pageMeets va (nb g 0 8) (512 * 2 ^ nb g 16 1) || s.pageMeets va (nb g 8 8) (32 * 2 ^ nb g 16 1 * stride) ||
            s.pageMeets va (nb g 24 8) (65536 * nb g 36 4)))

/-- A page of a gradient region or pending area takes a tier 0 frame, pinned, and counts against the tier 0 data quota (R163, R299). -/
def State.placePinned (s : State) (l : Leaf) : Option State :=
  if s.quotaFits 0 l.job 65536 then
    (s.freeFrameFor l.job l.va).map fun f =>
      ((((s.zeroFrame f).gaveFrame f).modLeaf l.job l.va fun l => { l with
        allocated := true, tier := 0, node := 0, frame := f, pinned := true })).charge (dataUsed 0 l.job) 65536
  else none

/-- Allocates an unallocated page of a job at its first write: the state, or the halt's reason and detail (R163, R301). -/
def State.allocate (s : State) (l : Leaf) : Acc State :=
  if s.regionPage l.job l.va then
    match s.placePinned l with
    | some s => .ok s
    | none => .fail 0x22 (quotaDetail 0 (l.va / 65536) false 0)
  else match (tierOrder l.pref).findSome? fun t => s.placeIn l t with
  | some s => .ok s
  | none =>
    let short := s.quotaFits 1 l.job 65536 && s.allows l.policy 1 &&
      (s.buildContainer l.job (l.va / 65536) (zeros 65536) []).isNone
    .fail 0x22 (quotaDetail l.pref (l.va / 65536) short 0)

/-! ### Live code (R92 to R95) -/

/-- Whether an offset of a job lies in one of its live code regions. -/
def State.liveOff (s : State) (j off : Nat) : Bool :=
  (List.range 16).any fun i =>
    let b := s.reg (K.codeBase j i)
    let l := s.reg (K.codeLenState j i)
    bits l 24 2 != 0 && s.isMe (b / 2 ^ 48) && b % 2 ^ 48 ≤ off && off < b % 2 ^ 48 + bits l 0 24 * 256

/-- Whether the 256-byte line of a physical byte belongs to a live code region of any job and mapping (R95). -/
def State.liveLine (s : State) (a : Nat) : Bool :=
  let line := a / 256 * 256
  s.mem.leaves.any fun l =>
    match (s.home l l.va).bind fun m => (leafPlace m.1 m.2).ident with
    | none => false
    | some p => p ≤ line && line < p + leafSpan l && s.liveOff l.job (l.va + (line - p))

/-- The first byte of a run that lies in a live line. -/
def State.liveIn (s : State) (a n : Nat) : Option Nat :=
  let first := a / 256
  let lines := (a + n + 255) / 256 - first
  if s.mem.leaves.any fun l => (List.range 16).any fun i => bits (s.reg (K.codeLenState l.job i)) 24 2 != 0 then
    ((List.range lines).find? fun i => s.liveLine ((first + i) * 256)).map fun i => max a ((first + i) * 256)
  else none

/-- Whether a vendor-role write to a live code line is performed (R107). -/
def State.liveWritable (s : State) : Bool := s.trust.unlocked && s.reg K.liveCodeWrite == 1

/-! ### The touch table and accessed bits (R276, R294) -/

/-- An entry put first in a unit's translation cache, which holds 1,024; the least recently used one leaves (R275; which one leaves
is a DESIGN CHOICE, log 81). -/
def tlbPut (t : Tlb) (l : List Tlb) : List Tlb :=
  let rest := l.filter (· != t)
  let mine := rest.filter (·.unit == t.unit)
  match mine.getLast? with
  | some x => t :: (if mine.length < 1024 then rest else rest.erase x)
  | none => t :: rest

/-- The walk cache after a walk to a leaf: the entries of levels 0 and 1 it passed, 8,192 in all (R275; log 81). -/
def walkPut (j off size : Nat) (l : List (Nat × Nat × Nat)) : List (Nat × Nat × Nat) :=
  let new := (j, 0, off / 2 ^ 30) :: (if size = 2 then [] else [(j, 1, off / 2 ^ 21)])
  (new ++ l.filter fun x => !new.contains x).take 8192

/-- One translation of an offset of a job by a unit: a hit in its translation cache, or a miss that walks the table, is counted for a
MOVE engine, and fills the caches (R275, R463). -/
def State.translateOne (s : State) (u : TlbUnit) (j off : Nat) : State :=
  match s.leafOf j off with
  | none => s
  | some l =>
    let t : Tlb := { unit := u, job := j, va := l.va }
    if s.mem.tlb.contains t then s.modMem fun m => { m with tlb := tlbPut t m.tlb }
    else
      let s := match u with | .move n => s.count (3 * n + 2) 0x14 1 (some j) | _ => s
      s.modMem fun m => { m with tlb := tlbPut t m.tlb, walks := walkPut j off l.size m.walks }

/-- The entries of a page, and of the aliases that view it, leave every translation cache of the module (R297 step 5). -/
def State.dropTlb (s : State) (j va : Nat) : State :=
  s.modMem fun m => { m with tlb := m.tlb.filter fun t => !(t.job == j && t.va == va ||
    m.leaves.any fun l => l.job == t.job && l.va == t.va && l.src == some (j, va)) }

/-- The entries of a job's leaf leave the translation caches and the job's walks the walk cache, as its table changes (R277). -/
def State.dropWalks (s : State) (j va : Nat) : State :=
  (s.dropTlb j va).modMem fun m => { m with walks := m.walks.filter fun w => w.1 != j }

/-- The touch table after one access of a page served from tier 1 or 2: 65,536 entries, least recently used out
first; a count within touch_window (R294). -/
def touchTable (tick window : Nat) (j va : Nat) (ts : List Touch) : List Touch :=
  let old := ts.find? fun t => t.job == j && t.va == va
  let new : Touch := match old with
    | some t => if tick - t.since ≤ window * 25000 then { t with count := t.count + 1 }
                else { t with count := 1, since := tick }
    | none => { job := j, va := va, count := 1, since := tick }
  (new :: ts.filter fun t => !(t.job == j && t.va == va)).take 65536

/-- One access of a page: `accessed` is set, and a page served from tier 1 or 2 is touched and may become a
promotion candidate (R276, R294). -/
def State.touch (s : State) (j off : Nat) : State :=
  match s.leafOf j off with
  | none => s
  | some l =>
    match s.home l off with
    | none => s
    | some (h, _) =>
      let s := s.modLeaf h.job h.va fun l => { l with accessed := true }
      let s := if h.job == j && h.va == l.va then s else s.modLeaf j l.va fun l => { l with accessed := true }
      if h.allocated && h.tier != 0 then
        let w := s.reg (K.polTouchWindow h.policy)
        let ts := touchTable s.tick w h.job h.va s.mem.touches
        let n := match ts with | t :: _ => t.count | [] => 0
        let p := s.reg (K.polPromoteTouches h.policy)
        let hot := p != 0 && p ≤ n && s.allows h.policy 0 && !h.pinned && h.policy != 15 && h.stash.isNone
        s.modMem fun m => { m with
          touches := ts
          candidates := if hot && !m.candidates.contains (h.job, h.va) then m.candidates ++ [(h.job, h.va)]
                        else m.candidates }
      else s

/-- The pages a run of `n` bytes from `off` touches, by their first offset. -/
def pagesOf (off n : Nat) : List Nat :=
  if n = 0 then [] else (List.range ((off + n - 1) / 65536 - off / 65536 + 1)).map fun i =>
    max off ((off / 65536 + i) * 65536)

/-- The translations of a run at a global address of this module (R273, R275). -/
def State.translate (s : State) (u : TlbUnit) (j addr n : Nat) : State :=
  if s.isMe (addr / 2 ^ 48) then (pagesOf (addr % 2 ^ 48) n).foldl (fun s o => s.translateOne u j o) s else s

/-- Every page of a run touched. -/
def State.touchRun (s : State) (j off n : Nat) : State := (pagesOf off n).foldl (fun s o => s.touch j o) s

/-! ### Reads and writes of a job's addresses -/

/-- Whether an offset lies in the job's stash range (R237). -/
def State.inStash (s : State) (j off : Nat) : Bool :=
  let b := s.reg (K.stashBase j)
  s.isMe (b / 2 ^ 48) && b % 2 ^ 48 ≤ off && off < b % 2 ^ 48 + s.reg (K.stashLen j)

/-- Bytes fetched from another module or a lender, if every one has arrived. -/
def State.fetched (s : State) (node addr n : Nat) : Option (List Byte) :=
  (List.range n).foldr (fun i acc =>
    match acc, s.fab.farData.find? (fun d => d.1 == node && d.2.1 == addr + i) with
    | some l, some d => some (d.2.2 :: l)
    | _, _ => none) (some [])

/-- The failure of a fetch from another module or a lender that a run touches. -/
def State.farFailed (s : State) (node addr n : Nat) : Option (Nat × Nat) :=
  (s.fab.farFail.find? fun x => x.1 == node && x.2.1 < addr + n && addr < x.2.1 + x.2.2.1).map (·.2.2.2)

/-- Bytes of another module or a lender: here, refused, or to be fetched. -/
def State.farRead (s : State) (node addr n : Nat) : Acc (List Byte) :=
  match s.fetched node addr n with
  | some bs => .ok bs
  | none => match s.farFailed node addr n with
    | some x => .fail x.1 x.2
    | none => .far node addr n

/-- A read that stays within one page (R274, R305). `stash` is set for the stash commands (R239). -/
def State.readPage (s : State) (j off n : Nat) (stash : Bool) : Acc (List Byte) :=
  let addr := 2 ^ 48 * s.ownNode + off
  if s.inStash j off && !stash then .fail 0x21 addr
  else match s.leafOf j off with
    | none => .fail 0x20 addr
    | some l =>
      if l.read = false then .fail 0x21 addr
      else match s.home l off with
        | none => .fail 0x20 addr
        | some (h, o) =>
          match leafPlace h o with
          | .empty => .ok (zeros n)
          | .phys a =>
            match s.poisonIn a n with
            | some _ => .fail 0x30 addr
            | none => .ok (readRun s.mem.bytes a n)
          | .lent node la =>
            match s.poisonIn (t2Base + node * 2 ^ 48 + la) n with
            | some _ => .fail 0x30 addr
            | none => s.farRead (node + 2 ^ 16) la n

/-- A read of `n` bytes, page by page; `fuel` pages at most. -/
def State.readPages (s : State) (j : Nat) (stash : Bool) : Nat → Nat → Nat → Acc (List Byte)
  | 0, _, _ => .ok []
  | fuel + 1, off, n =>
    if n = 0 then .ok []
    else
      let m := min n (65536 - off % 65536)
      accBind (s.readPage j off m stash) fun a =>
      accBind (s.readPages j stash fuel (off + m) (n - m)) fun b => .ok (a ++ b)

/-- A read of `n` bytes at a global address in the address space of job `j` (R273). -/
def State.readVa (s : State) (j addr n : Nat) : Acc (List Byte) :=
  let node := addr / 2 ^ 48
  let off := addr % 2 ^ 48
  if node > 16383 then .fail 0x20 addr
  else if s.isMe node then s.readPages j false (n / 65536 + 2) off n
  else s.farRead node off n

/-- Whether a stack takes no access now: it is at throttle level 3 (R308). -/
def State.stackHeld (s : State) (a : Nat) : Bool :=
  a < t1Base && s.reg (K.hbmThrottleLevel (frameStack (a / 65536))) == 3

/-- Whether the first byte of a run at a job's address rests on a stack that takes no access now (R308). -/
def State.heldAt (s : State) (j addr : Nat) : Bool :=
  if s.isMe (addr / 2 ^ 48) then
    match s.placeOf j (addr % 2 ^ 48) with
    | some (.phys a) => s.stackHeld a
    | _ => false
  else false

/-- A unit's read, which a stack at throttle level 3 holds back (R308). -/
def State.unitRead (s : State) (j addr n : Nat) : Acc (List Byte) := if s.heldAt j addr then .wait else s.readVa j addr n

/-- Fetched bytes of a run dropped. -/
def State.dropFar (s : State) (node addr n : Nat) : State :=
  if s.fab.farData = [] then s
  else s.modFab fun f => { f with farData := f.farData.filter fun d => !(d.1 == node && addr ≤ d.2.1 && d.2.1 < addr + n) }

/-- Fetched bytes of a job's run that rest with lenders dropped. -/
def State.dropLent (s : State) (j off n : Nat) : State :=
  if s.fab.farData = [] then s
  else (pagesOf off n).foldl (fun s o => match s.placeOf j o with
    | some (.lent node la) => s.dropFar (node + 2 ^ 16) la (min (65536 - o % 65536) (off + n - o))
    | _ => s) s

/-- 64-byte sectors that a run touches. -/
def sectors (a n : Nat) : Nat := if n = 0 then 0 else (a + n - 1) / 64 - a / 64 + 1

/-- Sectors read or written at a physical place, counted at the controller that serves them (R463). -/
def State.countAt (s : State) (a n : Nat) (write : Bool) (job : Option Nat) : State :=
  s.count (if a < t1Base then 0x40 + frameStack (a / 65536) else 0x50) (if write then 0x11 else 0x10) (sectors a n) job

/-- Sectors of a job's run that the controllers of this module read (R463). -/
def State.countReads (s : State) (j off n : Nat) : State :=
  (pagesOf off n).foldl (fun s o => match s.placeOf j o with
    | some (.phys a) => s.countAt a (min (65536 - o % 65536) (off + n - o)) false (some j)
    | _ => s) s

/-- The state after a successful read: sectors counted (R463), pages touched (R276, R294), bytes fetched for it dropped. -/
def State.didRead (s : State) (j addr n : Nat) : State :=
  if s.isMe (addr / 2 ^ 48) then
    ((s.countReads j (addr % 2 ^ 48) n).touchRun j (addr % 2 ^ 48) n).dropLent j (addr % 2 ^ 48) n
  else s.dropFar (addr / 2 ^ 48) (addr % 2 ^ 48) n

/-- A write into a tier 1 page: the blocks it touches are encoded again, and a container whose block no longer fits
its slot is repacked (R288, R290); the poison of a block it covers whole is gone (R305). The detail of a failure is R290's. -/
def State.writeTier1 (s : State) (h : Leaf) (o : Nat) (bs : List Byte) : Acc State :=
  let a := t1Base + h.frame * 65536
  let page := putBytes (s.containerBytes h.frame) (o - h.va) bs
  let first := (o - h.va) / 128
  let n := (o - h.va + bs.length + 127) / 128 - first
  match s.mem.containers.find? (·.id == h.frame) with
  | none => .ok s
  | some c =>
    let spilled := (List.range n).any fun i => bit c.unitMap (first + i) && !Config.blockFits (pageBlock page (first + i))
    let s := s.countAt (a + (o - h.va)) bs.length true (some h.job)
    if spilled = false then
      .ok ((s.modMem fun m => { m with bytes := writeRun m.bytes (a + (o - h.va)) bs }).cleanse (a + (o - h.va)) bs.length)
    else
      let u := s.cleanse (a + (o - h.va)) bs.length
      let poison := (u.mem.poison.filter fun p => a ≤ p && p < a + 65536).map (· - a)
      match u.buildContainer h.job (h.va / 65536) page poison with
      | none => .fail 0x22 (quotaDetail 1 (h.va / 65536) true (ceilDiv (unitsOf (unitMapOf page)) 64))
      | some (id, s) =>
        let s := s.modLeaf h.job h.va fun l => { l with frame := id }
        .ok (((s.freeContainerId h.frame).bump K.repacks 1).count 0x50 0x12 1 (some h.job))

/-- A write that stays within one page: rights (R274), live code (R95, R107), waiting on a move or a held stack (R297, R308), the
first write's allocation (R301), poison (R305), and the tiers. -/
def State.writePage (s : State) (j off : Nat) (bs : List Byte) (via : Via) : Acc State :=
  let addr := 2 ^ 48 * s.ownNode + off
  let n := bs.length
  if s.inStash j off && via != .stash then .fail 0x21 addr
  else match s.leafOf j off with
    | none => .fail 0x20 addr
    | some l =>
      if l.write = false then .fail 0x21 addr
      else
        let store (s : State) (h : Leaf) : Acc State :=
          match (leafPlace h off).ident with
          | none => .wait
          | some a =>
            match (if via = .vendor ∧ s.liveWritable then none else s.liveIn a n) with
            | some x => .fail 0x24 (addr + (x - a))
            | none =>
              if h.migrating && via != .core then .wait
              else if (s.poisonPart a n).isSome then .fail 0x30 addr
              else match leafPlace h off with
                | .lent node la => .far (node + 2 ^ 16) la n
                | _ =>
                  if s.stackHeld a && via != .core then .wait
                  else if h.tier = 1 then s.writeTier1 h off bs
                  else
                    let s := s.countAt a n true (if via = .core then none else some j)
                    .ok ((s.modMem fun m => { m with bytes := writeRun m.bytes a bs }).cleanse a n)
        if l.allocated then store s l
        else accBind (s.allocate l) fun s =>
          match s.leafOf j off with
          | none => .wait
          | some h => store s h

/-- A write of bytes, page by page; `fuel` pages at most. -/
def State.writePages (s : State) (j : Nat) (via : Via) : Nat → Nat → List Byte → Acc State
  | 0, _, _ => .ok s
  | fuel + 1, off, bs =>
    if bs = [] then .ok s
    else
      let m := min bs.length (65536 - off % 65536)
      accBind (s.writePage j off (bs.take m) via) fun s =>
      s.writePages j via fuel (off + m) (bs.drop m)

/-- A write of bytes at a global address in the address space of job `j`: applied whole, or not at all. -/
def State.writeAs (s : State) (via : Via) (j addr : Nat) (bs : List Byte) : Acc State :=
  let node := addr / 2 ^ 48
  let off := addr % 2 ^ 48
  if node > 16383 then .fail 0x20 addr
  else if s.isMe node then
    accBind (s.writePages j via (bs.length / 65536 + 2) off bs) fun s => .ok (s.touchRun j off bs.length)
  else .far node off bs.length

/-- A unit's write at a global address of a job. -/
def State.writeVa (s : State) (j addr : Nat) (bs : List Byte) : Acc State := s.writeAs .unit j addr bs

/-- The state after a write has left for the lender of a job's page: the page is accessed and touched (R276, R294), and blocks that it
covers whole are poisoned no more (R305). -/
def State.didWriteFar (s : State) (j addr n : Nat) : State :=
  if s.isMe (addr / 2 ^ 48) then
    let off := addr % 2 ^ 48
    (pagesOf off n).foldl (fun s o => match (s.placeOf j o).bind Place.ident with
      | some a => s.cleanse a (min (65536 - o % 65536) (off + n - o))
      | none => s) (s.touchRun j off n)
  else s

/-- The failure of a page's fetch into tier 0 (R172). -/
def State.fetchFailed (s : State) (j va : Nat) : Option (Nat × Nat) :=
  (s.mem.pageReqs.find? fun r => r.job == j && r.va == va).bind (·.failed)

/-- A command that needs a page in tier 0 waits for it, or fails as its fetch did (R172, R283). -/
def State.awayAcc {α : Type} (s : State) (h : Leaf) : Acc α :=
  match s.fetchFailed h.job h.va with
  | some x => .fail x.1 x.2
  | none => .wait

/-- A failure that a command or a peer has been told of is over: later accesses try again. -/
def State.toldFailure (s : State) (reason detail : Nat) : State :=
  { s with
    fab := { s.fab with farFail := s.fab.farFail.filter fun x => x.2.2.2 != (reason, detail) }
    mem := { s.mem with pageReqs := s.mem.pageReqs.filter fun r => r.failed != some (reason, detail) } }

/-! ### Page moves (R297, R298) -/

/-- The move of a page that is under way. -/
def State.moveOf (s : State) (j va : Nat) : Option PageMove := s.mem.moves.find? fun m => m.job == j && m.va == va

/-- A lender's frame given back: it holds no page, and its poison is forgotten (R292). -/
def State.freeLentFrame (s : State) (node frame : Nat) : State :=
  let a := t2Base + node * 2 ^ 48 + frame * 65536
  s.modMem fun m => { m with t2used := m.t2used.filter (· != (node, frame))
                             poison := m.poison.filter fun p => !(a ≤ p && p < a + 65536) }

/-- What holds a page in a tier is given back; a tier 0 frame is free by being unused, a tier 2 place is coded as
lender node · 2^32 + frame. -/
def State.freeTierPlace (s : State) (tier place : Nat) : State :=
  match tier with
  | 0 => s
  | 1 => s.freeContainerId place
  | _ => s.freeLentFrame (place / 2 ^ 32) (place % 2 ^ 32)

/-- The state without a move. -/
def State.dropMove (s : State) (m : PageMove) : State := s.modMem fun x => { x with moves := x.moves.filter (· != m) }

/-- A move before its step 4 undone: the new place freed, its tier released, `migrating` cleared (R298). -/
def State.abandonMove (s : State) (m : PageMove) : State :=
  let s := s.dropMove m
  let s := s.freeTierPlace m.dstTier m.dst
  let s := if m.srcTier = m.dstTier then s else s.release (dataUsed m.dstTier m.job) 65536
  s.modLeaf m.job m.va fun l => { l with migrating := false }

/-- A pin of a page ends a move of it out of tier 0 before its step 4 (R298). -/
def State.keepInTier0 (s : State) (j va : Nat) : State :=
  match s.moveOf j va with
  | some m => if m.stage = .copying ∧ m.srcTier = 0 ∧ m.dstTier ≠ 0 then s.abandonMove m else s
  | none => s

/-- The physical address of a job's offset when it rests in memory of this module. -/
def State.physOf (s : State) (j addr : Nat) : Option Nat :=
  if s.isMe (addr / 2 ^ 48) then
    match s.placeOf j (addr % 2 ^ 48) with
    | some (.phys a) => some a
    | _ => none
  else none

end Sys2Proof.Machine
end

