-- ==== Sys2Proof/Machine/FabricOut.lean ====
section
/-! DEFINITION. Sending on the fabric and on the Ryeve link: acting node and aliases (R345), usable ports and the
choice of a port (R313, R314), replay buffers and credits (R316, R319, R355), requests (R323, R325, R328). -/

namespace Sys2Proof.Machine

/-! ### Aliases and the acting node (R345) -/

/-- The node a frame addressed to `n` goes to. -/
def State.realNode (s : State) (n : Nat) : Nat :=
  match s.aliases.find? (·.1 == n) with
  | some a => a.2.1
  | none => n

/-- The node ID in whose name this module acts. -/
def State.actingNode (s : State) : Nat :=
  match s.aliases.find? (·.2.2) with
  | some a => a.1
  | none => s.reg K.nodeId

/-! ### Ports (R313, R314) -/

/-- Whether a port is UP. -/
def State.portUp (s : State) (p : Nat) : Bool := p < 16 && s.reg (K.portState p) == psUp

/-- The ports usable toward a node, ascending. -/
def State.usablePorts (s : State) (node : Nat) : List Nat :=
  (List.range 16).filter fun p => s.reg (K.portState p) == psUp && !s.fab.reports.contains (p, node)

/-- The port of a request: position (h + b) mod u among the usable ports. -/
def State.portFor (s : State) (node addr : Nat) : Option Nat :=
  let u := s.usablePorts node
  u[(Config.portHash node + bits addr 12 36) % u.length]?

/-- The module's own hello of a keying exchange: a random value, an ephemeral key and its certificate chain (R451). -/
def State.ownHello (s : State) : KeyingMsg :=
  .hello (s.randomVal 0) (Config.x25519Public (s.randomVal 1))
    (leBytes 1024 s.part.certDevice ++ leBytes 1024 s.part.certInter)

/-- A keying exchange begins. -/
def State.startKeying (s : State) (p : Nat) : State :=
  s.modPort p fun P => { P with keying := [s.ownHello], secret := s.randomVal 1 }

/-- An UP port begins a rekey, once (R452). -/
def State.startRekey (s : State) (p : Nat) : State :=
  match s.fab.ports[p]? with
  | none => s
  | some P =>
    if s.reg (K.portState p) = psUp ∧ P.rekeying = false then (s.modPort p fun P => { P with rekeying := true }).startKeying p
    else s

/-- Whether a port sends no frame now: it has no credit or no place in its replay buffer (R316, R319), or its key has sent all that it
may (R318). -/
def Port.stopped (P : Port) : Bool := P.credits == 0 || P.replay.length ≥ 512 || P.count + 1 ≥ 2 ^ 32

/-- A frame enters the replay buffer under the next number; the 2^31st under a key begins a rekey (R452). -/
def State.portPut (s : State) (p : Nat) (P : Port) (t : TxFrame) (waitTx : List TxFrame) : State :=
  let s := s.modPort p fun P => { P with
    waitTx := waitTx
    replay := P.replay ++ [{ t with seq := P.txSeq }]
    txSeq := (P.txSeq + 1) % 65536
    credits := P.credits - 1
    count := P.count + 1 }
  let s := (s.bump K.fabFramesTx 1).bump (K.portBytesTx p) t.frame.payload.length
  let s := s.count 0x51 0x10 1 none
  if P.count + 1 ≥ 2 ^ 31 then s.startRekey p else s

/-- Sends one data frame on a port: into the replay buffer, or to wait until the port may send (R316, R319). -/
def State.portSendOne (s : State) (p op : Nat) (f : Frame) : State :=
  match s.fab.ports[p]? with
  | none => s
  | some P =>
    let t : TxFrame := { seq := P.txSeq, op := op, frame := { f with port := p }, moved := false }
    if P.stopped ∨ P.waitTx ≠ [] then s.modPort p fun P => { P with waitTx := P.waitTx ++ [t] } else s.portPut p P t []

/-- Sends a request or response on a port: a payload is filled to whole 16-byte units and goes in frames of at most 512
bytes, the last of which is marked (R316). -/
def State.portSend (s : State) (p op : Nat) (f : Frame) : State :=
  let f : Frame := { f with payload := padTo (roundUp f.payload.length 16) f.payload }
  let n := max 1 (ceilDiv f.payload.length 512)
  (List.range n).foldl (fun s i => s.portSendOne p op { f with
    payload := (f.payload.drop (512 * i)).take 512
    flags := f.flags / 2 * 2 + (if i + 1 = n then 1 else 0) }) s

/-- Sends waiting frames while the port may send. -/
def State.portDrain (s : State) (p : Nat) : Nat → State
  | 0 => s
  | fuel + 1 =>
    match s.fab.ports[p]? with
    | none => s
    | some P =>
      match P.waitTx with
      | [] => s
      | t :: rest =>
        if P.stopped then s else (s.portPut p P t rest).portDrain p fuel

/-- The fabric key a job's requests carry (R325). -/
def State.keyOf (s : State) (j : Nat) : Nat := s.reg (K.fabricKey j)

/-- A frame of this module. `node` is the destination before aliases. -/
def State.frameTo (s : State) (node key tag flags addr arg status : Nat) (payload : List Byte) : Frame where
  port := 0
  src := s.reg K.nodeId
  acting := s.actingNode
  dst := s.realNode node
  flags := flags
  key := key
  tag := tag
  addr := addr
  arg := arg
  status := status
  payload := payload

/-- Sends a frame that expects no tracking (a response, a relayed result): on a usable port, or nowhere. -/
def State.sendFrame (s : State) (op node key tag flags addr arg status : Nat) (payload : List Byte) : State :=
  match s.portFor (s.realNode node) addr with
  | some p => s.portSend p op (s.frameTo node key tag flags addr arg status payload)
  | none => s

/-- Answers a request: a response, or with a status a refusal, to the node in whose name it was sent (R316). -/
def State.reply (s : State) (f : Frame) (op arg status : Nat) (payload : List Byte) : State :=
  s.sendFrame op f.acting f.key f.tag (if status = 0 then 3 else 7) f.addr arg status payload

/-- A frame of a request or response of several frames: none until the last one is here, then the whole (R316). -/
def State.assemble (s : State) (f : Frame) : Option Frame × State :=
  let mine (x : Nat × Nat × List Byte) : Bool := x.1 == f.src && x.2.1 == f.tag
  let before := ((s.fab.rxParts.find? mine).map (·.2.2)).getD []
  let rest := s.fab.rxParts.filter fun x => !mine x
  if bit f.flags 0 then (some { f with payload := before ++ f.payload }, s.modFab fun F => { F with rxParts := rest })
  else (none, s.modFab fun F => { F with rxParts := rest ++ [(f.src, f.tag, before ++ f.payload)] })

/-- Sends a frame to a physical node, whatever the alias table says (R316). -/
def State.sendPhys (s : State) (op node key tag flags addr arg status : Nat) (payload : List Byte) : State :=
  match s.portFor node addr with
  | some p => s.portSend p op { s.frameTo node key tag flags addr arg status payload with dst := node }
  | none => s

/-- The op that answers a request, if any does (R317). -/
def answerOp (op : Nat) : Option Nat :=
  match op with
  | 0x01 => some 0x02 | 0x03 => some 0x04 | 0x05 => some 0x04 | 0x06 => some 0x07 | 0x08 => some 0x04
  | 0x09 => some 0x0A | 0x0B => some 0x04 | 0x0D => some 0x04 | 0x0E => some 0x0F | 0x12 => some 0x13
  | 0x14 => some 0x15 | 0x17 => some 0x0F | _ => none

/-- Whether reserved bits of a frame are nonzero (R316, R317). -/
def frameReserved (f : Frame) : Bool :=
  f.flags / 8 != 0 || (if bit f.flags 2 then f.status ≥ 256 else f.status != 0) || f.payload.length % 16 != 0 ||
    f.payload.length > 512

/-- Whether a frame's source was replaced, or acts in a name that no alias maps to it (R345). -/
def State.badSource (s : State) (f : Frame) : Bool :=
  (s.aliases.any fun a => a.1 == f.src) ||
    (f.acting != f.src && !s.aliases.any fun a => a.1 == f.acting && a.2.1 == f.src)

/-- A data frame is received in order on its port: counted, acknowledged by its number, and the fabric engine wakes (R22,
R316, R348). -/
def State.receivedOn (s : State) (p bytes : Nat) : State :=
  let s := (s.bump K.fabFramesRx 1).bump (K.portBytesRx p) bytes
  let s := s.modPort p fun P => { P with rxSeq := (P.rxSeq + 1) % 65536 }
  (s.count 0x51 0x11 1 none).wake .fabric

/-- A data frame is received. -/
def State.received (s : State) (f : Frame) : State := s.receivedOn f.port f.payload.length

/-- A data frame of an op arrives on a port: one for another node, or on a port that is not UP, is none of this module's.
The others are counted and wake the fabric engine; one with reserved bits set is dropped, one of a replaced source is
refused; the last frame of a request or response yields the whole (R316, R317, R345, R348). -/
def State.arrive (s : State) (op : Nat) (f : Frame) : Option Frame × State :=
  if s.isMe f.dst = false ∨ s.portUp f.port = false then (none, s)
  else
    let s := s.received f
    if frameReserved f then (none, s.bump K.fabRefusedInbound 1)
    else if s.badSource f then
      let s := s.bump K.fabRefusedInbound 1
      (none, match answerOp op with
        | some a => s.sendPhys a f.src f.key f.tag 7 f.addr 0 0x21 (padTo 16 (leBytes 8 f.addr))
        | none => s)
    else s.assemble f

/-- Whether a node is unreachable for new requests (R344). -/
def State.unreachable (s : State) (node : Nat) : Bool :=
  let r := s.realNode node
  s.fab.dead.contains r || (s.usablePorts r).isEmpty

/-- The key of a request's frames: the job's, or 0 for alias traffic and for tier 2 traffic, which a node of 2^16 and above marks (R325, R291). -/
def State.reqKey (s : State) (r : Req) : Nat := if r.node ≥ 2 ^ 16 ∨ r.what = 0x14 then 0 else s.keyOf r.job

/-- The state with one request changed. -/
def State.modReq (s : State) (tag : Nat) (f : Req → Req) : State :=
  s.modFab fun F => { F with reqs := F.reqs.map fun r => if r.tag == tag then f r else r }

/-- Whether frames that a port's departure moved toward a node and 4 KiB block are not acknowledged yet (R315). -/
def State.movedTo (s : State) (node addr : Nat) : Bool :=
  s.fab.ports.any fun P => (P.replay ++ P.waitTx).any fun t =>
    t.moved && t.frame.dst == node && bits t.frame.addr 12 36 == bits addr 12 36

/-- Sends a request's frame on a port, whatever is known of its node. -/
def State.sendReqNow (s : State) (r : Req) : State :=
  let node := r.node % 2 ^ 16
  let phys := s.realNode node
  match s.portFor phys r.addr with
  | none => s.modReq r.tag fun x => { x with held := true, blocked := false }
  | some p =>
    let s := s.modReq r.tag fun x => { x with sent := true, blocked := false, port := p, phys := phys }
    s.portSend p r.what (s.frameTo node (s.reqKey r) r.tag 1 r.addr r.arg 0 r.data)

/-- Sends one request's frame, holds it where the node is unreachable, or lets it wait behind frames that changed ports
(R314, R315, R344). -/
def State.sendReqFrame (s : State) (r : Req) : State :=
  let node := r.node % 2 ^ 16
  if s.unreachable node then s.modReq r.tag fun x => { x with held := true, blocked := false }
  else if s.movedTo (s.realNode node) r.addr then s.modReq r.tag fun x => { x with blocked := true, held := false }
  else (s.modReq r.tag fun x => { x with held := false }).sendReqNow r

/-- Requests that could not depart, and whose way is free now, depart. -/
def State.retrySends (s : State) : State :=
  (s.fab.reqs.filter fun r => !r.sent && (r.held || r.blocked)).foldl (fun s r => s.sendReqFrame r) s

/-- Requests held for a node that an alias replaces now go to the replacing node, those too that no node is sent twice (R344, R346). -/
def State.sendHeld (s : State) (node : Nat) : State :=
  (s.fab.reqs.filter fun r => r.held && r.node % 2 ^ 16 == node).foldl (fun s r =>
    (s.modReq r.tag fun x => { x with sent := false }).sendReqFrame { r with sent := false }) s

/-- A new request of a unit of this module (R323): its tag is the next one; bytes that it changes are fetched anew by the next reader. A
`node` of 2^16 and above marks a lender (R291). -/
def State.request (s : State) (what job : Nat) (owner : QueueId) (xid node addr arg dst : Nat) (data : List Byte) : State :=
  let r : Req := { tag := s.fab.nextTag, what := what, job := job, owner := owner, xid := xid, node := node, port := 0,
                   addr := addr, arg := arg, dst := dst, data := data, sent := false, held := false, phys := 0, blocked := false }
  let s := if what = 0x03 ∨ what = 0x05 ∨ what = 0x06 then s.dropFar node (addr % 2 ^ 48) (max 64 data.length) else s
  let s := s.modFab fun F => { F with reqs := F.reqs ++ [r], nextTag := (F.nextTag + 1) % 2 ^ 32 }
  s.sendReqFrame r

/-- The request with a tag. -/
def State.reqOf (s : State) (tag : Nat) : Option Req := s.fab.reqs.find? (·.tag == tag)

/-- The state without a request. -/
def State.dropReq (s : State) (tag : Nat) : State :=
  s.modFab fun F => { F with reqs := F.reqs.filter fun r => r.tag != tag }

/-- The number of a request whose command has ended. -/
abbrev noXfer : Nat := 2 ^ 64

/-- Requests of a queue's command that are not complete. -/
def State.reqsOf (s : State) (q : QueueId) : List Req := s.fab.reqs.filter fun r => r.owner == q && r.xid != noXfer

/-- Requests of a resumed command that were refused depart again (R98). -/
def State.resend (s : State) (q : QueueId) : State :=
  ((s.reqsOf q).filter fun r => !r.sent && !r.held && !r.blocked).foldl (fun s r => s.sendReqFrame r) s

/-- The owner of requests that no engine queue issued: the control cores. -/
abbrev coreOwner : QueueId := ⟨.sched, 0⟩

/-- Bytes of another module, or of a lender, that the control cores or an engine's descriptor read needs: a READ of at
most `by_` bytes each, unless one is outstanding already. A lender's node is `node − 2^16` (R291). -/
def State.fetchFarBy (s : State) (by_ j node addr n : Nat) : State :=
  (List.range (ceilDiv n by_)).foldl (fun s i =>
    let a := addr + by_ * i
    let m := min by_ (n - by_ * i)
    if s.fab.reqs.any fun r => r.what == 0x01 && r.owner == coreOwner && r.node == node && r.addr % 2 ^ 48 == a then s
    else
      let real := if node ≥ 2 ^ 16 then node - 2 ^ 16 else node
      s.request 0x01 j coreOwner 0 node (2 ^ 48 * real + a) m 0 []) s

/-- Bytes of another module or of a lender, by READs of at most 512 bytes, the most that a frame carries (R316). -/
def State.fetchFar (s : State) (j node addr n : Nat) : State := s.fetchFarBy 512 j node addr n

/-- Bytes fetched for descriptors and control reads are kept no longer once a command has completed and no such fetch is outstanding. -/
def State.forgetFar (s : State) : State :=
  if s.fab.farData = [] ∨ s.fab.reqs.any (fun r => r.what == 0x01 && r.owner == coreOwner) then s
  else s.modFab fun F => { F with farData := [] }

/-- Bytes of a lender or of another module that a control core writes: a WRITE for each 512 bytes. -/
def State.putFar (s : State) (j node addr : Nat) (bs : List Byte) : State :=
  (List.range (ceilDiv bs.length 512)).foldl (fun s i =>
    let a := addr + 512 * i
    let d := (bs.drop (512 * i)).take 512
    let real := if node ≥ 2 ^ 16 then node - 2 ^ 16 else node
    s.request 0x03 j coreOwner 0 node (2 ^ 48 * real + a) d.length 0 d) s

/-- A write of a job's run, page by page: what rests with a lender or another module departs by `send`; `fuel` pages at most. -/
def State.writeEach (send : State → Nat → Nat → List Byte → State) (via : Via) (j : Nat) : Nat → Nat → List Byte → State → Acc State
  | 0, _, _, s => .ok s
  | fuel + 1, addr, bs, s =>
    if bs = [] then .ok s
    else
      let m := min bs.length (65536 - addr % 65536)
      accBind (match s.writeAs via j addr (bs.take m) with
        | .far n a _ => .ok ((send s n a (bs.take m)).didWriteFar j addr m)
        | x => x) fun s => State.writeEach send via j fuel (addr + m) (bs.drop m) s

/-- A write of a unit or a control core that sends what rests elsewhere (R291). -/
def State.writeOutAs (s : State) (via : Via) (j addr : Nat) (bs : List Byte) : Acc State :=
  State.writeEach (fun s n a b => s.putFar j n a b) via j (bs.length / 65536 + 2) addr bs s

/-- A unit's write that sends what rests elsewhere (R291). -/
def State.writeOut (s : State) (j addr : Nat) (bs : List Byte) : Acc State := s.writeOutAs .unit j addr bs

/-- What of a job's run rests with lenders or in another module is asked for (R273, R291). -/
def State.fetchRun (s : State) (j addr n : Nat) : State :=
  if s.isMe (addr / 2 ^ 48) then
    let off := addr % 2 ^ 48
    (pagesOf off n).foldl (fun s o => match s.placeOf j o with
      | some (.lent node la) => s.fetchFar j (node + 2 ^ 16) la (min (65536 - o % 65536) (off + n - o))
      | _ => s) s
  else s.fetchFar j (addr / 2 ^ 48) (addr % 2 ^ 48) n

/-- A write of an engine queue, which awaits what it sends elsewhere: WRITEs of at most 512 bytes (R273, R291). -/
def State.queueWrite (s : State) (q : QueueId) (j addr : Nat) (bs : List Byte) : Acc State :=
  State.writeEach (fun s n a b => (List.range (ceilDiv b.length 512)).foldl (fun s i =>
      let real := if n ≥ 2 ^ 16 then n - 2 ^ 16 else n
      let d := (b.drop (512 * i)).take 512
      s.request 0x03 j q 0 n (2 ^ 48 * real + a + 512 * i) d.length 0 d) s) .unit j (bs.length / 65536 + 2) addr bs s

/-! ### The Ryeve link (R350 to R356) -/

/-- Receive buffers of 256 bytes that a payload takes (R350; DEDUCED, log 15). -/
def ryUnits (payload : List Byte) : Nat := max 1 (ceilDiv payload.length 256)

/-- The credits left on a virtual channel. -/
def State.ryCredit (s : State) (vc : Nat) : Nat := s.sess.credits.getD vc 0

/-- The state with the session's record changed. -/
def State.modSess (s : State) (f : Sess → Sess) : State := { s with sess := f s.sess }

/-- The first waiting frame of the highest channel: VC2 before VC1 before VC0 (R356). -/
def nextRyeve (l : List RyeveOut) : Option RyeveOut :=
  match l.find? (·.vc == 2) with
  | some f => some f
  | none => match l.find? (·.vc == 1) with
    | some f => some f
    | none => l.head?

/-- Sends waiting frames while the link is UP, the replay buffer has a place and the channel a credit (R355). -/
def State.ryDrain (s : State) : Nat → State
  | 0 => s
  | fuel + 1 =>
    match nextRyeve s.sess.waitTx with
    | none => s
    | some f =>
      if s.reg K.ryeveLinkState ≠ 2 ∨ s.sess.replay.length ≥ 256 ∨ s.ryCredit f.vc < ryUnits f.payload then s
      else
        (s.modSess fun e => { e with
          waitTx := e.waitTx.erase f
          replay := e.replay ++ [{ f with seq := e.txSeq }]
          txSeq := (e.txSeq + 1) % 65536
          credits := e.credits.modify f.vc fun c => c - ryUnits f.payload }).ryDrain fuel

/-- Sends a data frame on the Ryeve link. -/
def State.rySend (s : State) (vc op status job tag : Nat) (payload : List Byte) : State :=
  let f : RyeveOut := { seq := 0, vc := vc, op := op, status := status, job := job, tag := tag,
                        session := s.reg K.sessionNumber, payload := payload }
  (s.modSess fun e => { e with waitTx := e.waitTx ++ [f] }).ryDrain 1

end Sys2Proof.Machine
end

