-- ==== Sys2Proof/Machine/Rings.lean ====
section
/-! DEFINITION. What the module writes for the control node: events (R369, R371), completion entries (R367, R368),
NOTIFYs (R370), the writes that fail (R516), and the parking of a job (R364). -/

namespace Sys2Proof.Machine

/-- Session states (R357). -/
abbrev ssNone : Nat := 0
/-- OPEN. -/
abbrev ssOpen : Nat := 1
/-- SILENT. -/
abbrev ssSilent : Nat := 2
/-- RELEASING. -/
abbrev ssReleasing : Nat := 3

/-- Phase bit of entry `n` of a ring: 1 on the first pass, flipped at every wrap (R367). -/
def ringPhase (n entries : Nat) : Nat := if entries = 0 then 1 else 1 - n / entries % 2

/-- A 64-byte event entry (R369). -/
def eventEntry (code phase job seq tick : Nat) (payload : List Byte) : List Byte :=
  leBytes 2 code ++ leBytes 1 (128 * phase) ++ leBytes 1 job ++ leBytes 4 seq ++ leBytes 8 tick ++ padTo 48 payload

/-! ### NOTIFY (R370) -/

/-- Sends the NOTIFY of a job's ring (1 completion, 2 event), or defers it to the end of the ring's interval. -/
def State.notifyJob (s : State) (j ring : Nat) : State :=
  let c := s.job j
  if c.notifyWait.contains ring then
    s.modJob j fun c => { c with notifyDue := if c.notifyDue.contains ring then c.notifyDue else c.notifyDue ++ [ring] }
  else
    let idx := s.reg (if ring = 1 then K.cqProduced j else K.eqProduced j)
    let s := s.modJob j fun c => { c with notifyWait := c.notifyWait ++ [ring] }
    s.rySend 2 0x21 0 0xFF 0 (padTo 16 (leBytes 1 j ++ leBytes 1 ring ++ leBytes 2 0 ++ leBytes 4 idx))

/-- Sends the NOTIFY of the session event ring, or defers it. -/
def State.notifySession (s : State) : State :=
  if s.sess.notifyWait then s.modSess fun e => { e with notifyDue := true }
  else
    let s := s.modSess fun e => { e with notifyWait := true }
    s.rySend 2 0x21 0 0xFF 0 (padTo 16 (leBytes 1 0xFF ++ leBytes 1 2 ++ leBytes 2 0 ++ leBytes 4 s.sess.produced))

/-! ### The session event ring (R354, R369) -/

/-- Whether the session event ring exists: from an accepted open to the session's end. -/
def State.sessRing (s : State) : Bool := s.reg K.sessionState != ssNone && s.sess.ringEntries != 0

/-- Free places of the session event ring. -/
def State.sessRoom (s : State) : Nat := s.sess.ringEntries - sub32 s.sess.produced s.sess.consumed

/-- Writes one entry into the session event ring. -/
def State.putSession (s : State) (code job : Nat) (payload : List Byte) : State :=
  let e := s.sess
  let bs := eventEntry code (ringPhase e.produced e.ringEntries) job e.produced s.tick payload
  let s := s.modMem fun m => { m with window := writeRun m.window (e.ringBase + 64 * (e.produced % e.ringEntries)) bs }
  (s.modSess fun e => { e with produced := (e.produced + 1) % 2 ^ 32 }).notifySession

/-- Writes an owed EVENTS_LOST entry when there is space (R369). -/
def State.owedSession (s : State) : State :=
  if s.sess.lostSince ≠ 0 ∧ s.sessRing ∧ s.sessRoom ≠ 0 then
    (s.putSession 0x09 0xFF (leBytes 8 s.sess.lostSince)).modSess fun e => { e with lostSince := 0 }
  else s

/-- A module event: to the session event ring, or dropped and counted (R369). -/
def State.postSession (s : State) (code job : Nat) (payload : List Byte) : State :=
  let s := s.owedSession
  if s.sessRing ∧ s.sessRoom ≠ 0 then s.putSession code job payload
  else (s.bump K.sessionEventsLost 1).modSess fun e => { e with lostSince := e.lostSince + 1 }

/-! ### Writes of a job's rings (R366, R516) -/

/-- Writes a 64-byte entry into a job's ring. It fails where the page is no longer mapped with write right, its
sector is poisoned, or its line lies in a live code region (R516). A write that meets a page move proceeds with the
page (R297) and is counted. -/
def State.ringWrite (s : State) (j base entries idx : Nat) (bs : List Byte) : Except Nat State :=
  let addr := base + 64 * (idx % entries)
  match (s.identOf j addr).bind fun a => s.poisonIn a 64 with
  | some _ => .error 0x30
  | none =>
    let moving := s.isMe (addr / 2 ^ 48) && (s.leafOf j (addr % 2 ^ 48)).any (·.migrating)
    let s := if moving then s.bump (K.migrationWriteWaits j) 1 else s
    match s.writeAs .core j addr bs with
    | .ok t => .ok t
    | .fail r _ => .error r
    | .far n a _ => .ok ((s.didWriteFar j addr 64).putFar j n a bs)
    | .wait => .error 0x20

/-- Parks a RUNNING job with a cause, and tells it (R364, R371). `tell` posts to the job's event ring. -/
def State.parkWith (tell : State → Nat → Nat → List Byte → State) (s : State) (j cause : Nat) : State :=
  if s.reg (K.jobState j) = jsRunning then
    tell (s.setReg (K.jobState j) jsParked) j 0x07 (leBytes 1 cause)
  else s

/-- Writes one event entry into a job's ring; a failed write is lost and counted, and RING_WRITE_FAILED is posted
(R516). The answer tells whether the write failed. -/
def State.putJob (s : State) (j code : Nat) (payload : List Byte) : State × Bool :=
  let n := s.reg (K.eqProduced j)
  let entries := s.reg (K.eqEntries j)
  let bs := eventEntry code (ringPhase n entries) j n s.tick payload
  let done (s : State) : State := s.setReg (K.eqProduced j) ((n + 1) % 2 ^ 32)
  match s.ringWrite j (s.reg (K.eqBase j)) entries n bs with
  | .ok s => ((done s).notifyJob j 2, false)
  | .error r =>
    let s := ((done s).bump (K.eventsLost j) 1).modJob j fun c => { c with lostSince := c.lostSince + 1 }
    (s.postSession 0x0A 0xFF (leBytes 1 j ++ leBytes 1 2 ++ leBytes 2 0 ++ leBytes 4 n ++ leBytes 1 r), true)

/-- Free places of a job's event ring. -/
def State.jobRoom (s : State) (j : Nat) : Nat :=
  s.reg (K.eqEntries j) - sub32 (s.reg (K.eqProduced j)) (s.job j).eqConsumed

/-- Whether a job's event ring is written: not before START (R369). -/
def State.jobRing (s : State) (j : Nat) : Bool :=
  (s.reg (K.jobState j) == jsRunning || s.reg (K.jobState j) == jsParked || s.reg (K.jobState j) == jsReleasing) &&
    s.reg (K.eqEntries j) != 0

/-- Writes an owed EVENTS_LOST entry of a job when there is space (R369). -/
def State.owedJob (s : State) (j : Nat) : State :=
  if (s.job j).lostSince ≠ 0 ∧ s.jobRing j ∧ s.jobRoom j ≠ 0 then
    let n := (s.job j).lostSince
    let s := s.modJob j fun c => { c with lostSince := 0 }
    (s.putJob j 0x09 (leBytes 8 n)).1
  else s

/-- A job event without the parking of R516. -/
def State.postJobRaw (s : State) (j code : Nat) (payload : List Byte) : State × Bool :=
  let s := s.owedJob j
  if s.jobRing j ∧ s.jobRoom j ≠ 0 then s.putJob j code payload
  else if s.isResident j then
    ((s.bump (K.eventsLost j) 1).modJob j fun c => { c with lostSince := c.lostSince + 1 }, false)
  else (s, false)

/-- A job event (R369). A failed write parks a RUNNING job with cause 0x05 (R516). -/
def State.postJob (s : State) (j code : Nat) (payload : List Byte) : State :=
  let r := s.postJobRaw j code payload
  if r.2 then State.parkWith (fun s j c p => (s.postJobRaw j c p).1) r.1 j 0x05 else r.1

/-- An event to both rings (R371, R435). -/
def State.postBoth (s : State) (j code : Nat) (payload : List Byte) : State :=
  (s.postJob j code payload).postSession code j payload

/-- Parks a RUNNING job with a cause. -/
def State.park (s : State) (j cause : Nat) : State := State.parkWith State.postJob s j cause

/-! ### Completion entries (R367, R368) -/

/-- Completion states (R367, R417). -/
abbrev ccComplete : Nat := 0
/-- NOT_STARTED. -/
abbrev ccNotStarted : Nat := 1
/-- PARTIAL. -/
abbrev ccPartial : Nat := 2

/-- The fields of a halt record (R100). -/
def haltRecord (addr reason cls : Nat) (resumable begun : Bool) (phys logical job opcode idx detail seq progress : Nat) : List Byte :=
  leBytes 8 addr ++ leBytes 1 reason ++
  leBytes 1 (cls + (if resumable then 16 else 0) + (if begun then 32 else 0)) ++
  leBytes 1 phys ++ leBytes 1 logical ++ leBytes 1 job ++ leBytes 1 opcode ++ leBytes 2 idx ++
  leBytes 8 detail ++ leBytes 4 seq ++ leBytes 4 progress

/-- A completion entry with its phase bit clear (R367). -/
def completionEntry (tag seq state : Nat) (ovf nf : Bool) (cls logical : Nat) (rec : List Byte) (tick ringIdx : Nat) : List Byte :=
  leBytes 8 tag ++ leBytes 4 seq ++ leBytes 1 state ++ leBytes 1 ((if ovf then 1 else 0) + (if nf then 2 else 0)) ++
  leBytes 1 cls ++ leBytes 1 logical ++ padTo 32 rec ++ leBytes 8 tick ++ leBytes 4 ringIdx ++ zeros 4

/-- Writes a completion entry into its reserved slot; a lost entry still releases the slot (R368, R516). -/
def State.putCompletion (s : State) (j : Nat) (entry : List Byte) (notify : Bool) : State :=
  let n := s.reg (K.cqProduced j)
  let entries := s.reg (K.cqEntries j)
  let bs := putBytes entry 12 (leBytes 1 (nb entry 12 1 % 128 + 128 * ringPhase n entries))
  let done (s : State) : State :=
    (s.setReg (K.cqProduced j) ((n + 1) % 2 ^ 32)).modJob j fun c => { c with cqReserved := c.cqReserved - 1 }
  if entries = 0 then done s
  else match s.ringWrite j (s.reg (K.cqBase j)) entries n bs with
    | .ok s => if notify then (done s).notifyJob j 1 else done s
    | .error r =>
      let s := (done s).postSession 0x0A 0xFF (leBytes 1 j ++ leBytes 1 1 ++ leBytes 2 0 ++ leBytes 4 n ++ leBytes 1 r)
      s.park j 0x05

/-- The scheduling core of a job wakes for what concerns the job (R22). -/
def State.wakeCore (s : State) (j : Nat) : State := if s.svc.coreDown.contains (j % 2) then s else s.wake (.core (j % 2))

/-- Completes a clause for the control node: at once, or, while the scheduling core of the job is down, into the
scheduler journal for the restarted core to write (R381). -/
def State.completeEntry (s : State) (j : Nat) (entry : List Byte) (notify : Bool) : State :=
  let s := s.wakeCore j
  if s.svc.coreDown.contains (j % 2) then
    { s with svc := { s.svc with deferred := s.svc.deferred ++ [(j, notify, putBytes entry 13 (leBytes 1 (nb entry 13 1 ||| 4)))] } }
  else s.putCompletion j entry notify

end Sys2Proof.Machine
end

