-- ==== Sys2Proof/Machine/Halts.lean ====
section
/-! DEFINITION. The end of work: the release of a step's stash, blocks and tags (R236, R241), sample records (R467),
the completion and the halt of a command (R97 to R101), the handler queue and the journal (R419, R421, R426), and the
end of clauses (R98, R99, R417). -/

namespace Sys2Proof.Machine

/-! ### Stash pages and reduction blocks of a step -/

/-- What holds a leaf's page is given back: its container or its lent frame. -/
def State.freePlace (s : State) (l : Leaf) : State :=
  if l.allocated = false ∨ l.src.isSome then s
  else match l.tier with
    | 0 => s
    | 1 => s.freeContainerId l.frame
    | _ => s.freeLentFrame l.node l.frame

/-- The use entry of a stage in a tier (R237). -/
def stageUsed (tier j stage : Nat) : Nat := if tier = 0 then K.stageUsedT0 j stage else K.stageUsedT1 j stage
/-- The quota entry of a stage in a tier. -/
def stageQuota (tier j stage : Nat) : Nat := if tier = 0 then K.stageQuotaT0 j stage else K.stageQuotaT1 j stage
/-- The stash use entry of a job in a tier (R311). -/
def stashUsed (tier j : Nat) : Nat := if tier = 0 then K.t0StashUsed j else K.t1StashUsed j
/-- The stash quota entry of a job in a tier. -/
def stashQuota (tier j : Nat) : Nat := if tier = 0 then K.t0StashQuota j else K.t1StashQuota j

/-- One stash page freed: its bytes leave the stage's use in its tier (R241). -/
def State.freeStashPage (s : State) (l : Leaf) (stage : Nat) : State :=
  let s := (s.freePlace l).dropWalks l.job l.va
  let s := s.modMem fun m => { m with leaves := m.leaves.filter fun x => !(x.job == l.job && x.va == l.va) }
  (s.release (stageUsed l.tier l.job stage) 65536).release (stashUsed l.tier l.job) 65536

/-- Every stash page of a step freed, and its granted quota returned (R241, R242). -/
def State.freeStash (s : State) (j n : Nat) : State :=
  let mine := s.mem.leaves.filter fun l => l.job == j && (l.stash.map (·.1)) == some n
  let s := mine.foldl (fun s l => s.freeStashPage l ((l.stash.map (·.2)).getD 0)) s
  match s.stepOf j n with
  | none => s
  | some t =>
    let s := t.granted.foldl (fun s g =>
      (s.release (stashQuota g.1 j) (g.2.2 * 65536)).release (stageQuota g.1 j g.2.1) (g.2.2 * 65536)) s
    s.modStep j n fun t => { t with granted := [] }

/-- Where 4 KiB block `b` of a job's reduction window rests (R244): an on-die byte, or an address in HBM. -/
def State.windowBlock (s : State) (j b : Nat) : Nat ⊕ Nat :=
  let o := 4096 * b
  let len := s.reg (K.rbLen j)
  if o < len then .inl (s.reg (K.rbBase j) + o) else .inr (s.reg (K.extBase j) + (o - len))

/-- A block of a job's window zeroed; it is CLEAN (R244). -/
def State.zeroBlock (s : State) (j b : Nat) : State :=
  let s := s.modMem fun m => { m with rbDirty := m.rbDirty.filter fun d => !(d.1 == j && d.2.1 == b) }
  match s.windowBlock j b with
  | .inl a => s.modMem fun m => { m with rb := clearRun m.rb a 4096 }
  | .inr addr =>
    match (if s.isMe (addr / 2 ^ 48) then s.identOf j addr else some 0) with
    | none => s
    | some _ => match s.writeAs .core j addr (zeros 4096) with
      | .ok t => t
      | .far n a _ => (s.putFar j n a (zeros 4096)).didWriteFar j addr 4096
      | _ => s

/-- Every block that a step's epoch made DIRTY zeroed (R236, R244). -/
def State.zeroBlocks (s : State) (j epoch : Nat) : State :=
  (s.mem.rbDirty.filter fun d => d.1 == j && d.2.2 == epoch).foldl (fun s d => s.zeroBlock j d.2.1) s

/-- Combining entries and partials of a job on one EE, of one epoch or of all, discarded: partials whose add has been made are
only forgotten (R154). -/
def State.discardOn (s : State) (k j : Nat) (epoch : Option Nat) : State :=
  let hit (jj e : Nat) : Bool := jj == j && (match epoch with | some x => e == x % 2 ^ 32 | none => true)
  match s.ees[k]? with
  | none => s
  | some x =>
    let n := (x.comb.filter fun c => hit c.job c.epoch).length +
      (x.partials.filter fun p => hit p.job p.epoch && !p.landed).length
    if n = 0 ∧ x.partials.all (fun p => !hit p.job p.epoch) then s
    else
      let gone := (x.partials.filter fun p => hit p.job p.epoch).map (·.id)
      let s := s.modFab fun F => { F with reqs := F.reqs.filter fun r =>
        !(r.what == 0x0B && r.owner == ⟨.embed, k⟩ && gone.contains r.xid && !r.sent) }
      (s.modEe k fun e => { e with comb := e.comb.filter fun c => !hit c.job c.epoch
                                   partials := e.partials.filter fun p => !hit p.job p.epoch }).bump (K.combDiscarded k) n

/-- Combining entries and partials of a job on every EE discarded (R154). -/
def State.discardComb (s : State) (j : Nat) (epoch : Option Nat) : State :=
  (List.range 16).foldl (fun s k => s.discardOn k j epoch) s

/-- The pins of an epoch's keyed adds end (R167, R172). -/
def State.endPins (s : State) (j epoch : Nat) : State :=
  s.modMem fun m => { m with pins := m.pins.filter fun p => !(p.job == j && p.epoch == epoch % 2 ^ 32) }

/-- A step reaches CLOSED: tables whose gradients no COMMIT read are counted as dropped, its remaining blocks are
zeroed, pins of its epoch end, and combining entries of its epoch are gone (R236, R244, R152). -/
def State.closeStep (s : State) (j n : Nat) : State :=
  match s.stepOf j n with
  | none => s
  | some t =>
    let s := (s.freeStash j n).zeroBlocks j t.epoch
    let mine (x : Nat × Nat × Nat) : Bool := x.1 == j && x.2.2 == t.epoch % 2 ^ 32
    let s := s.bump (K.uncommittedDrops j) ((s.mem.touched.filter fun x => mine x && !t.committed.contains x.2.1).length)
    let s := s.modMem fun m => { m with touched := m.touched.filter fun x => !mine x }
    let s := s.endPins j t.epoch
    let s := s.discardComb j (some t.epoch)
    { s with steps := s.steps.filter fun x => !(x.job == j && x.number == n) }

/-! ### Sample records (R466, R467, R469) -/

/-- A unit's stamp of a stage: its time is not modelled, so it is a free value (log 16). -/
def State.stamp (s : State) (i : Nat) (reached : Bool) : List Byte :=
  if reached then leBytes 4 (s.freeVal (1000 + i) % 2 ^ 32) else leBytes 4 0xFFFFFFFF

/-- Writes one sample record into the sample ring, or counts it dropped (R469). -/
def State.putSample (s : State) (bs : List Byte) : State :=
  let p := s.reg K.smpProduced
  if (p + 2 ^ 64 - s.reg K.smpConsumed) % 2 ^ 64 = 4096 then s.bump K.smpDropped 1
  else
    (s.modMem fun m => { m with window := writeRun m.window (0x800000 + 64 * (p % 4096)) bs }).bump K.smpProduced 1

/-- The record of a tagged command that completes or halts (R467, R468). `start` is the unit's state and the tick at
issue; stages that do not apply read 0xFFFF_FFFF. -/
def State.sampleRecord (s : State) (q : QueueId) (c : QCmd) (cl : Clause) (start tick reason progress : Nat) : State :=
  let swap := q.cls != .array || (cb c.word 0 1 == 0x21 && bit (cb c.word 18 1) 0)
  let bs := leBytes 8 c.addr ++ leBytes 1 (cb c.word 0 1) ++
    leBytes 1 (clsCode q.cls + (if start ≠ 0 then 16 else 0) + (if reason ≠ 0 then 32 else 0)) ++
    leBytes 1 q.unit ++ leBytes 1 cl.job ++ leBytes 4 c.seq ++ leBytes 8 tick ++
    s.stamp 0 true ++ s.stamp 1 true ++ s.stamp 2 true ++ s.stamp 3 swap ++ s.stamp 4 (q.cls != .vector) ++
    s.stamp 5 true ++ s.stamp 6 (reason == 0) ++
    leBytes 2 c.idx ++ leBytes 1 start ++ leBytes 1 reason ++ leBytes 4 progress ++ zeros 4
  s.putSample bs

/-- One step of the 32-bit LFSR with the polynomial of R48; which of the usual forms is the vendor's. -/
def lfsrStep (v : Nat) : Nat :=
  match Config.lfsrForm % 4 with
  | 0 => v / 2 + (bits v 0 1 + bits v 10 1 + bits v 30 1 + bits v 31 1) % 2 * 2 ^ 31
  | 1 => 2 * v % 2 ^ 32 + (bits v 0 1 + bits v 1 1 + bits v 21 1 + bits v 31 1) % 2
  | 2 => if v % 2 = 1 then v / 2 ^^^ 0x80200003 else v / 2
  | _ => if bits v 31 1 = 1 then 2 * v % 2 ^ 32 ^^^ 0x00400007 else 2 * v % 2 ^ 32

/-- The LFSR advanced 16 steps. -/
def lfsr16 (v : Nat) : Nat := Nat.repeat lfsrStep 16 v

/-- An issue of a command: the queue's LFSR advances 16 steps and may tag the command (R466). -/
def State.sampleIssue (s : State) (q : QueueId) (c : QCmd) (cl : Clause) (start : Nat) : State :=
  match s.queue q with
  | none => s
  | some Q =>
    let v := lfsr16 Q.sampler
    let k := s.reg K.smpSampleK
    let j := s.reg K.smpSampleJob
    let tag := k != 0 && bits v 0 k == 0 && bit (s.reg K.smpSampleClasses) (clsCode q.cls) &&
      (j == 0xFF || j == cl.job) && cb c.word 0 1 / 16 != 0
    s.modQueue q fun Q => { Q with sampler := v, tagged := if tag then some (start, s.tick) else none }

/-! ### The journal, the handler queue and Degraded (R419 to R427) -/

/-- Writes one journal record; the standby domain mirrors the newest 64 (R426, R427). -/
def State.journal (s : State) (seq kind cls unit reason action detail occ job : Nat) : State :=
  let r : JRec := { seq := seq, tick := s.tick, kind := kind, cls := cls, unit := unit, reason := reason,
                    action := action, detail := detail, occ := occ, job := job }
  let s := { s with svc := { s.svc with journal := (r :: s.svc.journal).take 65536
                                        mirror := (r :: s.svc.mirror).take 64 } }
  s.setReg K.journalHead seq

/-- The next handler sequence number, taken (R419, R426). -/
def State.takeSeq (s : State) : Nat × State :=
  let n := s.reg K.nextSeq
  (n, s.setReg K.nextSeq ((n + 1) % 2 ^ 32))

/-- A journal record of a service step or a change of module state, under its own number (R426). -/
def State.journalOwn (s : State) (kind cls unit reason action detail job : Nat) : State :=
  let r := s.takeSeq
  r.2.journal r.1 kind cls unit reason action detail 1 job

/-- Enters DEGRADED: every job is parked, JOB_PARKED with cause 0x03 goes to each job's ring and MODULE_DEGRADED to
the session ring (R423). -/
def State.degrade (s : State) (cause : Nat) : State :=
  if s.reg K.moduleState ≠ 0 then s
  else
    let s := s.setReg K.moduleState 1
    let s := s.residents.foldl (fun s j => s.park j 0x03) s
    let s := s.postSession 0x64 0xFF (leBytes 1 cause)
    s.journalOwn 0x07 0x0B 0 0 0x07 cause 0xFF

/-- An entry of `occ` occurrences enters the handler queue, or is lost where 256 are held (R419, R421). -/
def State.handleOcc (s : State) (kind cls unit : Nat) (queue : Option QueueId) (job reason detail occ : Nat) : State :=
  if s.svc.queue.length ≥ 256 then
    let s := s.bump K.lostEntries 1
    let s := if s.reg K.moduleState = 0 then s.journalOwn 0x08 cls unit reason 0x07 (s.reg K.lostEntries) job else s
    (s.postSession 0x66 0xFF (leBytes 8 (s.reg K.lostEntries))).degrade 0x01
  else
    let r := s.takeSeq
    let e : Handler := { seq := r.1, kind := kind, cls := cls, unit := unit, queue := queue, job := job,
                         reason := reason, detail := detail, occ := occ }
    let s := { r.2 with svc := { r.2.svc with queue := r.2.svc.queue ++ [e] } }
    s.wake (.core 2)

/-- An entry of one occurrence. -/
def State.handle (s : State) (kind cls unit : Nat) (queue : Option QueueId) (job reason detail : Nat) : State :=
  s.handleOcc kind cls unit queue job reason detail 1

/-- A detected fault is counted (R436). -/
def State.detected (s : State) : State := s.bump K.detectedTotal 1

/-- The unit class code of an engine's unit (R428, R426). -/
def queueClass (q : QueueId) : Nat :=
  match q.cls with
  | .array | .vector | .move => 1
  | .embed => 2
  | .update => 3
  | _ => 0x0B

/-- A correction on the die: counted, and queued at most once per second for a structure of a unit; the next entry of the structure tells
those in between (R419, R426; which entry tells them is DEDUCED, log 70). -/
def State.corrected (s : State) (cls unit structure_ : Nat) : State :=
  let s := s.bump K.correctedTotal 1
  let same (e : Nat × Nat × Nat × Nat × Nat) : Bool := e.1 == cls && e.2.1 == unit && e.2.2.1 == structure_
  let seen (s : State) (tick more : Nat) : State :=
    { s with svc := { s.svc with lastSeen := (cls, unit, structure_, tick, more) :: s.svc.lastSeen.filter fun x => !same x } }
  let s := { s with svc := { s.svc with corrected := (cls, unit, structure_, s.tick) :: s.svc.corrected } }
  match s.svc.lastSeen.find? same with
  | some e =>
    if s.tick - e.2.2.2.1 < 25000000 then seen s e.2.2.2.1 (e.2.2.2.2 + 1)
    else (seen s s.tick 0).handleOcc 0x02 cls unit none 0xFF 0 structure_ (1 + e.2.2.2.2)
  | none => (seen s s.tick 0).handle 0x02 cls unit none 0xFF 0 structure_

/-- `n` errors of a unit of memory that the code corrected and wrote back: counted for the stack or the package (R303, R306, R463). -/
def State.correctedAt (s : State) (a n : Nat) (job : Option Nat) : State :=
  if n = 0 then s
  else if a < t1Base then
    let f := a / 65536
    ((s.bump (K.hbmCorrected (frameStack f)) n).count (0x40 + frameStack f) 0x13 n job).corrected 4
      (32 * frameStack f + 2 * frameChannel f + a / 256 % 2) 0
  else match s.mem.containers.find? fun c => c.id == (a - t1Base) / 65536 with
    | some c => (s.bump K.t1Corrected n).corrected 6 (c.package ((a - t1Base) % 65536 / 128)) 0
    | none => s

/-- A unit of memory is marked poisoned: POISON is posted, to the jobs that map it too (R305). -/
def State.becomePoisoned (s : State) (a : Nat) : State :=
  if (s.poisonIn (a / eccUnit a * eccUnit a) 1).isSome then s
  else
    let s := s.markPoison a
    let jobs := (s.mem.leaves.filter fun l => match s.home l l.va with
      | some (h, o) => (match leafPlace h o with | .phys p => p ≤ a && a < p + leafSpan l | _ => false)
      | none => false).map (·.job)
    let pl := leBytes 8 a ++ leBytes 1 (if a < t1Base then 0 else 1)
    let s := jobs.eraseDups.foldl (fun s j => s.postJob j 0x22 pl) s
    s.postSession 0x22 (jobs.foldl min 0xFF) pl

/-- An uncorrectable unit of memory that an access or a scrub meets becomes poisoned, and is counted and handled (R305, R412). -/
def State.poison (s : State) (a : Nat) : State :=
  if (s.poisonIn (a / eccUnit a * eccUnit a) 1).isSome then s
  else
    let s := s.becomePoisoned a
    let tier := if a < t1Base then 0 else 1
    let s := if tier = 0 then s.bump (K.hbmUncorrectable (frameStack (a / 65536))) 1 else s.bump K.t1Uncorrectable 1
    let cls := if tier = 0 then 4 else 6
    let chunk := match s.mem.containers.find? (fun c => c.id == (a - t1Base) / 65536) with
      | some c => c.package ((a - t1Base) % 65536 / 128)
      | none => 0
    let f := a / 65536
    let unit := if tier = 0 then 32 * frameStack f + 2 * frameChannel f + a / 256 % 2 else chunk
    (s.detected).handle 0x03 cls unit none 0xFF 0x30 a

/-! ### Clauses: the flags they feed, their completion and their end -/

/-- A clause's OVERFLOW and NONFINITE feed its step's flag word at its end, unless the step's AGREE was admitted
before the clause (R235, R247). -/
def State.feedFlags (s : State) (cl : Clause) : State :=
  match cl.step with
  | none => s
  | some n => s.modStep cl.job n fun t =>
    if t.agreeSeq.any (· < cl.seq) then t
    else { t with overflow := t.overflow || (cl.overflow && bit t.ovfClasses (clsCode cl.cls))
                  nonfinite := t.nonfinite || (cl.nonfinite && bit t.nfClasses (clsCode cl.cls)) }

/-- The record of a command that ran without halt (R417): reason 0x00 or one that R417 names, cmd_index of the last. -/
def completeRecord (cl : Clause) (reason opcode detail : Nat) : List Byte :=
  haltRecord (cl.base + 32 * (cl.count - 1)) reason (clsCode cl.cls) false false
    cl.unit cl.logical cl.job opcode (cl.count - 1) detail cl.seq cl.rows

/-- A clause leaves the module with a completion state and a halt record; its declarations end (R89, R367). -/
def State.finishClause (s : State) (cl : Clause) (state : Nat) (hr : List Byte) : State :=
  let s := s.feedFlags cl
  let s := { s with clauses := s.clauses.filter fun c => c.seq != cl.seq }
  s.completeEntry cl.job
    (completionEntry cl.tag cl.seq state cl.overflow cl.nonfinite (clsCode cl.cls) cl.logical hr s.tick cl.ringIdx) cl.notify

/-- The 32-byte command at position `i` of a clause, read from its code region, or why it cannot be read. -/
def State.readCmd (s : State) (cl : Clause) (i : Nat) : Acc QCmd :=
  let addr := cl.base + 32 * i
  match s.readVa cl.job addr 32 with
  | .ok bs => .ok { seq := cl.seq, idx := i, addr := addr, word := leNat bs, bad := none, prog := 0, pos := 0, again := false }
  | .fail r d => .ok { seq := cl.seq, idx := i, addr := addr, word := 0, bad := some (r, d), prog := 0, pos := 0, again := false }
  | .far n a l => .far n a l
  | .wait => .wait

/-- Commands that a queue holds, those set aside with a held job among them (R66, R98). -/
def Queue.size (Q : Queue) : Nat := Q.cmds.length + (Q.held.map (·.cmds.length)).sum

/-- The line that a phrase's command cache holds of a physical address; the other queues have no cache (R96). -/
def State.cachedLine (s : State) (q : QueueId) (id : Nat) : Option (List Byte) :=
  if clsOfPhrase q.cls then ((s.phrases[q.unit]?).bind fun p => p.cache.find? (·.1 == id)).map (·.2) else none

/-- A line used by a phrase's queue comes first in its command cache of 256 lines; the least recently used one leaves (R96; which one
leaves is a DESIGN CHOICE, log 81). -/
def State.keepLine (s : State) (q : QueueId) (id : Nat) (bs : List Byte) : State :=
  if clsOfPhrase q.cls then
    { s with phrases := s.phrases.modify q.unit fun p => { p with cache := ((id, bs) :: p.cache.filter (·.1 != id)).take 256 } }
  else s

/-- Lines of the run of `n` bytes from a physical address leave every command cache. -/
def State.dropLines (s : State) (a n : Nat) : State :=
  { s with phrases := s.phrases.map fun p => { p with cache := p.cache.filter fun l => !(a ≤ l.1 && l.1 < a + n) } }

/-- A 256-byte line of a clause's code: from the command cache, or fetched from memory (R96). A line of another module is tagged by its
global address. -/
def State.codeLine (s : State) (q : QueueId) (cl : Clause) (la : Nat) : Acc (List Byte × State) :=
  let id := if s.isMe (la / 2 ^ 48) then s.identOf cl.job la else some (2 ^ 68 + la)
  match id.bind fun i => s.cachedLine q i with
  | some bs => .ok (bs, match id with | some i => s.keepLine q i bs | none => s)
  | none => accBind (s.readVa cl.job la 256) fun bs =>
      let t := s.didRead cl.job la 256
      .ok (bs, match id with | some i => t.keepLine q i bs | none => t)

/-- Fetches commands into a queue, line by line, while it holds fewer than 512 (R66, R69, R96); a line that rests elsewhere is
awaited. Of a line that cannot be read whole each command is read by itself. -/
def State.refill (s : State) (q : QueueId) : Nat → State
  | 0 => s
  | fuel + 1 =>
    match s.queue q with
    | none => s
    | some Q =>
      if Q.size ≥ 512 then s
      else match Q.unread with
        | [] => s
        | (seq, i) :: rest =>
          match s.clause seq with
          | none => (s.modQueue q fun Q => { Q with unread := rest }).refill q fuel
          | some cl =>
            if i ≥ cl.count then (s.modQueue q fun Q => { Q with unread := rest }).refill q fuel
            else
              let addr := cl.base + 32 * i
              let la := addr / 256 * 256
              let push (s : State) (c : QCmd) : State :=
                s.modQueue q fun Q => { Q with cmds := Q.cmds ++ [c], unread := (seq, i + 1) :: rest }
              match Q.line.bind fun x => if x.1 = seq ∧ x.2.1 = la then some x.2.2 else none with
              | some bs =>
                (push s { seq := seq, idx := i, addr := addr, word := nb bs (addr - la) 32, bad := none, prog := 0, pos := 0,
                          again := false }).refill q fuel
              | none => match s.codeLine q cl la with
                | .ok (bs, t) => (t.modQueue q fun Q => { Q with line := some (seq, la, bs) }).refill q fuel
                | .far n a l => s.fetchFar cl.job n a l
                | .wait => s
                | .fail _ _ => match s.readCmd cl i with
                  | .ok c => (push (s.didRead cl.job addr 32) c).refill q fuel
                  | .far n a l => s.fetchFar cl.job n a l
                  | _ => s

/-- Fills a queue. -/
def State.fill (s : State) (q : QueueId) : State := s.refill q 2200

/-- Whether a queue still holds commands of a clause. -/
def Queue.holds (Q : Queue) (seq : Nat) : Bool :=
  Q.cmds.any (·.seq == seq) || Q.unread.any (·.1 == seq) ||
    Q.held.any fun h => h.cmds.any (·.seq == seq) || h.unread.any (·.1 == seq)

/-- Whether a command that completes wrote something (R417): any but NOP, CLAUSE_OPEN, CLAUSE_DECL, FENCE and DEBUG_BREAK. -/
def writes (op : Nat) : Bool := op > 0x03 && op != 0xF0

/-- The command at the head of a queue has completed: it leaves; the last one of its clause completes the clause on
the unit, and the clause completes when its last unit has (R67, R417). -/
def State.completeCmd (s : State) (q : QueueId) (rec : Option (Nat × Nat)) : State :=
  match s.queue q with
  | none => s
  | some Q =>
    match Q.cmds with
    | [] => s
    | c :: rest =>
      match s.clause c.seq with
      | none => s.modQueue q fun Q => { Q with cmds := rest, infl := none, tagged := none }
      | some cl =>
        let s := match Q.tagged with
          | some (st, t) => s.sampleRecord q c cl st t 0 0
          | none => s
        let s := s.modQueue q fun Q => { Q with cmds := rest, infl := none, tagged := none,
                                                unread := Q.unread.filter fun u => u.1 != cl.seq || u.2 < cl.count }
        let s := s.count (queueCounter q) 0x06 1 (some cl.job)
        let s := s.modClause c.seq fun x => { x with
          next := max x.next (c.idx + 1)
          wrote := x.wrote || writes (cb c.word 0 1)
          begun := false
          noted := match rec with | some (r, d) => some (completeRecord x r (cb c.word 0 1) d) | none => x.noted }
        let left := match s.queue q with | some Q => Q.holds c.seq | none => false
        let s :=
          if left then s
          else
            let s := s.modClause c.seq fun x => { x with unitsLeft := x.unitsLeft.filter (· != q.unit) }
            match s.clause c.seq with
            | none => s
            | some x =>
              if x.unitsLeft = [] then
                s.finishClause x ccComplete (x.noted.getD (completeRecord x 0 (cb c.word 0 1) 0))
              else s
        s.forgetFar.fill q

/-- Whether a reason is resumable (R102). -/
def isResumable (reason : Nat) : Bool := reason == 0x22 || reason == 0x23 || reason == 0xF0

/-- The key of an engine's halt record (R101). -/
def haltKey (q : QueueId) : Nat :=
  match q.cls with
  | .array => K.phrHaltRecordArray q.unit | .vector => K.phrHaltRecordVector q.unit
  | .move => K.phrHaltRecordMove q.unit | .embed => K.eeHaltRecord q.unit
  | .update => K.slHaltRecord q.unit | _ => K.fqHaltRecord q.unit

/-- The key of an engine's halt count (R101). -/
def haltCountKey (q : QueueId) : Nat :=
  match q.cls with
  | .array | .vector | .move => K.phrHaltCount q.unit
  | .embed => K.eeHaltCount q.unit
  | .update => K.slHaltCount q.unit
  | _ => K.fqHaltCount q.unit

/-- The halt record of a halted command (R100). -/
def haltRec (q : QueueId) (cl : Clause) (h : Halt) : List Byte :=
  haltRecord h.cmd.addr h.reason (clsCode q.cls) h.resumable h.begun q.unit cl.logical cl.job (cb h.cmd.word 0 1)
    h.cmd.idx h.detail cl.seq h.progress

/-- The kind of a halt's journal record: a check mismatch, or a halt (R426). -/
def haltKind (reason : Nat) : Nat := if reason = 0x31 ∨ reason = 0x32 ∨ reason = 0x33 then 0x04 else 0x01

/-- The head command of a queue halts (R97): the engine stops issuing, writes its halt record and signals core 2. DESIGN CHOICE, log
84: fetches of a LOOKUP_POOL that halts stay outstanding, their sectors held, until it goes on or its clause ends (R138). -/
def State.haltCmd (s : State) (q : QueueId) (c : QCmd) (cl : Clause) (reason detail progress pos : Nat) (begun : Bool) : State :=
  let page := bits detail 64 36
  let short := bit detail 100
  let need := bits detail 101 16
  let detail := detail % 2 ^ 64
  let h : Halt := { cmd := c, job := cl.job, reason := reason, resumable := isResumable reason, begun := begun,
                    detail := detail, progress := progress, pos := pos, page := page, decided := false, need := need }
  let hr := haltRec q cl h
  let s := match s.queue q with
    | some Q => (match Q.tagged with
      | some (st, t) => s.sampleRecord q c cl st t reason progress
      | none => s)
    | none => s
  let s := s.modQueue q fun Q => { Q with halt := some h, infl := none, tagged := none }
  let s := s.toldFailure reason detail
  let s := if begun then s.modClause cl.seq fun x => { x with wrote := true } else s
  let s := (s.setReg (haltKey q) (leNat hr)).bump32 (haltCountKey q) 1
  let s := s.count (queueCounter q) 0x08 1 (some cl.job)
  let s := if reason = 0x22 then s.postJob cl.job 0x20 hr else s
  let s := if reason = 0x22 ∧ short then
      s.postSession 0x21 0xFF (leBytes 4 s.chunksFree) else s
  let s := if reason = 0x23 then s.bump (K.quotaHalts cl.job) 1 else s
  let s := if reason = 0x31 then s.bump32 (K.aryCheckMismatches q.unit) 1 else s
  let s := if reason = 0x32 then s.bump32 (K.vecCheckMismatches q.unit) 1 else s
  let s := if reason = 0x41 then s.bump K.fabUnreachableHalts 1 else s
  let s := if 0x30 ≤ reason ∧ reason ≤ 0x33 then s.detected else s
  s.handle (haltKind reason) (queueClass q) q.unit (some q) cl.job reason detail

/-- The state an EE is left in when the look-up or scatter at its head ends: trackers FREE, fetches forgotten (R136,
R154). -/
def Ee.drop (e : Ee) : Ee := { e with trackers := [], fetches := [] }

/-- Requests of a queue whose command has ended are forgotten, but for writes, adds and signals that have departed:
those are awaited, since a later SIGNAL follows them (R327, R328). -/
def State.orphan (s : State) (q : QueueId) : State :=
  s.modFab fun F => { F with reqs := F.reqs.filterMap fun r =>
    if r.owner != q || r.xid == noXfer || r.what == 0x0B then some r
    else if r.sent && (r.what == 0x03 || r.what == 0x05 || r.what == 0x06 || r.what == 0x08) then some { r with xid := noXfer }
    else none }

/-- Commands set aside return ahead of every later command, behind one that is in execution (R98). -/
def Queue.giveBack (Q : Queue) (cmds : List QCmd) (unread : List (Nat × Nat)) : Queue :=
  match Q.infl, Q.cmds with
  | some _, c :: r => { Q with cmds := c :: (cmds ++ r), unread := unread ++ Q.unread }
  | _, l => { Q with cmds := cmds ++ l, unread := unread ++ Q.unread }

/-- Removes every command of a clause from one queue; what the unit had under way for it ends with it. -/
def State.purge (s : State) (q : QueueId) (seq : Nat) : State :=
  match s.queue q with
  | none => s
  | some Q =>
    if !(Q.holds seq) && (Q.halt.map (·.cmd.seq)) != some seq then s
    else
      let head := (Q.cmds.head?.map (·.seq)) == some seq
      let s := s.modQueue q fun (Q : Queue) => { Q with
        cmds := Q.cmds.filter (·.seq != seq)
        unread := Q.unread.filter (·.1 != seq)
        infl := if head then none else Q.infl
        tagged := if head then none else Q.tagged
        line := Q.line.filter (·.1 != seq)
        halt := if (Q.halt.map (·.cmd.seq)) == some seq then none else Q.halt
        held := (Q.held.filter fun (h : HeldJob) => h.halt.cmd.seq != seq).map fun (h : HeldJob) => { h with
          cmds := h.cmds.filter (·.seq != seq), unread := h.unread.filter (·.1 != seq) } }
      let s := if head && q.cls == .embed then s.modEe q.unit Ee.drop else s
      let s := if head then s.orphan q else s
      -- commands set aside with a halt that has ended return to the queue
      let s := match s.queue q with
        | some Q' =>
          let gone : List HeldJob := Q.held.filter fun h => h.halt.cmd.seq == seq
          let back : List QCmd := gone.flatMap fun (h : HeldJob) => h.cmds
          let later : List (Nat × Nat) := gone.flatMap fun (h : HeldJob) => h.unread
          s.modQueue q fun _ => Q'.giveBack (back.filter fun (c : QCmd) => c.seq != seq) (later.filter fun (u : Nat × Nat) => u.1 != seq)
        | none => s
      s.fill q

/-- The first command of a clause that has not completed on some unit (R417). -/
def State.firstOpen (s : State) (cl : Clause) : Nat :=
  let heads := allQueues.filterMap fun q => match s.queue q with
    | none => none
    | some Q =>
      let a := (Q.cmds ++ Q.held.flatMap (·.cmds)).filter (·.seq == cl.seq) |>.map (·.idx)
      let b := (Q.unread ++ Q.held.flatMap (·.unread)).filter (·.1 == cl.seq) |>.map (·.2)
      (a ++ b).min?
  (heads.min?).getD (min cl.next (cl.count - 1))

/-- Removes a clause's commands from every queue. -/
def State.purgeAll (s : State) (seq : Nat) : State := allQueues.foldl (fun s q => s.purge q seq) s

/-- Work that a clause's command in execution had done (R417). -/
def State.underWay (s : State) (cl : Clause) : Nat :=
  (allQueues.filterMap fun q => match s.queue q with
    | some Q => (match Q.cmds, Q.infl with
      | c :: _, some f => if c.seq == cl.seq then some f.progress else none
      | _, _ => none)
    | none => none).foldl (· + ·) 0

/-- The opcode of a clause's command `i`, which a queue holds (0 where none does). -/
def State.opcodeOf (s : State) (seq i : Nat) : Nat :=
  ((allQueues.findSome? fun q => (s.queue q).bind fun Q =>
    (Q.cmds ++ Q.held.flatMap (·.cmds)).find? fun c => c.seq == seq && c.idx == i).map fun c => cb c.word 0 1).getD 0

/-- Ends a clause without a halt of its own: JOB_TERMINATED (0x50), or STEP_ABANDONED (0x51) with the originating
reason as detail (R99, R417). -/
def State.endClause (s : State) (cl : Clause) (reason detail : Nat) : State :=
  let i := s.firstOpen cl
  let done := s.underWay cl
  let op := match s.readCmd cl i with | .ok c => cb c.word 0 1 | _ => s.opcodeOf cl.seq i
  let hr := haltRecord (cl.base + 32 * i) reason (clsCode cl.cls) false (done != 0) cl.unit cl.logical cl.job op i
    detail cl.seq done
  let s := s.purgeAll cl.seq
  let s := { s with sched := s.sched.filter fun r => r.clause.seq != cl.seq }
  s.finishClause cl (if cl.wrote || done != 0 then ccPartial else ccNotStarted) hr

/-- Terminates a job: every clause ends with JOB_TERMINATED, and its open steps close as an ellipsis closes (R99). -/
def State.terminate (s : State) (j : Nat) : State :=
  let s := s.modJob j fun c => { c with terminated := true }
  let s := (s.clauses.filter (·.job == j)).foldl (fun s c =>
    match s.clause c.seq with | some c => s.endClause c 0x50 0 | none => s) s
  let s := s.discardComb j none
  (s.steps.filter (·.job == j)).foldl (fun s t => s.closeStep j t.number) s

/-- Abandons a step: its clauses end with STEP_ABANDONED, but for those that hold its AGREE, COMMIT, EXPORT and
STEP_RELEASE; its FAILED flag is set (R99, R234). -/
def State.abandon (s : State) (j n reason : Nat) : State :=
  let s := s.modStep j n fun t => { t with failed := true, state := .abandoned, why := reason }
  let s := match s.stepOf j n with | some t => s.discardComb j (some t.epoch) | none => s
  (s.clauses.filter fun c => c.job == j && c.step == some n && !c.keeps).foldl (fun s c =>
    match s.clause c.seq with | some c => s.endClause c 0x51 reason | none => s) s

/-- Whether a step's AGREE has issued (R99). -/
def agreed (t : Step) : Bool :=
  match t.state with
  | .agreeing | .committing | .ellipsis => true
  | _ => false

/-- Core 2 ends a halted clause (R98): it completes with its halt record, and the job's halt_policy decides the rest
(R99). -/
def State.endHalted (s : State) (q : QueueId) (h : Halt) : State :=
  match s.clause h.cmd.seq with
  | none => s.modQueue q fun Q => { Q with halt := none }
  | some cl =>
    let hr := haltRec q cl h
    let s := s.purgeAll cl.seq
    let s := s.finishClause cl (if cl.wrote || h.begun then ccPartial else ccNotStarted) hr
    if s.reg (K.haltPolicy cl.job) = 1 then s.terminate cl.job
    else match cl.step with
      | none => s
      | some n =>
        match s.stepOf cl.job n with
        | none => s
        | some t => if agreed t then s else s.abandon cl.job n h.reason

/-- Core 2 resumes a halted command: it continues from its progress (R98). -/
def State.resume (s : State) (q : QueueId) (h : Halt) : State :=
  s.modQueue q fun Q => { Q with
    halt := none
    cmds := match Q.cmds with
      | c :: r => { c with prog := h.progress, pos := h.pos, again := true } :: r
      | [] => [] }

/-- Core 2 holds a TIER_QUOTA halt: the halted command and every later command of the job are set aside, and the
queue goes on with other jobs' (R98, R302). -/
def State.holdHalt (s : State) (q : QueueId) (h : Halt) : State :=
  let mine (seq : Nat) : Bool := match s.clause seq with | some c => c.job == h.job | none => false
  let s := s.modQueue q fun Q => { Q with
    halt := none
    held := Q.held ++ [{ halt := { h with decided := true }
                         cmds := (Q.cmds.filter fun c => mine c.seq).map fun c =>
                           if c.seq == h.cmd.seq && c.idx == h.cmd.idx then { c with prog := h.progress, pos := h.pos, again := true } else c
                         unread := Q.unread.filter fun u => mine u.1 }]
    cmds := Q.cmds.filter fun c => !mine c.seq
    unread := Q.unread.filter fun u => !mine u.1 }
  s.fill q

/-- The grant of a held halt arrives: the set-aside commands return ahead of every later command of the job, behind a
command that is in execution (R98). -/
def State.releaseHold (s : State) (q : QueueId) (h : HeldJob) : State :=
  s.modQueue q fun Q => { Q with held := Q.held.filter (· != h) }.giveBack h.cmds h.unread

/-! ### Held placements (R302) and the end of every command -/

/-- Whether an overflow log of this module may grow by a page: its limit is below its capacity and the tier 0 data quota covers
64 KiB (R162). -/
def State.overflowFits (s : State) (j table : Nat) : Bool :=
  let g := s.peek64 j (s.reg (K.gradList j) + 64 * table)
  nb g 36 4 < nb g 32 4 && s.quotaFits 0 j 65536

/-- Whether the rule that refused a held placement would place it now: R162 for a page of an overflow log here, R290 for the chunks
of a repack or a container, R301 for a page not yet placed. -/
def State.heldFits (s : State) (h : Halt) : Bool :=
  if h.need ≥ 256 then s.overflowFits h.job (h.need - 256)
  else if h.need ≠ 0 then h.need ≤ s.chunksFree
  else match s.leafOf h.job ((h.page - 1) * 65536) with
  | none => true
  | some l =>
    if l.allocated then true
    else match s.allocate l with | .ok _ => true | _ => false

/-- Whether the halt of an inserted flush is held for a page of an overflow log here that could be granted now (R162). -/
def State.flushFits (s : State) (h : Halt) : Bool :=
  h.decided && h.resumable && h.reason == 0x22 && h.need ≥ 256 && s.overflowFits h.job (h.need - 256)

/-- The inserted flushes go on whose partials this module's overflow logs could take now (R162, R302). -/
def State.freeFlushes (s : State) : State :=
  if s.steps.all fun t => t.flushHalts == [] then s
  else { s with steps := s.steps.map fun t => { t with flushHalts := t.flushHalts.filter fun h => !s.flushFits h } }

/-- Core 2 resumes every held command whose placement has become possible (R302). -/
def State.retestHolds (s : State) : State :=
  if s.coreOut 2 then s
  else allQueues.foldl (fun s q =>
    match s.queue q with
    | none => s
    | some Q => (Q.held.filter fun h => h.halt.reason == 0x22 && (h.halt.page != 0 || h.halt.need != 0)).foldl (fun s h =>
        if s.heldFits h.halt then s.releaseHold q h else s) s) s.freeFlushes

/-- The end of every command: held placements are tested again, the derived entries follow the state (R34, R408), the
waiting commands stay as `s` has them, and the free-value counter advances. -/
def settle (s t : State) : State :=
  let t := t.retestHolds.refreshHealth.refreshAlert
  { t with pending := s.pending, free := s.free + 1 }

/-- The outcome of a meaning: the command's effect, settled. -/
def finish (s t : State) : Host.Outcome State Fault Refusal := .next (settle s t)

/-- With no command waiting the AON domain counts one tick while standby power is present (R10, R397; log 1). -/
def idle (s : State) : Host.Outcome State Fault Refusal :=
  .next (if s.pow.standby then { s with tick := s.tick + 1 } else s)

end Sys2Proof.Machine
end

