-- ==== Sys2Proof/Machine/Numbers.lean ====
section
/-! DEFINITION. Number formats and arithmetic (R37 to R63): exact values, rounding, overflow, the numeric flags,
stochastic rounding, codes, and sums whose order is not promised.

A value is a `Num`; a finite one is (−1)^neg · m · 2^e exactly, so no operation rounds before `Cv.put` or `encode`. -/

namespace Sys2Proof.Machine

/-! ### Formats (R37, R38) -/

/-- fp32 (R37). -/
abbrev fmF32 : Nat := 0
/-- bf16. -/
abbrev fmBf16 : Nat := 1
/-- fp16. -/
abbrev fmF16 : Nat := 2
/-- fp8 E4M3. -/
abbrev fmE4m3 : Nat := 3
/-- fp8 E5M2. -/
abbrev fmE5m2 : Nat := 4
/-- int8 code. -/
abbrev fmI8 : Nat := 5
/-- int4 code. -/
abbrev fmI4 : Nat := 6
/-- w48. -/
abbrev fmW48 : Nat := 7
/-- int32. -/
abbrev fmI32 : Nat := 8
/-- int64. -/
abbrev fmI64 : Nat := 9
/-- bit. -/
abbrev fmBit : Nat := 10

/-- Bits of one element of a format (R37). -/
def fmtBits (f : Nat) : Nat := [32, 16, 16, 8, 8, 8, 4, 48, 32, 64, 1].getD f 0

/-- The float formats of R218: fp32, bf16, fp16, fp8. -/
def isFloat (f : Nat) : Bool := f ≤ 4

/-- Floats and w48. -/
def isWide (f : Nat) : Bool := f ≤ 4 || f == 7

/-- Formats the multiplier takes: bf16, fp16, fp8 (R37). -/
def isMult (f : Nat) : Bool := 1 ≤ f && f ≤ 4

/-- The fp8 formats. -/
def isFp8 (f : Nat) : Bool := f == 3 || f == 4

/-- int8 and int4 codes. -/
def isCode (f : Nat) : Bool := f == 5 || f == 6

/-- Fraction bits of a floating-point format (R38). -/
def fracBits (f : Nat) : Nat := match f with | 0 => 23 | 1 => 7 | 2 => 10 | 3 => 3 | 4 => 2 | _ => 36

/-- Exponent bits of a floating-point format (R38). -/
def expBits (f : Nat) : Nat := match f with | 0 => 8 | 1 => 8 | 2 => 5 | 3 => 4 | 4 => 5 | _ => 11

/-- Exponent bias of a floating-point format (R38). -/
def fmtBias (f : Nat) : Nat := 2 ^ (expBits f - 1) - 1

/-- The bytes that `n` packed elements take: ⌈n / 8⌉ for bits, ⌈n / 2⌉ for int4 codes (R44, R51, R213). -/
def packedBytes (f n : Nat) : Nat := ceilDiv (n * fmtBits f) 8

/-- Element `i` of packed bytes held as one number. -/
def elemAt (f : Nat) (bs : List Byte) (i : Nat) : Nat :=
  bits (nb bs (i * fmtBits f / 8) (if fmtBits f < 8 then 1 else fmtBits f / 8)) (i * fmtBits f % 8) (fmtBits f)

/-- The packed bytes of `n` elements, as codes. -/
def elemsOf (f : Nat) (bs : List Byte) (n : Nat) : List Nat := (List.range n).map fun i => elemAt f bs i

/-- Two int4 codes a byte, low nibble first (R51). -/
def packNibbles : List Nat → List Byte
  | [] => []
  | [a] => leBytes 1 (a % 16)
  | a :: b :: r => leBytes 1 (a % 16 + 16 * (b % 16)) ++ packNibbles r

/-- Eight bit elements a byte, element i at bit i (R44); `w` is the place of the next bit and `acc` the byte so far. -/
def packBits : List Nat → Nat → Nat → List Byte
  | [], 0, _ => []
  | [], _, acc => leBytes 1 acc
  | b :: r, w, acc =>
    if w = 7 then leBytes 1 (acc + b % 2 * 2 ^ w) ++ packBits r 0 0 else packBits r (w + 1) (acc + b % 2 * 2 ^ w)

/-- Codes packed into bytes (R12, R43, R44, R51). -/
def packElems (f : Nat) (l : List Nat) : List Byte :=
  if f = fmI4 then packNibbles l
  else if f = fmBit then packBits l 0 0
  else l.flatMap fun c => leBytes (fmtBits f / 8) c

/-! ### Values -/

/-- A value: NaN, an infinity, or (−1)^neg · m · 2^e; m = 0 is a signed zero. -/
inductive Num
  | nan
  | inf (neg : Bool)
  | fin (neg : Bool) (m : Nat) (e : Int)
  deriving DecidableEq, Repr

/-- +0. -/
abbrev zeroNum : Num := .fin false 0 0

/-- 1. -/
abbrev oneNum : Num := .fin false 1 0

/-- An integer's value. -/
def intNum (i : Int) : Num := .fin (i < 0) i.natAbs 0

/-- The number `b` in two's complement of `w` bits (R44). -/
def toSigned (w b : Nat) : Int := if b < 2 ^ (w - 1) then b else (b : Int) - 2 ^ w

/-- An integer as `w` bits of two's complement: it wraps (R44). -/
def ofSigned (w : Nat) (i : Int) : Nat := (i % (2 ^ w : Int)).toNat

/-- The value of a code of a floating-point format (R38, R39, R41). -/
def decodeNum (f c : Nat) : Num :=
  let fb := fracBits f
  let e := bits c fb (expBits f)
  let m := bits c 0 fb
  let neg := bit c (fmtBits f - 1)
  if f = fmE4m3 then
    if c % 128 = 127 then .nan
    else if e = 0 then .fin neg m (-9) else .fin neg (m + 8) ((e : Int) - 10)
  else if e = 2 ^ expBits f - 1 then (if m = 0 then .inf neg else .nan)
  else if e = 0 then
    if f = fmW48 then .fin neg 0 0 else .fin neg m (1 - (fmtBias f : Int) - fb)
  else .fin neg (m + 2 ^ fb) ((e : Int) - fmtBias f - fb)

/-- Whether a value is finite. -/
def Num.isFin : Num → Bool
  | .fin _ _ _ => true
  | _ => false

/-- Whether a value is a NaN. -/
def Num.isNan : Num → Bool
  | .nan => true
  | _ => false

/-- −a. -/
def Num.neg : Num → Num
  | .nan => .nan
  | .inf s => .inf (!s)
  | .fin s m e => .fin (!s) m e

/-- |a|. -/
def Num.abs : Num → Num
  | .nan => .nan
  | .inf _ => .inf false
  | .fin _ m e => .fin false m e

/-- The integer (−1)^neg · m. -/
def signedOf (neg : Bool) (m : Nat) : Int := if neg then -(m : Int) else m

/-- Exact sum; two zeros of one sign keep it, other zero sums are +0 (R42). ∞ − ∞ is NaN (IEEE 754; log 17). -/
def Num.add : Num → Num → Num
  | .nan, _ => .nan
  | _, .nan => .nan
  | .inf s, .inf t => if s = t then .inf s else .nan
  | .inf s, _ => .inf s
  | _, .inf s => .inf s
  | .fin s m e, .fin t n g =>
    if m = 0 ∧ n = 0 then .fin (s && t) 0 0
    else
      let k := min e g
      let i := signedOf s (m * 2 ^ (e - k).toNat) + signedOf t (n * 2 ^ (g - k).toNat)
      if i = 0 then zeroNum else .fin (i < 0) i.natAbs k

/-- Exact difference. -/
def Num.sub (a b : Num) : Num := a.add b.neg

/-- Exact product; 0 × ∞ is NaN (IEEE 754; log 17). -/
def Num.mul : Num → Num → Num
  | .nan, _ => .nan
  | _, .nan => .nan
  | .inf s, .inf t => .inf (s != t)
  | .inf s, .fin t n _ => if n = 0 then .nan else .inf (s != t)
  | .fin s m _, .inf t => if m = 0 then .nan else .inf (s != t)
  | .fin s m e, .fin t n g => .fin (s != t) (m * n) (e + g)

/-- The quotient with at least 64 significant bits and a last bit that is 1 where it is not exact, so that a later
rounding to at most 53 bits is the rounding of the exact quotient. 0/0 and ∞/∞ are NaN, x/0 is an infinity (IEEE 754;
log 17). -/
def Num.div : Num → Num → Num
  | .nan, _ => .nan
  | _, .nan => .nan
  | .inf _, .inf _ => .nan
  | .inf s, .fin t _ _ => .inf (s != t)
  | .fin s _ _, .inf t => .fin (s != t) 0 0
  | .fin s m e, .fin t n g =>
    if n = 0 then (if m = 0 then .nan else .inf (s != t))
    else
      let k := 64 + Nat.log2 n
      let q := m * 2 ^ k / n
      let r := m * 2 ^ k % n
      .fin (s != t) (2 * q + (if r = 0 then 0 else 1)) (e - g - k - 1)

/-- The integer square root, one bit at a time from bit `k` down. -/
def isqrtFrom (n : Nat) : Nat → Nat → Nat
  | 0, r => r
  | k + 1, r => if (r + 2 ^ k) * (r + 2 ^ k) ≤ n then isqrtFrom n k (r + 2 ^ k) else isqrtFrom n k r

/-- The integer square root. -/
def isqrt (n : Nat) : Nat := isqrtFrom n (Nat.log2 n / 2 + 1) 0

/-- The square root with at least 64 significant bits and a sticky last bit. √x of a negative x is NaN, √−0 is −0
(IEEE 754; log 17). -/
def Num.sqrt : Num → Num
  | .nan => .nan
  | .inf s => if s then .nan else .inf false
  | .fin s m e =>
    if m = 0 then .fin s 0 0
    else if s then .nan
    else
      let k : Nat := 128 + (e % 2).toNat
      let n := m * 2 ^ k
      let r := isqrt n
      .fin false (2 * r + (if r * r = n then 0 else 1)) ((e - k) / 2 - 1)

/-- a < b, false where either is NaN. -/
def Num.lt (a b : Num) : Bool :=
  match a.sub b, a, b with
  | _, .nan, _ => false
  | _, _, .nan => false
  | _, .inf s, .inf t => s && !t
  | .inf s, _, _ => s
  | .fin s m _, _, _ => s && m != 0
  | .nan, _, _ => false

/-- The larger of two values: NaN if either is NaN, +0 above −0 (R219). -/
def Num.max (a b : Num) : Num :=
  match a, b with
  | .nan, _ => .nan
  | _, .nan => .nan
  | .fin s 0 _, .fin t 0 _ => .fin (s && t) 0 0
  | a, b => if a.lt b then b else a

/-- The smaller of two values: NaN if either is NaN, −0 below +0 (R219). -/
def Num.min (a b : Num) : Num :=
  match a, b with
  | .nan, _ => .nan
  | _, .nan => .nan
  | .fin s 0 _, .fin t 0 _ => .fin (s || t) 0 0
  | a, b => if b.lt a then b else a

/-! ### Rounding (R45 to R49) -/

/-- A significand shifted right by `k` bits under a mode; `u` is the 16-bit draw of R47. -/
def shiftRound (mode u : Nat) (neg : Bool) (m k : Nat) : Nat :=
  let d := 2 ^ k
  let q := m / d
  let r := m % d
  if r = 0 then q
  else match mode with
    | 0 => if 2 * r > d ∨ (2 * r = d ∧ q % 2 = 1) then q + 1 else q
    | 1 =>
      -- lo and hi are the neighbours below and above x; hi is chosen where u < t
      if neg then (if u < (d - r) * 65536 / d then q else q + 1)
      else (if u < r * 65536 / d then q + 1 else q)
    | _ => q

/-- Largest finite value of a format: its significand and the exponent of its last bit. -/
def maxFinite (f : Nat) : Nat × Int :=
  if f = fmE4m3 then (14, 5) else (2 ^ (fracBits f + 1) - 1, (2 ^ expBits f : Int) - 2 - fmtBias f - fracBits f)

/-- Whether a magnitude m · 2^e is beyond the largest finite value of a format (R47). -/
def beyondMax (f m : Nat) (e : Int) : Bool :=
  let mx := maxFinite f
  if mx.2 ≤ e then m * 2 ^ (e - mx.2).toNat > mx.1 else m > mx.1 * 2 ^ (mx.2 - e).toNat

/-- The code of an infinity, of a NaN where the format has no infinity (R39, R49). -/
def infCode (f : Nat) (neg : Bool) : Nat :=
  if f = fmE4m3 then 0x7F
  else (2 ^ expBits f - 1) * 2 ^ fracBits f + (if neg then 2 ^ (fmtBits f - 1) else 0)

/-- The canonical NaN (R40). -/
def nanCode (f : Nat) : Nat :=
  if f = fmE4m3 then 0x7F else (2 ^ expBits f - 1) * 2 ^ fracBits f + 2 ^ (fracBits f - 1)

/-- The code of the largest finite value. -/
def maxCode (f : Nat) (neg : Bool) : Nat :=
  (if f = fmE4m3 then 0x7E else (2 ^ expBits f - 1) * 2 ^ fracBits f - 1) + (if neg then 2 ^ (fmtBits f - 1) else 0)

/-- A code, and whether the conversion overflowed. -/
structure Coded where
  code : Nat
  ovf  : Bool
  deriving DecidableEq, Repr

/-- A significand times 2^q as a code of a format. -/
def packCode (f : Nat) (neg : Bool) (m : Nat) (q : Int) : Nat :=
  (if m < 2 ^ fracBits f then m
   else (q + fmtBias f + fracBits f).toNat * 2 ^ fracBits f + (m - 2 ^ fracBits f)) +
  (if neg then 2 ^ (fmtBits f - 1) else 0)

/-- A value rounded into a format under a mode, the draw `u` and the saturate bit (R41, R46 to R49). -/
def encode (f mode : Nat) (sat : Bool) (u : Nat) (x : Num) : Coded :=
  match x with
  | .nan => ⟨nanCode f, false⟩
  | .inf s => ⟨infCode f s, false⟩
  | .fin s m e =>
    if m = 0 then ⟨if s then 2 ^ (fmtBits f - 1) else 0, false⟩
    else
      let mode := if f = fmF32 ∨ f = fmW48 then 0 else mode
      let fb := fracBits f
      let top := e + Nat.log2 m - fb
      let q := if f = fmW48 then top else max top (1 - (fmtBias f : Int) - fb)
      let r := if q ≤ e then m * 2 ^ (e - q).toNat else shiftRound mode u s m (q - e).toNat
      let r2 := if r = 2 ^ (fb + 1) then r / 2 else r
      let q2 := if r = 2 ^ (fb + 1) then q + 1 else q
      let mx := maxFinite f
      let beyond := q2 > mx.2 ∨ (q2 = mx.2 ∧ r2 > mx.1)
      if beyond ∨ (mode = 1 ∧ beyondMax f m e) then ⟨if sat then maxCode f s else infCode f s, true⟩
      else if f = fmW48 ∧ q2 < -1058 then ⟨if s then 2 ^ 47 else 0, false⟩
      else ⟨packCode f s r2 q2, false⟩

/-- A value rounded to the nearest code of a format, no saturation. -/
def near (f : Nat) (x : Num) : Coded := encode f 0 false 0 x

/-- A value rounded to the nearest value of a format. -/
def roundTo (f : Nat) (sat : Bool) (x : Num) : Num := decodeNum f (encode f 0 sat 0 x).code

/-- Whether a code of a floating-point format is a NaN or an infinity. -/
def nonfinite (f c : Nat) : Bool := isWide f && !(decodeNum f c).isFin

/-- A value rounded to an integer under a mode and a draw. -/
def roundInt (mode u : Nat) (neg : Bool) (m : Nat) (e : Int) : Int :=
  if 0 ≤ e then signedOf neg (m * 2 ^ e.toNat) else signedOf neg (shiftRound mode u neg m (-e).toNat)

/-! ### Conversion with flags and random draws (R47, R48, R50) -/

/-- A conversion unit: the command's mode and saturate bit, the LFSRs, its first lane among them and its number of lanes, the
free-value counter with the draws made so far, and the two flags. -/
structure Cv where
  mode  : Nat
  sat   : Bool
  lfsr  : Lanes
  first : Nat
  lanes : Nat
  free  : Nat
  n     : Nat
  ovf   : Bool
  nf    : Bool
  deriving DecidableEq, Repr

/-- A seeded LFSR: the seed XOR the lane's index across the die, 0 replaced by 1 (R48). -/
def lfsrSeed (seed lane : Nat) : Nat := if seed ^^^ lane = 0 then 1 else seed ^^^ lane

/-- The LFSRs of lanes from index `base` on, as a seed loads them (R48). -/
def Lanes.load (seed base : Nat) : Lanes where
  seed := seed
  base := base
  moved := []

/-- The LFSR of a lane. -/
def Lanes.get (l : Lanes) (i : Nat) : Nat := cellGet (lfsrSeed l.seed (l.base + i)) i l.moved

/-- The LFSR of a lane set to a value; a state of zero is replaced by 1 (R48). -/
def Lanes.put (l : Lanes) (i v : Nat) : Lanes :=
  { l with moved := cellPut (lfsrSeed l.seed (l.base + i)) i (if v = 0 then 1 else v) l.moved }

/-- One 16-bit draw; which lane draws is not promised (R48), so the lane is a free value. -/
def Cv.draw (c : Cv) : Nat × Cv :=
  let i := c.first + Config.freeNat c.free (2 ^ 32 + c.n) % c.lanes
  let v := lfsr16 (c.lfsr.get i)
  (v % 65536, { c with lfsr := c.lfsr.put i v, n := c.n + 1 })

/-- Whether a value lies strictly between two values of a format, so that a stochastic rounding draws; one beyond the largest
finite value lies between none (R47). -/
def inexact (f : Nat) (x : Num) : Bool :=
  match x, decodeNum f (encode f 2 false 0 x).code with
  | .fin _ a b, .fin s m e => !beyondMax f a b && (match x.sub (.fin s m e) with | .fin _ 0 _ => false | _ => true)
  | _, _ => false

/-- Reads an operand of arithmetic: a NaN or an infinity sets NONFINITE (R50). -/
def Cv.see (c : Cv) (x : Num) : Cv := { c with nf := c.nf || !x.isFin }

/-- Rounds a value into a floating-point format: the code written, with the flags it sets (R49, R50). -/
def Cv.put (c : Cv) (f : Nat) (x : Num) : Nat × Cv :=
  let draws := c.mode == 1 && f != fmF32 && f != fmW48 && inexact f x
  let d := if draws then c.draw else (0, c)
  let r := encode f d.2.mode d.2.sat d.1 x
  (r.code, { d.2 with ovf := d.2.ovf || r.ovf, nf := d.2.nf || nonfinite f r.code })

/-- Rounds a value to fp32 on the way to a destination, with the command's saturate bit (R219). -/
def Cv.f32 (c : Cv) (x : Num) : Num × Cv :=
  let r := encode fmF32 0 c.sat 0 x
  (decodeNum fmF32 r.code, { c with ovf := c.ovf || r.ovf })

/-- Rounds a finite value to an integer under the command's mode (R45, R47). -/
def Cv.int (c : Cv) (neg : Bool) (m : Nat) (e : Int) : Int × Cv :=
  let exact := decide (0 ≤ e) || m % 2 ^ (-e).toNat == 0
  let d := if c.mode == 1 && !exact then c.draw else (0, c)
  (roundInt d.2.mode d.1 neg m e, d.2)

/-- Conversion to int32 (R220); under stochastic rounding a value beyond the int32 range is an overflow without a draw (R47). -/
def Cv.toI32 (c : Cv) (x : Num) : Nat × Cv :=
  let outOf (c : Cv) (neg : Bool) : Nat × Cv :=
    (if c.sat then (if neg then 2 ^ 31 + 1 else 2 ^ 31 - 1) else 2 ^ 31, { c with ovf := true })
  match x with
  | .nan => (0, { c with nf := true })
  | .inf s => outOf { c with nf := true } s
  | .fin s m e =>
    if c.mode == 1 && (intNum (if s then 2 ^ 31 else 2 ^ 31 - 1)).lt (.fin false m e) then outOf c s
    else
    let r := c.int s m e
    if -(2 ^ 31 : Int) ≤ r.1 ∧ r.1 < 2 ^ 31 then (ofSigned 32 r.1, r.2) else outOf r.2 s

/-! ### Codes (R51, R52, R53, R63) -/

/-- scale × (c − zero_point), exactly; a zero result is +0 (R52). A nonzero product of negative sign that a later rounding carries to zero
gives −0, as IEEE 754 does: R52 names only exact zeros (DESIGN CHOICE, log 17). -/
def dequant (scale c zp : Nat) : Num :=
  match (decodeNum fmF32 scale).mul (intNum ((c : Int) - zp)) with
  | .fin _ 0 _ => zeroNum
  | x => if (decodeNum fmF32 scale).isNan then .nan else x

/-- The scale, zero point and codes of a row (R63). `b` is the code width. -/
structure QuantRow where
  scale : Nat
  zp    : Nat
  codes : List Nat
  deriving DecidableEq, Repr

/-- An integer clamped to 0 … qmax. -/
def clampCode (i : Int) (qmax : Nat) : Nat := (max 0 (min i qmax)).toNat

/-- The codes of a row, element by element. -/
def quantCodes (qmax zp : Nat) (scaled : Num → Num) : List Num → Cv → List Nat × Cv
  | [], c => ([], c)
  | x :: xs, c =>
    match roundTo fmF32 false (scaled x) with
    | .fin s m e =>
      let r := c.int s m e
      let t := quantCodes qmax zp scaled xs r.2
      (clampCode (r.1 + zp) qmax :: t.1, t.2)
    | _ =>
      let t := quantCodes qmax zp scaled xs c
      (0 :: t.1, t.2)

/-- Per-row dynamic quantisation (R63). -/
def quantRow (b : Nat) (xs : List Num) (c : Cv) : QuantRow × Cv :=
  let qmax : Nat := 2 ^ b - 1
  if xs.any fun x => !x.isFin then
    (⟨0x7FC00000, 0, xs.map fun _ => 0⟩, { c with nf := true })
  else
    let lo := xs.foldl Num.min zeroNum
    let hi := xs.foldl Num.max zeroNum
    let span := hi.sub lo
    match span with
    | .fin _ 0 _ => (⟨0x3F800000, 0, xs.map fun _ => 0⟩, c)
    | _ =>
      let sc := max (near fmF32 (span.div (intNum qmax))).code 1
      let scale := decodeNum fmF32 sc
      let inv := decodeNum fmF32 (near fmF32 (oneNum.div scale)).code
      let scaled (x : Num) : Num := if inv.isFin then x.mul inv else x.div scale
      let zp := match roundTo fmF32 false (scaled lo.neg) with
        | .fin s m e => clampCode (roundInt 0 0 s m e) qmax
        | _ => 0
      let r := quantCodes qmax zp scaled xs c
      (⟨sc, zp, r.1⟩, r.2)

/-! ### Sums whose order is not promised (R56, R64) -/

/-- Inserts a keyed value into a list sorted by key. -/
def insertKey {α : Type} (k : Nat) (a : α) : List (Nat × α) → List (Nat × α)
  | [] => [(k, a)]
  | x :: t => if k ≤ x.1 then (k, a) :: x :: t else x :: insertKey k a t

/-- A list sorted by keys. -/
def sortKeys {α : Type} : List (Nat × α) → List (Nat × α)
  | [] => []
  | x :: t => insertKey x.1 x.2 (sortKeys t)

/-- A list in an order that nothing promises: the keys are free values of `seed` and `n`. -/
def anyOrder {α : Type} (seed n : Nat) (l : List α) : List α :=
  (sortKeys (l.zipIdx.map fun x => (Config.freeNat seed (2 ^ 40 + 2 ^ 20 * n + x.2), x.1))).map (·.2)

/-- Adds terms one by one, each addition rounded to the nearest value of a format (R56, R61); the flag tells of an
overflow, after which the sum is what the saturate bit makes of it. -/
def sumIn (f : Nat) (sat : Bool) : List Num → Num × Bool → Num × Bool
  | [], a => a
  | x :: xs, a =>
    let r := encode f 0 sat 0 (a.1.add x)
    sumIn f sat xs (decodeNum f r.code, a.2 || r.ovf)

/-- The sum of terms in an order nothing promises, from the first one. -/
def sumTerms (f : Nat) (sat : Bool) (seed n : Nat) (l : List Num) : Num × Bool :=
  match anyOrder seed n l with
  | [] => (zeroNum, false)
  | x :: xs =>
    let r := encode f 0 sat 0 x
    sumIn f sat xs (decodeNum f r.code, r.ovf)

/-! ### Memory-side adds (R62) -/

/-- Types the memory-side adder takes (R37): fp32, bf16, fp16, int32, int64. -/
def isMsa (f : Nat) : Bool := f == 0 || f == 1 || f == 2 || f == 8 || f == 9

/-- One element added in memory: floats round to nearest with saturation off, integers wrap; the flags are OVERFLOW and
NONFINITE (R44, R62). -/
def msaAdd (f a b : Nat) : Nat × Bool × Bool :=
  if f = fmI32 ∨ f = fmI64 then ((a + b) % 2 ^ fmtBits f, false, false)
  else
    let r := near f ((decodeNum f a).add (decodeNum f b))
    (r.code, r.ovf, nonfinite f r.code)

/-- A run of elements added in memory. -/
def msaRun (f : Nat) (old new : List Byte) : List Byte × Bool × Bool :=
  let n := new.length * 8 / fmtBits f
  let r := (List.range n).map fun i => msaAdd f (elemAt f old i) (elemAt f new i)
  (packElems f (r.map (·.1)), r.any (·.2.1), r.any (·.2.2))

end Sys2Proof.Machine
end

