-- ==== Sys2Proof/Machine/Functions.lean ====
section
/-! DEFINITION. EXP, LOG, RSQRT, TANH and SIGMOID (R218, R219): the function's value in fixed point, far closer than
one fp32 ulp, and a result within 2 ulp of it that nothing else fixes (log 18). -/

namespace Sys2Proof.Machine

/-- Fraction bits of the fixed-point values below. -/
abbrev fxBits : Nat := 192

/-- 1 in fixed point. -/
abbrev fxOne : Nat := 2 ^ 192

/-- Σ r^k / k! from term `k`, `t` being the term before it, in fixed point. -/
def expSeries (r : Nat) : Nat → Nat → Nat → Nat
  | 0, _, _ => 0
  | fuel + 1, k, t => t + expSeries r fuel (k + 1) (t * r / fxOne / k)

/-- Σ z^(2k+1) / (2k+1), `p` being the power at hand and `q` = z². -/
def atanhSeries (q : Nat) : Nat → Nat → Nat → Nat
  | 0, _, _ => 0
  | fuel + 1, k, p => p / k + atanhSeries q fuel (k + 2) (p * q / fxOne)

/-- ln 2 = 2 · artanh(1/3) in fixed point. -/
def fxLn2 : Nat := 2 * atanhSeries (fxOne / 9) 70 1 (fxOne / 3)

/-- e^x for x = ±m·2^e with |x| below 2^12, as a value with 192 fraction bits of significand. -/
def expNum (neg : Bool) (m : Nat) (e : Int) : Num :=
  let a : Nat := if 0 ≤ e + 192 then m * 2 ^ (e + 192).toNat else m / 2 ^ (-(e + 192)).toNat
  let x : Int := signedOf neg a
  let k : Int := x / (fxLn2 : Int)
  let r : Nat := (x - k * fxLn2).toNat
  .fin false (expSeries r 60 1 fxOne) (k - 192)

/-- ln x for x = m·2^e > 0: x = y·2^k with 3/4 ≤ y < 3/2, ln x = 2·artanh((y−1)/(y+1)) + k·ln 2. -/
def lnNum (m : Nat) (e : Int) : Num :=
  let l := Nat.log2 m
  let up := 3 * 2 ^ l ≤ 2 * m
  let k : Int := e + l + (if up then 1 else 0)
  let d := 2 ^ (l + (if up then 1 else 0))
  let s := m < d
  let num := if s then d - m else m - d
  let z := num * fxOne / (m + d)
  let a := 2 * atanhSeries (z * z / fxOne) 70 1 z
  let i : Int := (if s then -(a : Int) else a) + k * fxLn2
  if i = 0 then zeroNum else .fin (i < 0) i.natAbs (-192)

/-- tanh x for finite x. Small x by x − x³/3 + 2x⁵/15, large x is 1 to within far less than an ulp. -/
def tanhNum (neg : Bool) (m : Nat) (e : Int) : Num :=
  let top := e + Nat.log2 m
  if top < -8 then
    let x : Num := .fin neg m e
    let q := x.mul x
    let p := (oneNum.sub (q.div (intNum 3))).add ((q.mul q).mul ((intNum 2).div (intNum 15)))
    x.mul p
  else if top ≥ 6 then .fin neg 1 0
  else
    let w := expNum false m (e + 1)
    match (w.sub oneNum).div (w.add oneNum) with
    | .fin _ a b => .fin neg a b
    | y => y

/-- The function of an op code of VUNARY on a finite operand: 0x04 EXP, 0x05 LOG (x > 0), 0x07 RSQRT (x > 0),
0x09 TANH, 0x0A SIGMOID. -/
def fnNum (op : Nat) (neg : Bool) (m : Nat) (e : Int) : Num :=
  let big := m != 0 && decide (e + Nat.log2 m ≥ 10)
  let ex (neg : Bool) : Num :=
    if big then (if neg then .fin false 1 (-2000) else .fin false 1 2000)
    else if m = 0 then oneNum else expNum neg m e
  match op with
  | 0x04 => ex neg
  | 0x05 => lnNum m e
  | 0x07 => oneNum.div (Num.sqrt (.fin neg m e))
  | 0x09 => if m = 0 then .fin neg 0 0 else tanhNum neg m e
  | _ => oneNum.div (oneNum.add (ex (!neg)))

/-- The place of an fp32 code among the fp32 values in rising order, ±0 at 0. -/
def codeOrd (c : Nat) : Int := if bit c 31 then -((c % 2 ^ 31 : Nat) : Int) else (c : Int)

/-- The value at a place; from the place of an infinity on, the values that a wider exponent would hold. -/
def ordNum (i : Int) : Num :=
  let m := i.natAbs
  if m < 0x7F800000 then (match decodeNum fmF32 m with | .fin _ a e => .fin (i < 0) a e | x => x)
  else .fin (i < 0) (2 ^ 24 + (m - 0x7F800000)) 104

/-- 2 ulp of fp32 at a value (R219). -/
def twoUlp : Num → Num
  | .fin _ m e => .fin false 2 (if m = 0 then -149 else max (e + Nat.log2 m - 23) (-149))
  | _ => zeroNum

/-- A result within 2 ulp of a value: of the fp32 values as near as that, the one that a free value of the function and the operand
picks (R219; log 18). A value beyond the fp32 range is left for the rounding to overflow. -/
def within2ulp (op c : Nat) (y : Num) : Num :=
  let o := codeOrd (near fmF32 y).code
  let near2 := ([-2, -1, 0, 1, 2].map fun d => ordNum (o + d)).filter fun v => !(twoUlp y).lt (v.sub y).abs
  near2.getD (Config.function2ulp op c % near2.length) y

/-- EXP, LOG, RSQRT, TANH or SIGMOID of the fp32 code `c`: the values R219 states, the limits at the infinities
(log 18), a free value where R219 states none (the logarithm of −0, RSQRT of −0 and of negative numbers), else
within 2 ulp. -/
def fnValue (op c : Nat) : Num :=
  let free := decodeNum fmF32 (Config.function2ulp op c % 2 ^ 32)
  match op, decodeNum fmF32 c with
  | _, .nan => .nan
  | 0x04, .inf s => if s then zeroNum else .inf false
  | 0x05, .inf s => if s then .nan else .inf false
  | 0x07, .inf s => if s then free else zeroNum
  | 0x09, .inf s => .fin s 1 0
  | _, .inf s => if s then zeroNum else oneNum
  | 0x05, .fin s m e =>
    if m = 0 then (if s then free else .inf true)
    else if s then .nan else within2ulp op c (fnNum 0x05 s m e)
  | 0x07, .fin s m e =>
    if m = 0 then (if s then free else .inf false)
    else if s then free else within2ulp op c (fnNum 0x07 s m e)
  | op, .fin s m e => within2ulp op c (fnNum op s m e)

end Sys2Proof.Machine
end

