-- ==== Sys2Proof/Machine/Operands.lean ====
section
/-! DEFINITION. Operand forms: the local operands of a phrase (R74, R202), the scoreboard's checks and waits (R88 to
R90), and the alignment of memory operands (R75). -/

namespace Sys2Proof.Machine

/-! ### Buffers that may hold undefined contents -/

/-- The value a place of a buffer holds where no cell lists it. -/
def bufDefault (b : Buf) (k w : Nat) : Nat :=
  match b.bg with
  | none => 0
  | some seed => Config.freeNat seed k % 2 ^ w

/-- The `w` bits at place `k` of a buffer. -/
def bufGet (b : Buf) (k w : Nat) : Nat := cellGet (bufDefault b k w) k b.cells

/-- A buffer with the value of place `k` set. A buffer with undefined contents lists every value written. -/
def bufPut (b : Buf) (k v : Nat) : Buf :=
  { b with cells := cellPut (match b.bg with | none => 0 | some _ => 2 ^ 64) k v b.cells }

/-- A buffer with successive places set. -/
def bufPutAll (b : Buf) : Nat → List Nat → Buf
  | _, [] => b
  | k, v :: vs => bufPutAll (bufPut b k v) (k + 1) vs

/-- An empty buffer: every place is 0. -/
abbrev bufZero : Buf := { bg := none, cells := [] }

/-! ### Local operands (R74) -/

/-- Resource of a local operand: bits [8:0]. -/
def opRes (v : Nat) : Nat := bits v 0 9

/-- Byte offset of a local operand: bits [31:9]. -/
def opOff (v : Nat) : Nat := bits v 9 23

/-- Where a resource lies: bytes of `store` from a place, with a size, or a spill tile. -/
inductive Loc
  | store (base size : Nat)
  | tile (i : Nat)
  deriving DecidableEq, Repr

/-- A job's definition of a region: base and length in 4 KiB units (R78). -/
def PhraseCtx.region (c : PhraseCtx) (r : Nat) : Option (Nat × Nat) := (c.regions.find? (·.1 == r)).map (·.2)

/-- The place of byte 0 of fixed resource `r` in `store`. -/
def fixedBase (r : Nat) : Nat := 2 ^ 24 * (r - 0xFF)

/-- Where a resource lies; none where the value names nothing defined (R74, R189). -/
def PhraseCtx.locOf (c : PhraseCtx) (r : Nat) : Option Loc :=
  if r < 0x100 then (c.region r).map fun b => .store (b.1 * 4096) (b.2 * 4096)
  else if r ≤ 0x103 then some (.store (fixedBase r) 65536)
  else if r ≤ 0x10B then some (.tile (r - 0x104))
  else if r = 0x10E ∨ r = 0x10F then some (.store (fixedBase r) 262144)
  else none

/-- Bytes of a resource. -/
def locSize : Loc → Nat
  | .store _ n => n
  | .tile _ => 98304

/-- A tile's buffer. -/
def PhraseCtx.tile (c : PhraseCtx) (i : Nat) : Buf := c.spill.getD i bufZero

/-- `n` bytes from offset `off` of resource `r`. -/
def PhraseCtx.readLocal (c : PhraseCtx) (r off n : Nat) : List Byte :=
  match c.locOf r with
  | none => zeros n
  | some (.store b _) => readRun c.store (b + off) n
  | some (.tile i) => (List.range n).map fun k => BitVec.ofNat 8 (bufGet (c.tile i) (off + k) 8)

/-- Bytes written from offset `off` of resource `r`. -/
def PhraseCtx.writeLocal (c : PhraseCtx) (r off : Nat) (bs : List Byte) : PhraseCtx :=
  match c.locOf r with
  | none => c
  | some (.store b _) => { c with store := writeRun c.store (b + off) bs }
  | some (.tile i) => { c with spill := c.spill.modify i fun t => bufPutAll t off (bs.map (·.toNat)) }

/-- `n` packed elements of a format at a local operand. -/
def PhraseCtx.readElems (c : PhraseCtx) (v f n : Nat) : List Nat :=
  elemsOf f (c.readLocal (opRes v) (opOff v) (packedBytes f n)) n

/-- The phrase's job state, empty where the phrase does not exist. -/
def State.ctx (s : State) (n : Nat) : PhraseCtx := ((s.phrases[n]?).map (·.ctx)).getD PhraseCtx.reset

/-- Whether a resource is a transposing buffer half. -/
def isHalf (r : Nat) : Bool := r == 0x10E || r == 0x10F

/-- Whether a resource is a spill tile. -/
def isSpill (r : Nat) : Bool := 0x104 ≤ r && r ≤ 0x10B

/-- Whether a resource is a buffer region or a tile buffer. -/
def isPlain (r : Nat) : Bool := r ≤ 0x103

/-! ### The scoreboard (R88 to R90) -/

/-- An operand of a command at issue: its 32 bits, the bytes it spans from its offset, the bound where it is not the
resource's size (0: the size), whether it is written, whether the command takes its resource, and whether it lies in
the command (an access that a command implies, as to the staging plane, has neither definition nor bounds). -/
structure Opnd where
  v     : Nat
  ext   : Nat
  lim   : Nat
  write : Bool
  ok    : Bool
  named : Bool
  deriving DecidableEq, Repr

/-- A named operand of a resource the command takes. -/
def opnd (v ext : Nat) (write : Bool) : Opnd := { v := v, ext := ext, lim := 0, write := write, ok := true, named := true }

/-- An access to a fixed resource that a command implies (R189, R198). -/
def implied (r : Nat) (write : Bool) : Opnd := { v := r, ext := 0, lim := 0, write := write, ok := true, named := false }

/-- Whether a clause declares a read of a resource; a declared write permits reading too (R89). -/
def declaresRead (cl : Clause) (r : Nat) : Bool :=
  if r < 256 then bit (cl.reads ||| cl.writes) r else bit (cl.fixedR ||| cl.fixedW) (r - 256)

/-- Whether a clause declares a write of a resource. -/
def declaresWrite (cl : Clause) (r : Nat) : Bool :=
  if r < 256 then bit cl.writes r else bit cl.fixedW (r - 256)

/-- The first failing test of one operand: definition, declaration, bounds (R90). -/
def checkOpnd (c : PhraseCtx) (cl : Clause) (o : Opnd) : Option (Nat × Nat) :=
  let r := opRes o.v
  let declared := if o.write then declaresWrite cl r else declaresRead cl r
  if o.named then
    match c.locOf r with
    | none => some (0x05, o.v)
    | some l =>
      if o.ok = false then some (0x05, o.v)
      else if declared = false then some (0x07, o.v)
      else if opOff o.v + o.ext > (if o.lim = 0 then locSize l else o.lim) then some (0x06, o.v)
      else none
  else if declared = false then some (0x07, o.v) else none

/-- The first failing test of a command's operands, in ascending byte offset (R90). -/
def checkOpnds (c : PhraseCtx) (cl : Clause) (l : List Opnd) : Option (Nat × Nat) := l.findSome? (checkOpnd c cl)

/-- Whether a clause declares on phrase `n`. -/
def holdsOn (cl : Clause) (n : Nat) : Bool :=
  cl.declUnit == n && (clsOfPhrase cl.cls || cl.cls == .embed)

/-- Whether an access to a resource of phrase `n` waits for an earlier-admitted clause in another queue (R90). -/
def State.mustWait (s : State) (cl : Clause) (n r : Nat) (write : Bool) : Bool :=
  s.clauses.any fun e => e.seq < cl.seq && holdsOn e n && !(e.cls == cl.cls && e.unit == cl.unit) &&
    (declaresWrite e r || (write && declaresRead e r))

/-- What the scoreboard says of a command: halt with a reason and detail, wait, or go. -/
inductive Gate
  | stop (reason detail : Nat)
  | wait
  | go
  deriving DecidableEq, Repr

/-- The scoreboard's answer for a command's operands on phrase `n` (R90). -/
def State.board (s : State) (cl : Clause) (n : Nat) (l : List Opnd) : Gate :=
  match checkOpnds (s.ctx n) cl l with
  | some (r, d) => .stop r d
  | none => if l.any fun o => s.mustWait cl n (opRes o.v) o.write then .wait else .go

/-! ### Command fields -/

/-- Whether a command holds a nonzero bit outside the fields listed as (first bit, width) (R73). -/
def reservedSet (w : Nat) (fields : List (Nat × Nat)) : Bool :=
  fields.foldl (fun w f => w - bits w f.1 f.2 * 2 ^ f.1) w != 0

/-- Opcode, sat, rnd and count (R72). -/
def headFields : List (Nat × Nat) := [(0, 8), (8, 1), (9, 2), (16, 16)]

/-- The saturate bit. -/
def satOf (w : Nat) : Bool := bit w 8

/-- The rounding mode. -/
def rndOf (w : Nat) : Nat := bits w 9 2

/-- The count field. -/
def countOf (w : Nat) : Nat := cb w 2 2

/-- The first failing decode check of a list of (fails, reason, detail). -/
def firstFail : List (Bool × Nat × Nat) → Option (Nat × Nat)
  | [] => none
  | (b, r, d) :: t => if b then some (r, d) else firstFail t

/-- Alignment of a memory operand's address (R75). -/
def alignOf (f : Nat) : Nat := match f with | 0 => 4 | 1 => 2 | 2 => 2 | 7 => 2 | 8 => 4 | 9 => 8 | _ => 1

end Sys2Proof.Machine
end

