-- ==== Sys2Proof/Machine/Flags.lean ====
section
/-! DEFINITION. Numeric flags of a clause (R50) and the conversion units of a phrase and of a slice, with the LFSRs
they draw from (R48). -/

namespace Sys2Proof.Machine

/-- OVERFLOW and NONFINITE are sticky per clause (R50). -/
def State.raise (s : State) (seq : Nat) (ovf nf : Bool) : State :=
  s.modClause seq fun c => { c with overflow := c.overflow || ovf, nonfinite := c.nonfinite || nf }

/-- The flags a conversion unit has gathered go to the clause. -/
def State.raiseCv (s : State) (seq : Nat) (c : Cv) : State := s.raise seq c.ovf c.nf

/-- The first lane of a phrase's vector engine, read-out and MOVE engine among its 512; phrase n's lane i has the index 512·n + i
across the die (R48; the numbering is a DESIGN CHOICE, log 19). -/
def laneFirst (cls : EngineClass) : Nat := match cls with | .vector => 0 | .array => 256 | _ => 384

/-- Lanes of a phrase's engines. -/
def laneCount (cls : EngineClass) : Nat := match cls with | .vector => 256 | _ => 128

/-- The conversion unit of a phrase's engine, with a command's mode and saturate bit. -/
def State.cvOf (s : State) (n : Nat) (cls : EngineClass) (w : Nat) : Cv where
  mode := rndOf w
  sat := satOf w
  lfsr := (s.ctx n).lfsr
  first := laneFirst cls
  lanes := laneCount cls
  free := s.free
  n := 0
  ovf := false
  nf := false

/-- The LFSRs of a phrase as a conversion unit left them, and its flags with the clause. -/
def State.saveCv (s : State) (n seq : Nat) (c : Cv) : State :=
  (s.modCtx n fun x => { x with lfsr := c.lfsr }).raiseCv seq c

end Sys2Proof.Machine
end

