-- ==== Sys2Proof/Machine/Issue.lean ====
section
/-! DEFINITION. Issue of the command at the head of an engine's queue: what a class accepts (R65, R76), the conditions
of issue (R71, R394), the ways an execution goes on (R97), and the commands of the control family that every class has
(R77, R78, R106). -/

namespace Sys2Proof.Machine

/-- How the execution of a command goes on: it completes, possibly with a reason for its completion record (R417); it
waits unissued, which may leave a mark; it stays in execution; or it halts with reason, detail, progress, a position that only the unit reads,
and whether part of its work is done. -/
inductive Run
  | done (s : State)
  | doneWith (s : State) (reason detail : Nat)
  | wait
  | stay (f : State → State)
  | busy (s : State) (f : InFlight)
  | halt (s : State) (reason detail progress pos : Nat) (begun : Bool)

/-- The opcodes that a class accepts, with subcode values that R84 defines, family 0xF_ in debug mode alone (R65,
R76, R77). -/
def State.accepts (s : State) (cls : EngineClass) (w : Nat) : Bool :=
  let op := cb w 0 1
  let sub := cb w 4 1
  let common := op ≤ 0x02 || (op == 0x03 && (clsOfPhrase cls || !bit sub 0)) || (op == 0xF0 && s.trust.unlocked)
  match cls with
  | .array => common || op == 0x04 || op == 0x05 || (0x20 ≤ op && op ≤ 0x26) ||
      ((op == 0xF1 || op == 0xF2) && s.trust.unlocked)
  | .vector => common || op == 0x04 || op == 0x05 || (0x30 ≤ op && op ≤ 0x37)
  | .move => common || op == 0x04 || op == 0x05 || (0x40 ≤ op && op ≤ 0x46)
  | .embed => common || (0x50 ≤ op && op ≤ 0x52)
  | .update => common || (0x60 ≤ op && op ≤ 0x62)
  | .fabric => common || (op == 0x70 && sub ≤ 5) || (op == 0x71 && sub == 0) || (op == 0x72 && sub ≤ 1) ||
      (op == 0x73 && sub == 0) || (op == 0x74 && sub ≤ 4)
  | .sched => false

/-- Whether an EE hands its clauses to another (R430). -/
def State.handsOver (s : State) (k : Nat) : Bool :=
  s.svc.runs.any fun r => r.op == 1 && r.cls == 2 && r.unit == k && r.mode == 1

/-- Whether a clause names a unit that is leaving or out of service: its phrase or EE, or the phrase it declares on. -/
def State.unitAway (s : State) (q : QueueId) (cl : Clause) : Bool :=
  (clsOfPhrase q.cls && s.reg (K.phraseService q.unit) != 0) ||
    (q.cls == .embed && (s.reg (K.eeService q.unit) != 0 || (cl.declUnit < 8 && s.reg (K.phraseService cl.declUnit) != 0)))

/-- The unit that a clause names and the grade has not, or that is not in service, while physical binding is on: reason and number (R4,
R36). -/
def State.unitMissing (s : State) (q : QueueId) (cl : Clause) : Option (Nat × Nat) :=
  let phrase (n : Nat) : Option (Nat × Nat) :=
    if s.phrasePresent n = false then some (0x10, n) else if s.phraseUp n = false then some (0x11, n) else none
  if s.physical = false then none
  else if clsOfPhrase q.cls then phrase cl.logical
  else if q.cls = .embed then
    if s.eePresent cl.logical = false then some (0x10, cl.logical)
    else if s.eeUp cl.logical = false then some (0x11, cl.logical)
    else if cl.declPhrase = 0xFF then none else phrase cl.declPhrase
  else none

/-- Whether a unit that leaves service holds back its head command: that of a clause that has not issued, but for one that a later
clause of the phrase, which has issued, may wait for; or any command of an EE that hands its clauses over (R105, R430). -/
def State.drainHolds (s : State) (q : QueueId) (c : QCmd) (cl : Clause) : Bool :=
  !s.physical && s.unitAway q cl && ((q.cls == .embed && s.handsOver q.unit) ||
    (c.idx == 0 && !c.again && !s.clauses.any fun e =>
      e.seq > cl.seq && e.next != 0 && cl.declUnit < 8 && e.declUnit == cl.declUnit))

/-- The command at the head of a queue and its clause, where it may issue: no halt and no command in execution, the
issue gate open, the clock running and the clause not held by the governor (R71, R376, R394). -/
def State.headOf (s : State) (q : QueueId) : Option (QCmd × Clause) :=
  match s.queue q with
  | none => none
  | some Q =>
    if Q.halt.isSome || Q.infl.isSome || s.gateClosed || !s.powered || !s.clockOf q then none
    else match Q.cmds with
      | [] => none
      | c :: _ => match s.clause c.seq with
        | none => none
        | some cl => if cl.held || s.drainHolds q c cl then none else some (c, cl)

/-- The state in which a command has issued: its unit is Active, its queue's LFSR has advanced, and the issue is
counted (R8, R466, R463). A resumed command has issued before. -/
def State.started (s : State) (q : QueueId) (c : QCmd) (cl : Clause) : State :=
  let st := match queuePower q with | some u => s.powerOf u | none => 0
  let s := match queuePower q with | some u => s.wake u | none => s
  if c.again then s
  else (s.sampleIssue q c cl st).count (queueCounter q) 0x05 1 (some cl.job)

/-- The detected faults that a class's units report (R204, R226, R227, R412). -/
def faultOf (cls : EngineClass) (f : Option HwFault) : Option HwFault :=
  f.filter fun h => h.reason == 0x30 || (h.reason == 0x31 && cls == .array) || (h.reason == 0x32 && cls == .vector) ||
    (h.reason == 0x33 && cls == .update)

/-- The state after an execution's outcome; a waiting command has not issued, so nothing has changed. -/
def State.settleRun (s : State) (q : QueueId) (c : QCmd) (cl : Clause) : Run → State
  | .done t => t.completeCmd q none
  | .doneWith t r d => t.completeCmd q (some (r, d))
  | .wait => s
  | .stay f => f s
  | .busy t f => t.modQueue q fun Q => { Q with infl := some f }
  | .halt t r d p pos b => t.haltCmd q c cl r d p pos b

/-- Issues the head command of a queue where `mine` says that it is the row's command: a command whose bytes cannot be
read, or that the class does not accept, halts; another command leaves everything as it is. -/
def State.issue (s : State) (q : QueueId) (mine : Nat → Bool) (flt : Option HwFault)
    (body : State → QCmd → Clause → Option HwFault → Run) : State :=
  match s.headOf q with
  | none => s
  | some (c, cl) =>
    match c.bad with
    | some (r, d) => s.settleRun q c cl (.halt (s.started q c cl) r d 0 0 false)
    | none =>
      match (if c.idx = 0 ∧ c.again = false then s.unitMissing q cl else none) with
      | some (r, d) => s.settleRun q c cl (.halt (s.started q c cl) r d 0 0 false)
      | none =>
      if s.accepts q.cls c.word = false then s.settleRun q c cl (.halt (s.started q c cl) 0x01 0 0 0 false)
      else if mine c.word = false then s
      else s.settleRun q c cl (body (s.started q c cl) c cl (faultOf q.cls flt))

/-- Whether a command word has an opcode. -/
def isOp (op : Nat) (w : Nat) : Bool := cb w 0 1 == op

/-- A halt before any of the command's work. -/
def Run.refuse (s : State) (reason detail : Nat) : Run := .halt s reason detail 0 0 false

/-- A resumed command that halts before it has gone on is where it halted before: its progress and position stand (R98, R135, R151). -/
def Run.resumed (c : QCmd) : Run → Run
  | .halt s r d p pos b => if c.again ∧ p = 0 ∧ pos = 0 ∧ b = false then .halt s r d c.prog c.pos (c.prog != 0 || c.pos != 0)
                           else .halt s r d p pos b
  | x => x

/-- A body behind its decode checks (R69, R102). -/
def decoded (s : State) (checks : List (Bool × Nat × Nat)) (k : Run) : Run :=
  match firstFail checks with
  | some (r, d) => Run.refuse s r d
  | none => k

/-! ### Faults of the memories and datapaths that a command uses (R204, R227, R412 to R414) -/

/-- Bytes of a protected structure: its code, the first byte and how many. -/
abbrev Words := Nat × Nat × Nat

/-- Whether a byte of a structure lies in one of some runs. -/
def inWords (l : List Words) (code off : Nat) : Bool := l.any fun x => x.1 == code && x.2.1 ≤ off && off < x.2.1 + x.2.2

/-- The bytes of the protected structures that an operand of a phrase names: local buffer, tile buffers, transposing buffer, staging
plane and wide spill buffer (R204, R227, R414). An operand with a bound of its own goes across the lanes of a half. -/
def opndWords (c : PhraseCtx) (o : Opnd) : List Words :=
  let r := opRes o.v
  if o.named = false then (if r = 0x10C then [(0x01, 0, 65536)] else [(0x05, 98304 * (r - 0x104), 98304)])
  else match c.locOf r with
    | none => []
    | some (.tile i) => [(0x05, 98304 * i + opOff o.v, o.ext)]
    | some (.store base n) =>
      if r < 0x100 then [(0x0A, base + opOff o.v, o.ext)]
      else if r ≤ 0x103 then [(0x06 + (r - 0x100), opOff o.v, o.ext)]
      else if o.lim ≠ 0 then [(0x0B, n * (r - 0x10E), n)]
      else [(0x0B, n * (r - 0x10E) + opOff o.v, o.ext)]

/-- The detail that names a unit as the place of a fault: location classes 0xFE for EE datapaths, 0xFD for the fabric engine, 0xFC for
phrase sequencers (R413). -/
def locDetail (cls unit : Nat) : Nat := 0xFFFFFFFFFFFF0000 + 256 * cls + unit

/-- The location class of a unit's datapath or sequencer; 0 where R413 gives none. -/
def locClass (cls : EngineClass) : Nat :=
  match cls with
  | .array | .vector | .move => 0xFC
  | .embed => 0xFE
  | .fabric => 0xFD
  | _ => 0

/-- The class (R428) and unit whose structure a code is, for a command of queue `q` that uses phrase `n`. -/
def wordOwner (q : QueueId) (n code : Nat) : Nat × Nat :=
  if code ≤ 0x0D then (1, n) else if code ≤ 0x0F then (2, q.unit) else if code = 0x10 then (3, q.unit) else (0x0B, 0)

/-- Whether a listed word lies in runs that a command uses. -/
def hitWords (q : QueueId) (n : Nat) (words : List Words) (m : Nat × Nat × Nat × Nat) : Bool :=
  wordOwner q n m.2.2.1 == (m.1, m.2.1) && inWords words m.2.2.1 m.2.2.2

/-- The fault that a command meets which reads some words: a word that a scrub found bad (R416), a fault of the row in one of those
words or in the unit's own logic, or what `check` makes of a check's mismatch; any other strikes nothing that the command uses. -/
def State.unitFault (s : State) (q : QueueId) (n : Nat) (words : List Words) (check : HwFault → Option HwFault) (flt : Option HwFault) :
    Option HwFault :=
  match s.svc.badWords.find? (hitWords q n words) with
  | some m => some { reason := 0x30, detail := m.2.2.1 + 256 * m.2.2.2, progress := 0 }
  | none => flt.bind fun h =>
    if h.reason = 0x30 then
      if locClass q.cls ≠ 0 ∧ h.detail = locDetail (locClass q.cls) q.unit then some h
      else if inWords words (h.detail % 256) (bits h.detail 8 40) then some { h with detail := h.detail % 2 ^ 48 }
      else none
    else check h

/-- Words that a command overwrote are bad no more (R416). -/
def State.overwrite (s : State) (q : QueueId) (n : Nat) (words : List Words) : State :=
  if s.svc.badWords = [] then s
  else { s with svc := { s.svc with badWords := s.svc.badWords.filter fun m => !hitWords q n words m } }

/-- An outcome that completes or goes on, its state changed. -/
def Run.after (f : State → State) : Run → Run
  | .done s => .done (f s)
  | .doneWith s r d => .doneWith (f s) r d
  | .busy s x => .busy (f s) x
  | x => x

/-- The words that operands of a phrase read, and those they write. -/
def boardWords (c : PhraseCtx) (write : Bool) (l : List Opnd) : List Words := (l.filter (·.write == write)).flatMap (opndWords c)

/-- A body behind the scoreboard (R90), given the fault that strikes it; `more` are words it reads beside its operands. -/
def boarded (s : State) (cl : Clause) (n : Nat) (l : List Opnd) (more : List Words) (check : HwFault → Option HwFault)
    (flt : Option HwFault) (k : Option HwFault → Run) : Run :=
  let q : QueueId := ⟨cl.cls, cl.unit⟩
  match s.board cl n l with
  | .stop r d => Run.refuse s r d
  | .wait => .wait
  | .go => (k (s.unitFault q n (boardWords (s.ctx n) false l ++ more) check flt)).after fun t =>
      t.overwrite q n (boardWords (s.ctx n) true l)

/-- A unit without a check of its own arithmetic. -/
abbrev noCheck : HwFault → Option HwFault := fun _ => none

/-! ### Control commands -/

/-- NOP does nothing (R76). -/
def runNop (s : State) (c : QCmd) (_ : Clause) (_ : Option HwFault) : Run :=
  decoded s [(reservedSet c.word [(0, 8)], 0x02, 0)] (.done s)

/-- CLAUSE_OPEN at its place opens the clause; later it is malformed (R85, R86, R87). -/
def runClauseOpen (s : State) (c : QCmd) (_ : Clause) (_ : Option HwFault) : Run :=
  decoded s [(c.idx != 0, 0x08, 0)] (.done s)

/-- CLAUSE_DECL at its place declares, which admission has done; later it is malformed (R86, R89). -/
def runClauseDecl (s : State) (c : QCmd) (cl : Clause) (_ : Option HwFault) : Run :=
  decoded s [(c.idx = 0 || cl.declCount < c.idx, 0x08, 0)] (.done s)

/-- FENCE: earlier commands of the queue have completed when it issues; with scope 1 it waits for every earlier-admitted
command of the job in the three queues of its phrase (R77). -/
def runFence (s : State) (c : QCmd) (cl : Clause) (_ : Option HwFault) : Run :=
  decoded s [(reservedSet c.word [(0, 8), (32, 1)], 0x02, 0)]
    (if bit c.word 32 && s.clauses.any fun e =>
        clsOfPhrase e.cls && e.unit == cl.unit && e.job == cl.job && e.seq < cl.seq then .wait
     else .done s)

/-- Whether two runs of 4 KiB units overlap. -/
def overlap (a n b m : Nat) : Bool := a < b + m && b < a + n

/-- REGION_DEFINE (R77, R78): a write of its region; it halts where the region leaves the local buffer or overlaps
another region of the job. -/
def runRegionDefine (s : State) (c : QCmd) (cl : Clause) (_ : Option HwFault) : Run :=
  let w := c.word
  let r := cb w 4 1
  let base := bits w 64 11
  let len := bits w 80 12
  decoded s [ (reservedSet w [(0, 8), (32, 8), (64, 11), (80, 12)], 0x02, 0),
              (len = 0, 0x04, len) ]
    (if declaresWrite cl r = false then Run.refuse s 0x07 r
     else if base + len > 2048 ∨ (s.ctx cl.unit).regions.any fun x => x.1 != r && overlap base len x.2.1 x.2.2 then
       Run.refuse s 0x06 r
     else if s.mustWait cl cl.unit r true then .wait
     else .done (s.modCtx cl.unit fun x => { x with regions := x.regions.filter (·.1 != r) ++ [(r, base, len)] }))

/-- REGION_RELEASE (R76): a write of its region, which becomes undefined. -/
def runRegionRelease (s : State) (c : QCmd) (cl : Clause) (_ : Option HwFault) : Run :=
  let r := cb c.word 4 1
  decoded s [(reservedSet c.word [(0, 8), (32, 8)], 0x02, 0)]
    (match (s.ctx cl.unit).region r with
     | none => Run.refuse s 0x05 r
     | some _ =>
       if declaresWrite cl r = false then Run.refuse s 0x07 r
       else if s.mustWait cl cl.unit r true then .wait
       else .done (s.modCtx cl.unit fun x => { x with regions := x.regions.filter (·.1 != r) }))

/-- DEBUG_BREAK halts its engine with its tag (R106). -/
def runDebugBreak (s : State) (c : QCmd) (_ : Clause) (_ : Option HwFault) : Run :=
  decoded s [(reservedSet c.word [(0, 8), (128, 64)], 0x02, 0)]
    (if c.again then .done s else .halt s 0xF0 (cb c.word 16 8) 0 0 false)

/-- NOP (R76). -/
def execNop (q : QueueId) (s : State) : Host.Outcome State Fault Refusal :=
  finish s (s.issue q (isOp 0x00) none runNop)

/-- CLAUSE_OPEN (R85, R87). -/
def execClauseOpen (q : QueueId) (s : State) : Host.Outcome State Fault Refusal :=
  finish s (s.issue q (isOp 0x01) none runClauseOpen)

/-- CLAUSE_DECL (R86, R89). -/
def execClauseDecl (q : QueueId) (s : State) : Host.Outcome State Fault Refusal :=
  finish s (s.issue q (isOp 0x02) none runClauseDecl)

/-- FENCE (R77). -/
def execFence (q : QueueId) (s : State) : Host.Outcome State Fault Refusal :=
  finish s (s.issue q (isOp 0x03) none runFence)

/-- REGION_DEFINE (R78). -/
def execRegionDefine (q : QueueId) (s : State) : Host.Outcome State Fault Refusal :=
  finish s (s.issue q (isOp 0x04) none runRegionDefine)

/-- REGION_RELEASE (R89). -/
def execRegionRelease (q : QueueId) (s : State) : Host.Outcome State Fault Refusal :=
  finish s (s.issue q (isOp 0x05) none runRegionRelease)

/-- DEBUG_BREAK (R106). -/
def execDebugBreak (q : QueueId) (s : State) : Host.Outcome State Fault Refusal :=
  finish s (s.issue q (isOp 0xF0) none runDebugBreak)

/-- The halt that DEBUG_BREAK left in a queue. -/
def State.breakOf (s : State) (q : QueueId) : Option Halt :=
  match s.queue q with
  | some Q => Q.halt.filter fun h => h.reason == 0xF0
  | none => none

/-- Whether the dictionary serves a vendor-role request now: debug is unlocked, and core 3 runs (R106, R380, R482). -/
def State.debugServed (s : State) : Bool := s.trust.unlocked && !s.coreOut 3

/-- A vendor-role resume through the dictionary of an engine that DEBUG_BREAK halted (R106). -/
def execDebugHaltResume (q : QueueId) (s : State) : Host.Outcome State Fault Refusal :=
  finish s (match s.breakOf q with
    | some h => if s.debugServed then (s.wake (.core 3)).resume q h else s
    | none => s)

/-- A vendor-role end through the dictionary of a clause that DEBUG_BREAK halted (R98, R106). -/
def execDebugHaltEnd (q : QueueId) (s : State) : Host.Outcome State Fault Refusal :=
  finish s (match s.breakOf q with
    | some h => if s.debugServed then (s.wake (.core 3)).endHalted q h else s
    | none => s)

end Sys2Proof.Machine
end

