-- ==== Sys2Proof/Machine/Array.lean ====
section
/-! DEFINITION. The matrix array (R185 to R210): the staging and live planes, passes, spills, read-out, the scale and
rescale tables (R53, R54, R59, R60, R80), element-wise mode and the debug access to the accumulators. -/

namespace Sys2Proof.Machine

/-! ### Accumulator banks and the open product (R197, R198, R209) -/

/-- Bank `i` of the accumulators. -/
def PhraseCtx.bank (c : PhraseCtx) (i : Nat) : Buf := if i = 0 then c.bank0 else c.bank1

/-- The state with bank `i` set. -/
def PhraseCtx.setBank (c : PhraseCtx) (i : Nat) (b : Buf) : PhraseCtx :=
  if i = 0 then { c with bank0 := b } else { c with bank1 := b }

/-- A seed for contents that a halt leaves undefined. -/
def State.bufSeed (s : State) (i : Nat) : Nat := 2 ^ 64 + 16 * s.free + i

/-- Contents that nothing promises. -/
def State.anyBuf (s : State) (i : Nat) : Buf := { bg := some (s.bufSeed i), cells := [] }

/-- What a halt at execution leaves of an array (R209): both banks and the open product's spill tile undefined, no product open. A
product with spill_n 0 has no spill tile (DEDUCED, log 85). -/
def State.arrayHalt (s : State) (n : Nat) : State :=
  s.modCtx n fun c => { c with
    bank0 := s.anyBuf 0
    bank1 := s.anyBuf 1
    spill := match c.product with
      | some p => if p.spilled || p.spillN != 0 then c.spill.modify p.spillTile fun _ => s.anyBuf 2 else c.spill
      | none => c.spill
    retired := []
    product := none
    spilling := none }

/-- A halt of an ARRAY command at execution (R209). -/
def arrayStop (s : State) (n reason detail progress : Nat) (begun : Bool) : Run :=
  .halt (s.arrayHalt n) reason detail progress 0 begun

/-- Opens a product in the bank that the previous one does not hold, all rows at +0 (R197). -/
def PhraseCtx.openProduct (c : PhraseCtx) (spillN spillTile : Nat) (byClear : Bool) : PhraseCtx :=
  let b := 1 - c.lastBank
  { c.setBank b bufZero with
    lastBank := b
    product := some { bank := b, passes := 0, run := 0, spillN := spillN, spillTile := spillTile, spilled := false,
                      byClear := byClear } }

/-- The accumulator of row `m`, column `n`, as an fp32 code. -/
def accAt (b : Buf) (m n : Nat) : Nat := bufGet b (128 * m + n) 32

/-! ### Coded operands (R53, R54) -/

/-- Scale register entry `i`. -/
def PhraseCtx.scaleAt (c : PhraseCtx) (i : Nat) : Nat := cellGet 0 i c.scale

/-- The format that a target field names (R53). -/
def targetFmt (t : Nat) : Nat := match t with | 0 => fmBf16 | 1 => fmE4m3 | _ => fmE5m2

/-- The target of a scale entry. -/
def scaleTarget (e : Nat) : Nat := targetFmt (bits e 42 2)

/-- The format that `n` coded channels from entry `base` expand to, or why they cannot (R54, R193): an index beyond
4,095, an entry of another code format, several targets. -/
def PhraseCtx.expandFmt (c : PhraseCtx) (f base n : Nat) : Except (Nat × Nat) Nat :=
  if isCode f = false then .ok f
  else if base + n > 4096 then .error (0x04, 4096)
  else
    let es := (List.range n).map fun i => c.scaleAt (base + i)
    let t := scaleTarget (es.headD 0)
    if es.any fun e => bits e 40 2 != f - fmI8 then .error (0x03, f)
    else if es.any fun e => scaleTarget e != t then .error (0x03, f)
    else .ok t

/-- One code of channel entry `e` expanded into a format, nearest even, with the command's saturate bit (R46, R54). -/
def expandCode (e t : Nat) (sat : Bool) (code : Nat) : Coded :=
  encode t 0 sat 0 (dequant (bits e 0 32) code (bits e 32 8))

/-- Elements expanded, with the channel of each: the codes, OVERFLOW and NONFINITE. -/
def PhraseCtx.expand (c : PhraseCtx) (f t base : Nat) (sat : Bool) (chan : Nat → Nat) (l : List Nat) :
    List Nat × Bool × Bool :=
  if isCode f = false then (l, false, false)
  else
    let r := l.zipIdx.map fun x => expandCode (c.scaleAt (base + chan x.2)) t sat x.1
    (r.map (·.code), r.any (·.ovf), r.any fun x => nonfinite t x.code)

/-! ### STAT_LOAD (R188, R189) -/

/-- Elements `i` of lanes of a transposing buffer half: the element at a lane offset of one lane. -/
def PhraseCtx.laneElem (c : PhraseCtx) (r f off lane i : Nat) : Nat :=
  let at8 := i * fmtBits f / 8
  bits (leNat (c.readLocal r (2048 * lane + off + at8) (ceilDiv (fmtBits f) 8))) (i * fmtBits f % 8) (fmtBits f)

/-- The decode checks of a STAT_LOAD (R188, R189). -/
def statChecks (w : Nat) : List (Bool × Nat × Nat) :=
  let f := cb w 16 1 % 16
  [ (reservedSet w (headFields ++ [(32, 32), (128, 4)]), 0x02, 0),
    (rndOf w = 3, 0x03, 3),
    (!(isMult f || isCode f) || (isHalf (opRes (cb w 4 4)) && f == fmI4), 0x03, f),
    (countOf w = 0 || countOf w > 128, 0x04, countOf w) ]

/-- Its operands: the source, and the staging plane that it writes (R189). The rule lists no spill tile as a source and gives no outcome
for one: REGION_UNDEFINED (DESIGN CHOICE, log 85). -/
def statOpnds (w : Nat) : List Opnd :=
  let f := cb w 16 1 % 16
  let v := cb w 4 4
  let half := isHalf (opRes v)
  [{ v := v, ext := if half then countOf w * fmtBits f / 8 else packedBytes f (128 * countOf w), lim := if half then 2048 else 0
     write := false, ok := isPlain (opRes v) || half, named := true }, implied 0x10C true]

/-- The elements that a STAT_LOAD reads, row by row: 128 to a row, from a transposing buffer half one of each lane (R188, R202). -/
def statElems (x : PhraseCtx) (w : Nat) : List Nat :=
  let f := cb w 16 1 % 16
  let v := cb w 4 4
  if isHalf (opRes v) then
    (List.range (countOf w)).flatMap fun i => (List.range 128).map fun lane => x.laneElem (opRes v) f (opOff v) lane i
  else x.readElems v f (128 * countOf w)

/-- The staging plane after `rows` rows of a STAT_LOAD; the rows after them hold what they held. -/
def statStaged (x : PhraseCtx) (w rows : Nat) : Staging where
  fmt := cb w 16 1 % 16
  kLive := countOf w
  elems :=
    if rows = countOf w then statElems x w
    else (statElems x w).take (128 * rows) ++ (x.staging.elems ++ List.replicate (128 * countOf w) 0).drop (128 * rows) |>.take (128 * countOf w)

/-- Loads rows into the staging plane. -/
def runStatLoad (s : State) (c : QCmd) (cl : Clause) (flt : Option HwFault) : Run :=
  let w := c.word
  let n := cl.unit
  let put (rows : Nat) : State := s.modCtx n fun x => { x with staging := statStaged x w rows }
  decoded s (statChecks w)
    (boarded s cl n (statOpnds w) [] noCheck flt fun flt =>
      match flt with
      | some h => arrayStop (put (min h.progress (countOf w))) n h.reason h.detail (min h.progress (countOf w)) (h.progress != 0)
      | none => .done (put (countOf w)))

/-- STAT_LOAD (R188). -/
def execStatLoad (n : Nat) (flt : Option HwFault) (s : State) : Host.Outcome State Fault Refusal :=
  finish s (s.issue ⟨.array, n⟩ (isOp 0x20) flt runStatLoad)

/-! ### PASS (R187, R190 to R199, R203) -/

/-- The elements of the streamed rows, row by row, `k` to a row (R187). -/
def PhraseCtx.streamRows (c : PhraseCtx) (v f k rows : Nat) (transposed : Bool) : List Nat :=
  let r := opRes v
  if isHalf r then
    (List.range rows).flatMap fun m => (List.range k).map fun i =>
      if transposed then c.laneElem r f (opOff v) i m else c.laneElem r f (opOff v) m i
  else c.readElems v f (rows * k)

/-- The product a PASS adds into, or the reason and detail of R198 for different spill fields. `none` means that the
PASS opens a new one. -/
def passProduct (x : PhraseCtx) (acc : Bool) (spillN spillTile : Nat) : Except (Nat × Nat) (Option Product) :=
  match x.product with
  | none => .ok none
  | some p =>
    if acc = false then .ok none
    else if p.byClear then .ok (some { p with spillN := spillN, spillTile := spillTile, byClear := false })
    else if p.spillN ≠ spillN then .error (0x04, spillN)
    else if p.spillTile ≠ spillTile then .error (0x04, spillTile)
    else .ok (some p)

/-- One row of a bank after a pass: every column's fp32 sum takes the row's products in an order nothing promises
(R56, R185). `a` are the row's elements, `t` the tile; the answer also carries OVERFLOW and NONFINITE. -/
def passRow (b : Buf) (seed m : Nat) (sat : Bool) (a : List Num) (t : List Num) : Buf × Bool × Bool :=
  (List.range 128).foldl (fun r n =>
    let terms := a.zipIdx.map fun x => x.1.mul (t.getD (128 * x.2 + n) zeroNum)
    let sum := sumTerms fmF32 sat seed (128 * m + n) (decodeNum fmF32 (accAt b m n) :: terms)
    let code := (near fmF32 sum.1).code
    (bufPut r.1 (128 * m + n) code, r.2.1 || sum.2, r.2.2 || !sum.1.isFin)) (b, false, false)

/-- The rows of a bank after a pass of `rows` streamed rows of `k` elements. -/
def passRows (seed : Nat) (sat : Bool) (k : Nat) (a t : List Num) : Nat → Buf → Buf × Bool × Bool
  | 0, b => (b, false, false)
  | m + 1, b =>
    let r := passRows seed sat k a t m b
    let q := passRow r.1 seed m sat ((a.drop (k * m)).take k) t
    (q.1, r.2.1 || q.2.1, r.2.2 || q.2.2)

/-- The stationary columns per row, and the format, of the tile that a PASS uses: the staging plane's where it swaps (R187, R191). -/
def passK (x : PhraseCtx) (w : Nat) : Nat :=
  if bit w 144 then x.staging.kLive else match x.live with | some t => t.kLive | none => 0
/-- The tile's format. -/
def passTileFmt (x : PhraseCtx) (w : Nat) : Nat :=
  if bit w 144 then x.staging.fmt else match x.live with | some t => t.fmt | none => 0

/-- The formats that the streamed and the stationary operand expand to (R54, R193). -/
def passStreamFmt (x : PhraseCtx) (w : Nat) : Except (Nat × Nat) Nat := x.expandFmt (bits w 128 4) (bits w 176 12) (countOf w)
/-- The stationary operand's. -/
def passStatFmt (x : PhraseCtx) (w : Nat) : Except (Nat × Nat) Nat :=
  if bit w 144 then x.expandFmt (bits w 132 4) (bits w 176 12) 128 else .ok (bits w 132 4)

/-- The product that a PASS names, by its accumulate bit and spill fields. -/
def passProd (x : PhraseCtx) (w : Nat) : Except (Nat × Nat) (Option Product) :=
  passProduct x (bit w 145) (bits w 152 8) (bits w 160 3)

/-- bf16 does not meet fp16 (R193). -/
def halvesMixed (a b : Nat) : Bool := (a == fmBf16 && b == fmF16) || (a == fmF16 && b == fmBf16)

/-- The decode checks of a PASS (R187, R190, R193, R198, R203). -/
def passChecks (x : PhraseCtx) (w : Nat) : List (Bool × Nat × Nat) :=
  let fa := bits w 128 4
  let fb := bits w 132 4
  let rows := countOf w
  let bad : Bool × Nat × Nat := match passStreamFmt x w, passStatFmt x w with
    | .error e, _ => (true, e)
    | _, .error e => (true, e)
    | .ok a, .ok b => (halvesMixed a b, 0x03, fb)
  [ (reservedSet w (headFields ++ [(32, 32), (128, 8), (144, 2), (147, 1), (152, 8), (160, 3), (176, 12)]), 0x02, 0),
    (rndOf w = 3, 0x03, 3),
    (!(isMult fa || isCode fa), 0x03, fa),
    (rows = 0 || rows > 128, 0x04, rows),
    (decide (bits w 152 8 > 64), 0x04, bits w 152 8),
    (isCode fa && isCode fb, 0x03, fb),
    (halvesMixed fa fb, 0x03, fb),
    (fa == fmI4 && bit w 147 && isHalf (opRes (cb w 4 4)), 0x03, fa),
    (passK x w = 0, 0x05, 0x10C),
    (fb != passTileFmt x w, 0x03, fb),
    (fa == fmI4 && passK x w % 2 == 1, 0x04, passK x w),
    bad,
    match passProd x w with | .error e => (true, e.1, e.2) | .ok _ => (false, 0, 0) ]

/-- The open product that a PASS adds into; none where it opens one. -/
def passInto (x : PhraseCtx) (w : Nat) : Option Product := match passProd x w with | .ok p => p | .error _ => none

/-- Whether a PASS first spills the bank of its product (R198). -/
def passSpills (x : PhraseCtx) (w : Nat) : Bool := match passInto x w with | some p => p.spillN != 0 && p.run == p.spillN | none => false

/-- Whether a product that does not spill has taken its 64 passes (R198). -/
def passFull (x : PhraseCtx) (w : Nat) : Bool := match passInto x w with | some p => p.spillN == 0 && p.passes == 64 | none => false

/-- The operands of a PASS: the streamed rows, the staging plane where it swaps, the spill tile where it spills (R189, R198). R187 has
no row for a spill tile with transposed 0: REGION_UNDEFINED (DESIGN CHOICE, log 85). -/
def passOpnds (x : PhraseCtx) (w : Nat) : List Opnd :=
  let v := cb w 4 4
  let fa := bits w 128 4
  let half := isHalf (opRes v)
  [{ v := v
     ext := if half then (if bit w 147 then countOf w * fmtBits fa / 8 else packedBytes fa (passK x w))
            else packedBytes fa (countOf w * passK x w)
     lim := if half then 2048 else 0, write := false
     ok := half || (!bit w 147 && isPlain (opRes v)), named := true }] ++
    (if bit w 144 then [implied 0x10C false] else []) ++ (if passSpills x w then [implied (0x104 + bits w 160 3) true] else [])

/-- fp32 of a sum in an order that nothing promises. -/
def sumF32 (seed n : Nat) (l : List Num) : Num := (sumTerms fmF32 false seed n l).1

/-- The check elements of each cell row of a tile: c_k, the sum of its 128 elements, and g_k, that of their magnitudes (R203). -/
def checkElems (seed kLive : Nat) (t : List Num) : List (Nat × Nat) :=
  (List.range kLive).map fun k =>
    let row := (t.drop (128 * k)).take 128
    ((near fmF32 (sumF32 seed (2 ^ 15 + k) row)).code, (near fmF32 (sumF32 seed (2 ^ 16 + k) (row.map Num.abs))).code)

/-- The swap of a PASS: the new live tile with its check elements, the one it retires, and whether the expansion raised flags (R190,
R191). PASS commands of a queue complete in order, so no pass of an older tile is left in the cells. -/
def passSwap (x : PhraseCtx) (seed w : Nat) : PhraseCtx × Bool × Bool :=
  let fB := match passStatFmt x w with | .ok f => f | .error _ => bits w 132 4
  let st := x.expand (bits w 132 4) fB (bits w 176 12) (satOf w) (fun i => i % 128) x.staging.elems
  if bit w 144 then
    ({ x with live := some { fmt := fB, kLive := passK x w, elems := st.1
                             checks := checkElems seed (passK x w) (st.1.map (decodeNum fB)) }
              retired := x.live.toList }, st.2)
  else (x, false, false)

/-- The product's bank made ready: a new product is opened, a full run is spilled to make room, another goes on (R197, R198). -/
def passBank (x : PhraseCtx) (w : Nat) : Option Product → PhraseCtx
  | none => x.openProduct (bits w 152 8) (bits w 160 3) false
  | some p =>
    if p.spillN != 0 && p.run == p.spillN then
      { x.setBank (1 - p.bank) bufZero with
        lastBank := 1 - p.bank
        spilling := some (p.bank, p.spillTile, !p.spilled)
        product := some { p with bank := 1 - p.bank, run := 0, spilled := true } }
    else { x with product := some p }

/-- The state after `done` rows of a PASS have streamed: its tile swapped in, its bank ready and every row's sums added (R185, R191,
R197), the clause's flags raised and the rows counted. -/
def passWork (s : State) (c : QCmd) (cl : Clause) (done : Nat) : State :=
  let w := c.word
  let n := cl.unit
  let x := s.ctx n
  let fa := bits w 128 4
  let fA := match passStreamFmt x w with | .ok f => f | .error _ => fa
  let sw := passSwap x s.free w
  let x2 := passBank sw.1 w (passInto x w)
  let b := match x2.product with | some p => p.bank | none => 0
  let sm := x.expand fa fA (bits w 176 12) (satOf w) (fun i => i / passK x w)
    (x.streamRows (cb w 4 4) fa (passK x w) (countOf w) (bit w 147))
  let a := sm.1.map (decodeNum fA)
  let t := match sw.1.live with | some t => t.elems.map (decodeNum t.fmt) | none => []
  let r := passRows s.free (satOf w) (passK x w) a t done (x2.bank b)
  let nf := r.2.2 || a.any (fun y => !y.isFin) || t.any (fun y => !y.isFin)
  let x3 := x2.setBank b r.1
  let x4 := { x3 with product := x3.product.map fun p => { p with passes := p.passes + 1, run := p.run + 1 } }
  let s := (s.modCtx n fun _ => x4).raise c.seq (sw.2.1 || sm.2.1 || r.2.1) (nf || sw.2.2 || sm.2.2)
  let s := if bit w 144 then (s.bump (K.arySwaps n) 1).count (3 * n) 0x11 1 (some cl.job) else s
  let s := (s.bump (K.aryRowsStreamed n) done).count (3 * n) 0x10 done (some cl.job)
  if passSpills x w then (s.bump (K.arySpills n) 1).count (3 * n) 0x13 1 (some cl.job) else s

/-- The comparison of a streamed row's sums (R203): whether they mismatch. -/
def checkRow (s c b : Num) : Bool :=
  if s.isFin && c.isFin && b.isFin then
    ((Num.fin false 1 (-9)).mul b |>.add (.fin false 1 (-120))).lt (s.sub c).abs
  else false

/-- The sums of streamed row `m` of a PASS: s of the 128 column results, c and b of the check columns (R203). -/
def passSums (s : State) (n w m : Nat) : Num × Num × Num :=
  let x := s.ctx n
  let fA := match passStreamFmt x w with | .ok f => f | .error _ => bits w 128 4
  let k := passK x w
  let a := ((x.expand (bits w 128 4) fA (bits w 176 12) (satOf w) (fun i => i / k)
    (x.streamRows (cb w 4 4) (bits w 128 4) k (countOf w) (bit w 147))).1.map (decodeNum fA)).drop (k * m) |>.take k
  match (passSwap x s.free w).1.live with
  | none => (zeroNum, zeroNum, zeroNum)
  | some t =>
    let y (n : Nat) : Num := sumF32 s.free (128 * m + n)
      (a.zipIdx.map fun e => e.1.mul (decodeNum t.fmt (t.elems.getD (128 * e.2 + n) 0)))
    let chk (i : Nat) : Nat × Nat := t.checks.getD i (0, 0)
    (sumF32 s.free (2 ^ 17) ((List.range 128).map y),
     sumF32 s.free (2 ^ 17 + 1) (a.zipIdx.map fun e => e.1.mul (decodeNum fmF32 (chk e.2).1)),
     sumF32 s.free (2 ^ 17 + 2) (a.zipIdx.map fun e => e.1.abs.mul (decodeNum fmF32 (chk e.2).2)))

/-- ARRAY_CHECK of a column and a pass number (R102, R203). -/
def checkFault (h : HwFault) (column pass : Nat) : HwFault := { h with detail := column + 2 ^ 16 * pass }

/-- The mismatch of a residue in column n, the low 16 bits of the row's detail (R203). -/
def columnCheck (pass : Nat) (h : HwFault) : Option HwFault :=
  if h.detail % 2 ^ 16 < 128 then some (checkFault h (h.detail % 2 ^ 16) pass) else none

/-- The pass number of the open product's next pass, 0-based. -/
def PhraseCtx.passNo (x : PhraseCtx) : Nat := match x.product with | some p => p.passes | none => 0

/-- A check's mismatch in a PASS: a residue's in a column, or with column 128 the check columns' for the row after `progress`, whose
column results came out with the fp32 sum in bits [47:16] of the row's detail. A sum without a fault never differs by as much
(log 85). -/
def passCheck (s : State) (n w : Nat) (h : HwFault) : Option HwFault :=
  let x := s.ctx n
  let pass := match passInto x w with | some p => p.passes | none => 0
  if h.detail % 2 ^ 16 = 128 then
    let r := passSums s n w (min h.progress (countOf w - 1))
    let seen := decodeNum fmF32 (bits h.detail 16 32)
    if r.1.isFin && checkRow seen r.2.1 r.2.2 then some (checkFault h 128 pass) else none
  else columnCheck pass h

/-- What a PASS reads beside its operands: the live plane, the bank it adds into, the spill tile that a later spill adds to, and the
scale entries of a coded operand. -/
def passReads (x : PhraseCtx) (w : Nat) : List Words :=
  [(0x02, 0, 65536)] ++
    (match passInto x w with
     | some p => [(0x03 + p.bank, 0, 65536)] ++ (if passSpills x w && p.spilled then [(0x05, 98304 * p.spillTile, 98304)] else [])
     | none => []) ++
    (if isCode (bits w 128 4) then [(0x0C, 8 * bits w 176 12, 8 * countOf w)]
     else if isCode (bits w 132 4) && bit w 144 then [(0x0C, 8 * bits w 176 12, 1024)] else [])

/-- What a PASS writes beside its operands: the live plane where it swaps, and the bank that it opens or goes on in after a spill. -/
def passWrites (x : PhraseCtx) (w : Nat) : List Words :=
  (if bit w 144 then [(0x02, 0, 65536)] else []) ++
    (match passInto x w with
     | some p => if passSpills x w then [(0x03 + (1 - p.bank), 0, 65536)] else []
     | none => [(0x03 + (1 - x.lastBank), 0, 65536)])

/-- The tiles that a completed PASS retired free their bytes (R190). -/
def State.freeRetired (s : State) (n : Nat) : State := s.modCtx n fun x => { x with retired := [] }

/-- Streams rows through the array. -/
def runPass (s : State) (c : QCmd) (cl : Clause) (flt : Option HwFault) : Run :=
  let w := c.word
  let n := cl.unit
  let x := s.ctx n
  decoded s (passChecks x w)
    (boarded s cl n (passOpnds x w) (passReads x w) (passCheck s n w) flt fun flt =>
      if passFull x w then arrayStop s n 0x04 65 0 false
      else match flt with
       | some h =>
         let done := min h.progress (countOf w)
         arrayStop (passWork s c cl done) n h.reason h.detail done (done != 0)
       | none =>
         (if passSpills x w then .busy (passWork s c cl (countOf w)) { progress := countOf w, pos := 0, waits := [] }
          else Run.done (((passWork s c cl (countOf w)).freeRetired n).bump (K.aryPasses n) 1)).after fun t =>
            t.overwrite ⟨.array, n⟩ n (passWrites x w))

/-- PASS (R194). -/
def execPass (n : Nat) (flt : Option HwFault) (s : State) : Host.Outcome State Fault Refusal :=
  finish s (s.issue ⟨.array, n⟩ (isOp 0x21) flt runPass)

/-- w48 code `i` of a spill tile (R43). -/
def tileElem (t : Buf) (i : Nat) : Nat :=
  leNat ((List.range 6).map fun k => BitVec.ofNat 8 (bufGet t (6 * i + k) 8))

/-- A spill tile with a w48 code set. -/
def setTileElem (t : Buf) (i c : Nat) : Buf := bufPutAll t (6 * i) ((leBytes 6 c).map (·.toNat))

/-- Rows of a bank added into a spill tile, or written where it is the product's first spill (R57, R198): the tile and
the flags. -/
def spillAdd (b : Buf) (first sat : Bool) : Nat → Buf → Buf × Bool × Bool
  | 0, t => (t, false, false)
  | i + 1, t =>
    let r := spillAdd b first sat i t
    let a := decodeNum fmF32 (bufGet b i 32)
    let x := if first then a else (decodeNum fmW48 (tileElem r.1 i)).add a
    let e := encode fmW48 0 sat 0 x
    (setTileElem r.1 i e.code, r.2.1 || e.ovf, r.2.2 || nonfinite fmW48 e.code)

/-- The background addition of a spilled bank finishes: the bank is free and its PASS completes (R199). -/
def spillAddDone (n : Nat) (flt : Option HwFault) (s : State) : State :=
  let q : QueueId := ⟨.array, n⟩
  match s.queue q with
  | none => s
  | some Q =>
    match Q.cmds, Q.infl, (s.ctx n).spilling with
    | c :: _, some f, some (b, t, first) =>
      match s.clause c.seq with
      | none => s
      | some cl =>
        let x := s.ctx n
        let words : List Words := [(0x03 + b, 0, 65536)] ++ (if first then [] else [(0x05, 98304 * t, 98304)])
        match s.unitFault q n words (columnCheck (x.passNo - 1)) (faultOf .array flt) with
        | some h => (s.arrayHalt n).haltCmd q c cl h.reason h.detail f.progress 0 true
        | none =>
          let r := spillAdd (x.bank b) first (satOf c.word) 16384 (x.tile t)
          let s := s.modCtx n fun x => { x with spill := x.spill.modify t fun _ => r.1, spilling := none, retired := [] }
          let s := if first then s.overwrite q n [(0x05, 98304 * t, 98304)] else s
          ((s.raise c.seq r.2.1 r.2.2).bump (K.aryPasses n) 1).completeCmd q none
    | _, _, _ => s

/-- SPILL_ADD_DONE (R199). -/
def execSpillAddDone (n : Nat) (flt : Option HwFault) (s : State) : Host.Outcome State Fault Refusal :=
  finish s (spillAddDone n flt s)

/-! ### READOUT (R58, R60, R200) -/

/-- One element read out: the spill tile afterwards, the code written and the conversion unit. `total` tells that the
product has spilled. -/
def readElem (x : PhraseCtx) (w f : Nat) (total : Bool) (b : Buf) (i : Nat) (t : Buf) (cv : Cv) : Buf × Nat × Cv :=
  let a := decodeNum fmF32 (bufGet b i 32)
  let cv := cv.see a
  let e := encode fmW48 0 cv.sat 0 ((decodeNum fmW48 (tileElem t i)).add a)
  let t2 := if total then setTileElem t i e.code else t
  let cv := if total then { cv with ovf := cv.ovf || e.ovf, nf := cv.nf || nonfinite fmW48 e.code } else cv
  if f = fmW48 then
    let r := if total then (e.code, cv) else cv.put fmW48 a
    (t2, r.1, r.2)
  else
    let v := if total then cv.f32 (decodeNum fmW48 e.code) else (a, cv)
    let y := if bit w 146 then
        let z := cellGet 0x3F800000 (bits w 192 12 + i % 128) x.rescale
        v.2.f32 ((v.1.mul (decodeNum fmF32 (bits z 0 32))).add (decodeNum fmF32 (bits z 32 32)))
      else v
    let r := y.2.put f y.1
    (t2, r.1, r.2)

/-- Elements 0 to `k` − 1 read out in order; the codes come last first. -/
def readElems (x : PhraseCtx) (w f : Nat) (total : Bool) (b : Buf) : Nat → Buf → Cv → Buf × List Nat × Cv
  | 0, t, cv => (t, [], cv)
  | i + 1, t, cv =>
    let r := readElems x w f total b i t cv
    let e := readElem x w f total b i r.1 r.2.2
    (e.1, e.2.1 :: r.2.1, e.2.2)

/-- Whether the open product has spilled. -/
def PhraseCtx.hasSpilled (x : PhraseCtx) : Bool := match x.product with | some p => p.spilled | none => false
/-- The spill tile of the open product. -/
def PhraseCtx.productTile (x : PhraseCtx) : Nat := match x.product with | some p => p.spillTile | none => 0

/-- The decode checks of a READOUT (R200). -/
def readoutChecks (x : PhraseCtx) (w : Nat) : List (Bool × Nat × Nat) :=
  let f := bits w 136 4
  [ (reservedSet w (headFields ++ [(64, 32), (136, 4), (146, 1), (160, 3), (192, 12)]), 0x02, 0),
    (rndOf w = 3, 0x03, 3),
    (!isWide f, 0x03, f),
    (countOf w = 0 || countOf w > 128, 0x04, countOf w),
    (bit w 146 && f != fmW48 && bits w 192 12 + 128 > 4096, 0x04, 4096),
    (x.hasSpilled && bits w 160 3 != x.productTile, 0x04, bits w 160 3) ]

/-- Its operands: the destination, and the spill tile of a product that has spilled (R189, R198). -/
def readoutOpnds (x : PhraseCtx) (w : Nat) : List Opnd :=
  [opnd (cb w 8 4) (packedBytes (bits w 136 4) (128 * countOf w)) true] ++
    (if x.hasSpilled then [implied (0x104 + x.productTile) true] else [])

/-- The state after `done` rows of a READOUT: the rows' elements written in order, the spill tile with the bank added where the
product has spilled, and no product open (R58, R60, R200). The bank of no product is free. -/
def readoutWork (s : State) (c : QCmd) (cl : Clause) (done : Nat) : State :=
  let w := c.word
  let n := cl.unit
  let x := s.ctx n
  let f := bits w 136 4
  let v := cb w 8 4
  let b := match x.product with | some p => x.bank p.bank | none => s.anyBuf 3
  let r := readElems x w f x.hasSpilled b (128 * done) (x.tile x.productTile) (s.cvOf n .array w)
  let s := s.modCtx n fun y =>
    let y := if x.hasSpilled then { y with spill := y.spill.modify x.productTile fun _ => r.1 } else y
    { y.writeLocal (opRes v) (opOff v) (packElems f r.2.1.reverse) with product := none }
  s.saveCv n c.seq r.2.2

/-- What a READOUT reads beside its operands: the bank, the spill tile of a product that has spilled, the rescale entries. -/
def readoutReads (x : PhraseCtx) (w : Nat) : List Words :=
  (match x.product with
   | some p => [(0x03 + p.bank, 0, 512 * countOf w)] ++ (if p.spilled then [(0x05, 98304 * p.spillTile, 768 * countOf w)] else [])
   | none => []) ++
    (if bit w 146 && bits w 136 4 != fmW48 then [(0x0D, 8 * bits w 192 12, 1024)] else [])

/-- Reads accumulators out. -/
def runReadout (s : State) (c : QCmd) (cl : Clause) (flt : Option HwFault) : Run :=
  let w := c.word
  let n := cl.unit
  let x := s.ctx n
  decoded s (readoutChecks x w)
    (boarded s cl n (readoutOpnds x w) (readoutReads x w) (columnCheck (x.passNo - 1)) flt fun flt =>
      match flt with
      | some h =>
        let done := min h.progress (countOf w)
        arrayStop (readoutWork s c cl done) n h.reason h.detail done (done != 0)
      | none => .done (readoutWork s c cl (countOf w)))

/-- READOUT (R200). -/
def execReadout (n : Nat) (flt : Option HwFault) (s : State) : Host.Outcome State Fault Refusal :=
  finish s (s.issue ⟨.array, n⟩ (isOp 0x22) flt runReadout)

/-! ### SCALE_LOAD and RESCALE_LOAD (R53, R59, R80) -/

/-- Whether a scale entry may be written: no reserved bit or value, the zero point within the code width (R53). -/
def scaleOk (e : Nat) : Bool :=
  bits e 44 20 == 0 && bits e 40 2 ≤ 1 && bits e 42 2 ≤ 2 && (bits e 40 2 == 0 || bits e 36 4 == 0)

/-- Entry `i` of the 8-byte entries at a source. -/
def PhraseCtx.entryAt (c : PhraseCtx) (v i : Nat) : Nat := leNat (c.readLocal (opRes v) (opOff v + 8 * i) 8)

/-- A table with successive entries set. -/
def putTable (d : Nat) (t : Regs) : Nat → List Nat → Regs
  | _, [] => t
  | k, v :: vs => putTable d (cellPut d k v t) (k + 1) vs

/-- Writes scale register entries (`scale`), or rescale table entries. -/
def runTable (scale : Bool) (s : State) (c : QCmd) (cl : Clause) (flt : Option HwFault) : Run :=
  let w := c.word
  let n := cl.unit
  let x := s.ctx n
  let k := countOf w
  let v := cb w 4 4
  let base := if scale then bits w 176 12 else bits w 192 12
  decoded s [ (reservedSet w (headFields ++ [(32, 32), if scale then (176, 12) else (192, 12)]), 0x02, 0),
              (rndOf w = 3, 0x03, 3),
              (k = 0 || k > 4096, 0x04, k),
              (base + k > 4096, 0x04, base + k) ]
    (boarded s cl n [opnd v (8 * k) false] [] noCheck flt fun flt =>
      (let es := (List.range k).map fun i => x.entryAt v i
       let ok := if scale then (es.takeWhile scaleOk).length else k
       let lim := match flt with | some h => min h.progress ok | none => ok
       let s := s.modCtx n fun x =>
         if scale then { x with scale := putTable 0 x.scale base (es.take lim) }
         else { x with rescale := putTable 0x3F800000 x.rescale base (es.take lim) }
       match flt with
       | some h => arrayStop s n h.reason h.detail lim (lim != 0)
       | none =>
         let s := s.overwrite ⟨.array, n⟩ n [(if scale then 0x0C else 0x0D, 8 * base, 8 * ok)]
         if ok < k then arrayStop s n 0x02 0 ok (ok != 0) else .done s))

/-- SCALE_LOAD (R53, R80). -/
def execScaleLoad (n : Nat) (flt : Option HwFault) (s : State) : Host.Outcome State Fault Refusal :=
  finish s (s.issue ⟨.array, n⟩ (isOp 0x23) flt (runTable true))

/-- RESCALE_LOAD (R59, R80). -/
def execRescaleLoad (n : Nat) (flt : Option HwFault) (s : State) : Host.Outcome State Fault Refusal :=
  finish s (s.issue ⟨.array, n⟩ (isOp 0x24) flt (runTable false))

/-! ### ELEMWISE (R205) -/

/-- The results of an element-wise command, in order. -/
def elemwiseCodes (add : Bool) (f : Nat) : List (Num × Num) → Cv → List Nat × Cv
  | [], cv => ([], cv)
  | (a, b) :: t, cv =>
    let r := ((cv.see a).see b).put f (if add then a.add b else a.mul b)
    let q := elemwiseCodes add f t r.2
    (r.1 :: q.1, q.2)

/-- An operand of ELEMWISE; the mode uses no spill tile, so one is none of its resources (R205; DEDUCED, log 85). -/
def elemOpnd (v ext : Nat) (write : Bool) : Opnd := { opnd v ext write with ok := !isSpill (opRes v) }

/-- The mismatch of an element's two results: its group is not written, and the detail is its lane and group (R205). -/
def elemCheck (k : Nat) (h : HwFault) : Option HwFault :=
  if h.progress < k then some { checkFault h (h.progress % 128) (h.progress / 128) with progress := h.progress / 128 * 128 } else none

/-- Multiplies or adds element by element. -/
def runElemwise (s : State) (c : QCmd) (cl : Clause) (flt : Option HwFault) : Run :=
  let w := c.word
  let n := cl.unit
  let x := s.ctx n
  let k := countOf w
  let fa := bits w 128 4
  let fb := bits w 132 4
  let fo := bits w 136 4
  let op := cb w 21 1
  let va := cb w 4 4
  let vd := cb w 8 4
  let vb := cb w 12 4
  decoded s [ (op > 1, 0x01, 0),
              (reservedSet w (headFields ++ [(32, 32), (64, 32), (96, 32), (128, 8), (136, 4), (168, 8)]), 0x02, 0),
              (rndOf w = 3, 0x03, 3), (!isMult fa, 0x03, fa), (!isMult fb, 0x03, fb), (!isFloat fo, 0x03, fo),
              (k = 0 || k > 16384, 0x04, k) ]
    (boarded s cl n [elemOpnd va (packedBytes fa k) false, elemOpnd vd (packedBytes fo k) true, elemOpnd vb (packedBytes fb k) false] []
      (elemCheck k) flt fun flt =>
      (let done := match flt with | some h => min (h.progress / 128 * 128) k | none => k
       let a := (x.readElems va fa done).map (decodeNum fa)
       let b := (x.readElems vb fb done).map (decodeNum fb)
       let r := elemwiseCodes (op == 1) fo (a.zip b) (s.cvOf n .array w)
       let s := s.modCtx n fun x => x.writeLocal (opRes vd) (opOff vd) (packElems fo r.1)
       let s := (s.saveCv n c.seq r.2).bump (K.aryElemwiseElements n) done
       match flt with
       | some h => arrayStop s n h.reason h.detail done (done != 0)
       | none => .done s))

/-- ELEMWISE (R205). -/
def execElemwise (n : Nat) (flt : Option HwFault) (s : State) : Host.Outcome State Fault Refusal :=
  finish s (s.issue ⟨.array, n⟩ (isOp 0x25) flt runElemwise)

/-! ### ACC_CLEAR, ACC_READ, ACC_WRITE (R197, R210) -/

/-- Opens a product with no pass. -/
def runAccClear (s : State) (c : QCmd) (cl : Clause) (_ : Option HwFault) : Run :=
  decoded s [(reservedSet c.word [(0, 8), (8, 1), (9, 2)], 0x02, 0), (rndOf c.word = 3, 0x03, 3)]
    (.done (s.modCtx cl.unit fun x => x.openProduct 0 0 true))

/-- ACC_CLEAR (R197). -/
def execAccClear (n : Nat) (s : State) : Host.Outcome State Fault Refusal :=
  finish s (s.issue ⟨.array, n⟩ (isOp 0x26) none runAccClear)

/-- Writes rows of the open product's current bank as raw fp32; where no product is open the values are free. -/
def runAccRead (s : State) (c : QCmd) (cl : Clause) (flt : Option HwFault) : Run :=
  let w := c.word
  let n := cl.unit
  let x := s.ctx n
  let rows := countOf w
  let v := cb w 8 4
  decoded s [(reservedSet w [(0, 8), (16, 16), (64, 32)], 0x02, 0), (rows = 0 || rows > 128, 0x04, rows)]
    (boarded s cl n [opnd v (512 * rows) true] (match x.product with | some p => [(0x03 + p.bank, 0, 512 * rows)] | none => []) noCheck flt
      fun flt =>
      let b := match x.product with | some p => x.bank p.bank | none => s.anyBuf 3
      let put (rows : Nat) : State := s.modCtx n fun x => x.writeLocal (opRes v) (opOff v)
        ((List.range (128 * rows)).flatMap fun i => leBytes 4 (bufGet b i 32))
      match flt with
      | some h => arrayStop (put (min h.progress rows)) n h.reason h.detail (min h.progress rows) (h.progress != 0)
      | none => .done (put rows))

/-- ACC_READ (R210). -/
def execAccRead (x : Struck) (s : State) : Host.Outcome State Fault Refusal :=
  finish s (s.issue ⟨.array, x.unit⟩ (isOp 0xF1) x.fault runAccRead)

/-- Rows of raw fp32 put into the current bank of phrase `n`, where a product is opened if none is (R210). -/
def State.putAcc (s : State) (n v rows : Nat) : State :=
  s.modCtx n fun x =>
    let y := if x.product.isSome then x else x.openProduct 0 0 true
    let b := match y.product with | some p => p.bank | none => 0
    y.setBank b (bufPutAll (y.bank b) 0 (x.readElems v fmF32 (128 * rows)))

/-- Writes rows of raw fp32 into the current bank, opening a product where none is open. -/
def runAccWrite (s : State) (c : QCmd) (cl : Clause) (flt : Option HwFault) : Run :=
  let w := c.word
  let n := cl.unit
  let rows := countOf w
  let v := cb w 4 4
  decoded s [(reservedSet w [(0, 8), (16, 16), (32, 32)], 0x02, 0), (rows = 0 || rows > 128, 0x04, rows)]
    (boarded s cl n [opnd v (512 * rows) false] [] noCheck flt fun flt =>
      match flt with
      | some h => arrayStop (s.putAcc n v (min h.progress rows)) n h.reason h.detail (min h.progress rows) (h.progress != 0)
      | none =>
        let x := s.ctx n
        .done ((s.putAcc n v rows).overwrite ⟨.array, n⟩ n
          [(0x03 + (match x.product with | some p => p.bank | none => 1 - x.lastBank), 0, 512 * rows)]))

/-- ACC_WRITE (R210). -/
def execAccWrite (x : Struck) (s : State) : Host.Outcome State Fault Refusal :=
  finish s (s.issue ⟨.array, x.unit⟩ (isOp 0xF2) x.fault runAccWrite)

end Sys2Proof.Machine
end

