-- ==== Sys2Proof/Machine/Vector.lean ====
section
/-! DEFINITION. The vector engine (R212 to R230): element-wise classes, row reductions, quantisation, and the combining of
partials. -/

namespace Sys2Proof.Machine

/-! ### Shared parts -/

/-- Whether a destination run overlaps a source other than by coinciding with a full-size one (R215). -/
def overlapBad (dst dext : Nat) (src : Nat × Nat × Bool) : Bool :=
  opRes dst == opRes src.1 && overlap (opOff dst) dext (opOff src.1) src.2.1 &&
    !(src.2.2 && opOff dst == opOff src.1 && dext == src.2.1)

/-- A body behind the scoreboard and the overlap rule, given the fault that strikes it: `dsts` are destinations with their extents,
`srcs` sources with extent and whether full-size (R90, R215). -/
def vecBoarded (s : State) (cl : Clause) (n : Nat) (l : List Opnd) (dsts : List (Nat × Nat)) (srcs : List (Nat × Nat × Bool))
    (check : HwFault → Option HwFault) (flt : Option HwFault) (k : Option HwFault → Run) : Run :=
  match checkOpnds (s.ctx n) cl l with
  | some (r, d) => Run.refuse s r d
  | none =>
    match dsts.find? fun d => srcs.any fun x => overlapBad d.1 d.2 x with
    | some d => Run.refuse s 0x06 d.1
    | none =>
      if l.any fun o => s.mustWait cl n (opRes o.v) o.write then .wait
      else (k (s.unitFault ⟨.vector, n⟩ n (boardWords (s.ctx n) false l) check flt)).after fun t =>
        t.overwrite ⟨.vector, n⟩ n (boardWords (s.ctx n) true l)

/-- Elements that a command processes per A-cycle, its group, by the widest of its counted formats (R212). -/
def vecRate (fs : List Nat) : Nat :=
  let b := fs.foldl (fun a f => max a (fmtBits f)) 0
  if b ≤ 16 then 512 else if b ≤ 32 then 256 else 128

/-- The lane of element `e` at a rate (R212). -/
def laneOf (r e : Nat) : Nat := if r = 512 then e % 512 / 2 else if r = 256 then e % 256 else 2 * (e % 128)

/-- A residue mismatch at element `progress` of `k`: the detail is the element's lane, and its group and all later ones are not
written. A group in which an element is `special`, a NaN or an infinity, is not checked (R226). -/
def laneCheck (r k : Nat) (special : Nat → Bool) (h : HwFault) : Option HwFault :=
  let g := h.progress / r * r
  if h.progress < k && !(List.range (min r (k - g))).any (fun i => special (g + i)) then
    some { h with detail := laneOf r h.progress, progress := g }
  else none

/-- Whether an element of a list of codes is a NaN or an infinity. -/
def specialAt (f : Nat) (l : List Nat) (e : Nat) : Bool := nonfinite f (l.getD e 0)

/-- An operand of a vector command: regions and tile buffers, and spill tiles where `tiles` says so (R213). -/
def vecOpnd (v ext : Nat) (write tiles : Bool) : Opnd :=
  { v := v, ext := ext, lim := 0, write := write, ok := isPlain (opRes v) || (tiles && isSpill (opRes v)), named := true }

/-- The check of R213 on a spill tile: only in w48, and only where the command takes one. -/
def spillCheck (v f : Nat) (tiles : Bool) : Bool × Nat × Nat :=
  (isSpill (opRes v) && !(tiles && f == fmW48), 0x03, f)

/-- The codes of elements 0 to `k` − 1, each by `g`, through one conversion unit. -/
def mapPut (g : Nat → Cv → Nat × Cv) (k : Nat) (cv : Cv) : List Nat × Cv :=
  let r := (List.range k).foldl (fun (a : List Nat × Cv) i => let x := g i a.2; (x.1 :: a.1, x.2)) ([], cv)
  (r.1.reverse, r.2)

/-- The end of a vector command: counts (R230, R463), and the halt of an injected fault with its progress (R226,
R228). -/
def vecEnd (s : State) (n : Nat) (cl : Clause) (written progress : Nat) (flt : Option HwFault) : Run :=
  let s := (s.bump (K.vecElements n) written).count (3 * n + 1) 0x10 written (some cl.job)
  match flt with
  | some h => .halt s h.reason h.detail progress 0 (written != 0)
  | none => .done (s.bump (K.vecCommands n) 1)

/-- How many of `k` elements are written when a fault strikes: whole groups (R226, R228). -/
def faultLim (flt : Option HwFault) (r k : Nat) : Nat := match flt with | some h => min (h.progress / r * r) k | none => k

/-- Common fields: count, src_a, dst, fmt_a, fmt_dst, op (R81). -/
def vecFields : List (Nat × Nat) := headFields ++ [(32, 32), (96, 32), (128, 4), (136, 4), (144, 8)]

/-- The checks that every vector command has after its opcode's: reserved fields, rounding mode, count. -/
def vecChecks (w : Nat) (fields : List (Nat × Nat)) : List (Bool × Nat × Nat) :=
  [(reservedSet w fields, 0x02, 0), (rndOf w = 3, 0x03, 3), (countOf w = 0 || countOf w > 16384, 0x04, countOf w)]

/-- Writes packed codes at a local operand of phrase `n`. -/
def State.putLocal (s : State) (n v f : Nat) (codes : List Nat) : State :=
  s.modCtx n fun x => x.writeLocal (opRes v) (opOff v) (packElems f codes)

/-! ### VUNARY -/

/-- Element of VUNARY: the code written and the conversion unit (R218, R219). -/
def unaryElem (op fa fd c : Nat) (cv : Cv) : Nat × Cv :=
  let a := decodeNum fa c
  match op with
  | 0x00 => cv.put fd a
  | 0x01 => cv.put fd a.neg
  | 0x02 => cv.put fd a.abs
  | 0x03 => (cv.see a).put fd (a.max zeroNum)
  | 0x06 => let r := (cv.see a).f32 (oneNum.div a); r.2.put fd r.1
  | 0x08 => let r := (cv.see a).f32 a.sqrt; r.2.put fd r.1
  | 0x10 => (if zeroNum.lt a then 1 else 0, cv.see a)
  | 0x11 => (if bit c (fmtBits fa - 1) then 1 else 0, cv)
  | _ => let r := (cv.see a).f32 (fnValue op (near fmF32 a).code); r.2.put fd r.1

/-- Runs VUNARY. -/
def runVunary (s : State) (c : QCmd) (cl : Clause) (flt : Option HwFault) : Run :=
  let w := c.word
  let n := cl.unit
  let k := countOf w
  let fa := bits w 128 4
  let fd := bits w 136 4
  let op := cb w 18 1
  let va := cb w 4 4
  let vd := cb w 12 4
  let mask := op == 0x10 || op == 0x11
  decoded s ([(!(op ≤ 0x0A || mask), 0x01, 0)] ++ vecChecks w vecFields ++
      [(!isFloat fa, 0x03, fa), (if mask then fd != fmBit else !isFloat fd, 0x03, fd),
       spillCheck va fa false, spillCheck vd fd false])
    (vecBoarded s cl n [vecOpnd va (packedBytes fa k) false false, vecOpnd vd (packedBytes fd k) true false]
      [(vd, packedBytes fd k)] [(va, packedBytes fa k, true)]
      (fun h =>
        let a := (s.ctx n).readElems va fa k
        let d := (mapPut (fun i cv => unaryElem op fa fd (a.getD i 0) cv) k (s.cvOf n .vector w)).1
        laneCheck (vecRate [fa, fd]) k (fun e => specialAt fa a e || specialAt fd d e) h) flt fun flt =>
      (let m := faultLim flt (vecRate [fa, fd]) k
       let a := (s.ctx n).readElems va fa k
       let r := mapPut (fun i cv => unaryElem op fa fd (a.getD i 0) cv) m (s.cvOf n .vector w)
       vecEnd ((s.putLocal n vd fd r.1).saveCv n c.seq r.2) n cl m m flt))

/-- VUNARY (R218). -/
def execVunary (n : Nat) (flt : Option HwFault) (s : State) : Host.Outcome State Fault Refusal :=
  finish s (s.issue ⟨.vector, n⟩ (isOp 0x30) flt runVunary)

/-! ### VBINARY and VTERNARY -/

/-- Elements that a broadcast operand holds (R217). -/
def bcastCount (bc k : Nat) : Nat := match bc with | 0 => k | 1 => min k 128 | 2 => ceilDiv k 128 | _ => 0

/-- The element of a broadcast operand that element `e` uses (R217). -/
def bcastElem (bc : Nat) (l : List Nat) (imm e : Nat) : Nat :=
  match bc with | 0 => l.getD e 0 | 1 => l.getD (e % 128) 0 | 2 => l.getD (e / 128) 0 | _ => imm

/-- Element of a VBINARY on integers (R44, R218). -/
def intElem (op f a b : Nat) : Nat :=
  let w := fmtBits f
  match op with
  | 0x00 => (a + b) % 2 ^ w
  | 0x01 => (a + 2 ^ w - b) % 2 ^ w
  | 0x04 => if toSigned w a < toSigned w b then b else a
  | _ => if toSigned w b < toSigned w a then b else a

/-- Element of VBINARY (R218, R219). -/
def binaryElem (op fa fb fd a b : Nat) (cv : Cv) : Nat × Cv :=
  if fa = fmI32 ∨ fa = fmI64 then (intElem op fa a b, cv)
  else
    let x := decodeNum fa a
    let y := decodeNum fb b
    if op = 0x07 then cv.put fd (if b % 2 = 1 then x else zeroNum)
    else
      let cv := (cv.see x).see y
      match op with
      | 0x06 => (if y.lt x then 1 else 0, cv)
      | 0x04 => cv.put fd (x.max y)
      | 0x05 => cv.put fd (x.min y)
      | _ =>
        let z := match op with | 0x00 => x.add y | 0x01 => x.sub y | 0x02 => x.mul y | _ => x.div y
        let r := cv.f32 z
        r.2.put fd r.1

/-- The first of VBINARY's formats that its op does not accept; `fb` is the format of src_b, fp32 for imm (R218). -/
def binaryBad (op fa fb fd : Nat) : Option Nat :=
  let int := (fa == fmI32 || fa == fmI64) && (op ≤ 1 || op == 4 || op == 5)
  let okB := if int then fb == fa else if op = 0x07 then fb == fmBit else isFloat fb
  let okD := if int then fd == fa else if op = 0x06 then fd == fmBit else isFloat fd
  if !(int || isFloat fa) then some fa else if !okB then some fb else if !okD then some fd else none

/-- Runs VBINARY. -/
def runVbinary (s : State) (c : QCmd) (cl : Clause) (flt : Option HwFault) : Run :=
  let w := c.word
  let n := cl.unit
  let k := countOf w
  let fa := bits w 128 4
  let fb := bits w 132 4
  let fd := bits w 136 4
  let op := cb w 18 1
  let bc := bits w 152 2
  let va := cb w 4 4
  let vb := cb w 8 4
  let vd := cb w 12 4
  let kb := bcastCount bc k
  let rate := vecRate ([fa, fd] ++ if bc = 0 then [fb] else [])
  decoded s ([(decide (op > 0x07), 0x01, 0)] ++
      vecChecks w (vecFields ++ [(64, 32), (132, 4), (152, 2), (192, 32)]) ++
      [(bc = 3 && (vb != 0 || fb != 0), 0x02, 0), ((binaryBad op fa fb fd).isSome, 0x03, (binaryBad op fa fb fd).getD 0),
       spillCheck va fa false, spillCheck vb fb false, spillCheck vd fd false])
    (vecBoarded s cl n
      ([vecOpnd va (packedBytes fa k) false false] ++
        (if bc = 3 then [] else [vecOpnd vb (packedBytes fb kb) false false]) ++ [vecOpnd vd (packedBytes fd k) true false])
      [(vd, packedBytes fd k)]
      ([(va, packedBytes fa k, true)] ++ (if bc = 3 then [] else [(vb, packedBytes fb kb, bc == 0)]))
      (fun h =>
        let x := s.ctx n
        let a := x.readElems va fa k
        let b := if bc = 3 then [] else x.readElems vb fb kb
        let eb (i : Nat) : Nat := bcastElem bc b (cb w 24 4) i
        let d := (mapPut (fun i cv => binaryElem op fa fb fd (a.getD i 0) (eb i) cv) k (s.cvOf n .vector w)).1
        laneCheck rate k (fun e => specialAt fa a e || nonfinite fb (eb e) || specialAt fd d e) h) flt fun flt =>
      (let m := faultLim flt rate k
       let x := s.ctx n
       let a := x.readElems va fa k
       let b := if bc = 3 then [] else x.readElems vb fb kb
       let r := mapPut (fun i cv => binaryElem op fa fb fd (a.getD i 0) (bcastElem bc b (cb w 24 4) i) cv) m
         (s.cvOf n .vector w)
       vecEnd ((s.putLocal n vd fd r.1).saveCv n c.seq r.2) n cl m m flt))

/-- VBINARY (R218). -/
def execVbinary (n : Nat) (flt : Option HwFault) (s : State) : Host.Outcome State Fault Refusal :=
  finish s (s.issue ⟨.vector, n⟩ (isOp 0x31) flt runVbinary)

/-- Element of VTERNARY: FMA and FNMA round once, SELECT picks (R218, R219). -/
def ternaryElem (op fa fb fd a b c : Nat) (cv : Cv) : Nat × Cv :=
  let x := decodeNum fa a
  let y := decodeNum fb b
  if op = 0x02 then cv.put fd (if c % 2 = 1 then x else y)
  else
    let z := decodeNum fd c
    let p := x.mul y
    (((cv.see x).see y).see z).put fd (if op = 0x00 then p.add z else z.sub p)

/-- Runs VTERNARY. -/
def runVternary (s : State) (c : QCmd) (cl : Clause) (flt : Option HwFault) : Run :=
  let w := c.word
  let n := cl.unit
  let k := countOf w
  let fa := bits w 128 4
  let fb := bits w 132 4
  let fd := bits w 136 4
  let op := cb w 18 1
  let bc := bits w 152 2
  let va := cb w 4 4
  let vb := cb w 8 4
  let vd := cb w 12 4
  let vc := cb w 28 4
  let fc := if op = 0x02 then fmBit else fd
  let kb := bcastCount bc k
  let rate := vecRate ([fa, fd, fc] ++ if bc = 0 then [fb] else [])
  decoded s ([(decide (op > 0x02), 0x01, 0)] ++
      vecChecks w (vecFields ++ [(64, 32), (132, 4), (152, 2), (192, 32), (224, 32)]) ++
      [(bc = 3 && (vb != 0 || fb != 0), 0x02, 0), (!isFloat fa, 0x03, fa), (!isFloat fb, 0x03, fb), (!isFloat fd, 0x03, fd),
       spillCheck va fa false, spillCheck vb fb false, spillCheck vd fd false, spillCheck vc fc false])
    (vecBoarded s cl n
      ([vecOpnd va (packedBytes fa k) false false] ++
        (if bc = 3 then [] else [vecOpnd vb (packedBytes fb kb) false false]) ++
        [vecOpnd vd (packedBytes fd k) true false, vecOpnd vc (packedBytes fc k) false false])
      [(vd, packedBytes fd k)]
      ([(va, packedBytes fa k, true), (vc, packedBytes fc k, true)] ++
        (if bc = 3 then [] else [(vb, packedBytes fb kb, bc == 0)]))
      (fun h =>
        let x := s.ctx n
        let a := x.readElems va fa k
        let b := if bc = 3 then [] else x.readElems vb fb kb
        let cc := x.readElems vc fc k
        let eb (i : Nat) : Nat := bcastElem bc b (cb w 24 4) i
        let d := (mapPut (fun i cv => ternaryElem op fa fb fd (a.getD i 0) (eb i) (cc.getD i 0) cv) k (s.cvOf n .vector w)).1
        laneCheck rate k (fun e => specialAt fa a e || nonfinite fb (eb e) || specialAt fc cc e || specialAt fd d e) h) flt fun flt =>
      (let m := faultLim flt rate k
       let x := s.ctx n
       let a := x.readElems va fa k
       let b := if bc = 3 then [] else x.readElems vb fb kb
       let cc := x.readElems vc fc k
       let r := mapPut (fun i cv =>
         ternaryElem op fa fb fd (a.getD i 0) (bcastElem bc b (cb w 24 4) i) (cc.getD i 0) cv) m (s.cvOf n .vector w)
       let s := if opRes va < 256 && opRes vc < 256 && bc == 0 && opRes vb < 256 then
           s.bump (K.vecHalfRateCommands n) 1 else s
       vecEnd ((s.putLocal n vd fd r.1).saveCv n c.seq r.2) n cl m m flt))

/-- VTERNARY (R218). -/
def execVternary (n : Nat) (flt : Option HwFault) (s : State) : Host.Outcome State Fault Refusal :=
  finish s (s.issue ⟨.vector, n⟩ (isOp 0x32) flt runVternary)

/-! ### VREDUCE (R222) -/

/-- A row's reduction: the code and the conversion unit. `j` numbers the row for its order of addition. -/
def reduceRow (op fd seed j : Nat) (row : List Num) (cv : Cv) : Nat × Cv :=
  let acc := if fd = fmW48 then fmW48 else fmF32
  let cv := row.foldl Cv.see cv
  let put (x : Num × Bool) : Nat × Cv := { cv with ovf := cv.ovf || x.2 }.put fd x.1
  match op with
  | 0x0 => put (sumTerms acc cv.sat seed j row)
  | 0x1 => cv.put fd ((row.drop 1).foldl Num.max (row.headD zeroNum))
  | 0x2 => cv.put fd ((row.drop 1).foldl Num.min (row.headD zeroNum))
  | 0x3 => put (sumTerms acc cv.sat seed j (row.map fun x => x.mul x))
  | _ =>
    let t := sumTerms acc cv.sat seed j row
    let m := encode acc 0 cv.sat 0 (t.1.div (intNum row.length))
    put (decodeNum acc m.code, t.2 || m.ovf)

/-- Row `j` of a list cut into rows. -/
def rowOf {α : Type} (l : List α) (len j : Nat) : List α := (l.drop (len * j)).take len

/-- The segment of an element of a VREDUCE's rows, each of which begins a segment of r / 4 elements, and its place in it (R222). -/
def segmentOf (r len e : Nat) : Nat × Nat := (e / len * ceilDiv len (r / 4) + e % len / (r / 4), e % len % (r / 4))

/-- A residue mismatch in a row reduction at element `progress`: the rows that end in an earlier A-cycle are written (R222, R226,
R228). The lane is that of the element's place in its A-cycle (DEDUCED, log 85). -/
def reduceCheck (r len k : Nat) (special : Nat → Bool) (h : HwFault) : Option HwFault :=
  let g := segmentOf r len h.progress
  let t := g.1 / 4
  if h.progress < k && !(List.range k).any (fun e => (segmentOf r len e).1 / 4 == t && special e) then
    some { h with detail := laneOf r (g.1 % 4 * (r / 4) + g.2), progress := 4 * t / ceilDiv len (r / 4) }
  else none

/-- Runs VREDUCE. R222 converts a mean to fmt_dst, though R218's cell names fp32 and w48: SUM, SUMSQ and MEAN take every float and w48
(DESIGN CHOICE, log 85). -/
def runVreduce (s : State) (c : QCmd) (cl : Clause) (flt : Option HwFault) : Run :=
  let w := c.word
  let n := cl.unit
  let k := countOf w
  let fa := bits w 128 4
  let fd := bits w 136 4
  let op := bits w 144 4
  let spread := bit w 151
  let len := cb w 20 2
  let va := cb w 4 4
  let vd := cb w 12 4
  let rows := ceilDiv k len
  let kd := if spread then k else rows
  decoded s ([(op > 4 || bits w 148 3 != 0, 0x01, 0)] ++ vecChecks w (vecFields ++ [(160, 16)]) ++
      [(len = 0 || len > 16384, 0x04, len), (!isFloat fa, 0x03, fa),
       (!(isFloat fd || (fd == fmW48 && (op == 0 || op == 3 || op == 4))), 0x03, fd),
       spillCheck va fa false, (isSpill (opRes vd), 0x03, fd)])
    (vecBoarded s cl n [vecOpnd va (packedBytes fa k) false false, vecOpnd vd (packedBytes fd kd) true false]
      [(vd, packedBytes fd kd)] [(va, packedBytes fa k, true)]
      (fun h =>
        let a := (s.ctx n).readElems va fa k
        let d := (mapPut (fun j cv => reduceRow op fd s.free j (rowOf (a.map (decodeNum fa)) len j) cv) rows (s.cvOf n .vector w)).1
        reduceCheck (vecRate [fa, fd]) len k (fun e => specialAt fa a e || specialAt fd d (e / len)) h) flt fun flt =>
      (let m := faultLim flt 1 rows
       let a := ((s.ctx n).readElems va fa k).map (decodeNum fa)
       let r := mapPut (fun j cv => reduceRow op fd s.free j (rowOf a len j) cv) m (s.cvOf n .vector w)
       let out := if spread then r.1.zipIdx.flatMap fun x => List.replicate (rowOf a len x.2).length x.1 else r.1
       vecEnd ((s.putLocal n vd fd out).saveCv n c.seq r.2) n cl out.length m flt))

/-- VREDUCE (R222). -/
def execVreduce (n : Nat) (flt : Option HwFault) (s : State) : Host.Outcome State Fault Refusal :=
  finish s (s.issue ⟨.vector, n⟩ (isOp 0x33) flt runVreduce)

/-! ### VQUANT and VDEQUANT (R223, R224) -/

/-- Rows 0 to `k` − 1 quantised in order (R63); the rows come last first. -/
def quantRows (b len : Nat) (a : List Num) : Nat → Cv → List QuantRow × Cv
  | 0, cv => ([], cv)
  | j + 1, cv =>
    let r := quantRows b len a j cv
    let q := quantRow b (rowOf a len j) r.2
    (q.1 :: r.1, q.2)

/-- An 8-byte record of a quantised row (R223, R115). -/
def quantRecord (q : QuantRow) : List Byte := leBytes 4 q.scale ++ leBytes 1 q.zp ++ zeros 3

/-- A residue mismatch of VQUANT: at element `progress` of `k` in phase 2, or in phase 1 at element `progress − k` (R223, R226). -/
def quantCheck (r len k : Nat) (special : Nat → Bool) (h : HwFault) : Option HwFault :=
  if h.progress < k then laneCheck r k special h
  else (reduceCheck r len k special { h with progress := h.progress - k }).map fun x => { x with progress := k }

/-- Runs VQUANT. A fault in phase 1 writes nothing; one in phase 2 finds every record written, and the codes of whole groups (R223,
R228). A spill tile as a record operand has no format; the detail is 0 (DESIGN CHOICE, log 85). -/
def runVquant (s : State) (c : QCmd) (cl : Clause) (flt : Option HwFault) : Run :=
  let w := c.word
  let n := cl.unit
  let k := countOf w
  let fa := bits w 128 4
  let fd := bits w 136 4
  let op := cb w 18 1
  let len := cb w 20 2
  let va := cb w 4 4
  let vd := cb w 12 4
  let vc := cb w 28 4
  let rows := ceilDiv k len
  let f := if op = 0 then fmI8 else fmI4
  let rate := vecRate [fa, f]
  decoded s ([(decide (op > 1), 0x01, 0)] ++ vecChecks w (vecFields ++ [(160, 16), (224, 32)]) ++
      [(len = 0 || len > 16384, 0x04, len), (op = 1 && len % 2 == 1, 0x04, len), (op = 1 && k % 2 == 1, 0x04, k),
       (fa > 2, 0x03, fa), (fd != f, 0x03, fd),
       spillCheck va fa false, (isSpill (opRes vd), 0x03, fd), (isSpill (opRes vc), 0x03, fmF32)])
    (vecBoarded s cl n [vecOpnd va (packedBytes fa k) false false, vecOpnd vd (packedBytes f k) true false,
        vecOpnd vc (8 * rows) true false]
      [(vd, packedBytes f k), (vc, 8 * rows)] [(va, packedBytes fa k, true)]
      (quantCheck rate len k (specialAt fa ((s.ctx n).readElems va fa k))) flt fun flt =>
      (let first := match flt with | some h => decide (h.progress ≥ k) | none => false
       let m := if first then 0 else faultLim flt rate k
       let recs := if first then 0 else rows
       let a := ((s.ctx n).readElems va fa k).map (decodeNum fa)
       let r := quantRows (if op = 0 then 8 else 4) len a recs (s.cvOf n .vector w)
       let q := r.1.reverse
       let codes := (q.flatMap (·.codes)).take m
       let s := s.modCtx n fun x => x.writeLocal (opRes vc) (opOff vc) (q.flatMap quantRecord)
       vecEnd ((s.putLocal n vd f codes).saveCv n c.seq r.2) n cl (m + recs) (if m = k then rows else m / len) flt))

/-- VQUANT (R223). -/
def execVquant (n : Nat) (flt : Option HwFault) (s : State) : Host.Outcome State Fault Refusal :=
  finish s (s.issue ⟨.vector, n⟩ (isOp 0x34) flt runVquant)

/-- Whether an 8-byte record may be used with a code format (R224). -/
def recordOk (f r : Nat) : Bool := bits r 40 24 == 0 && (f == fmI8 || bits r 32 8 < 16)

/-- Runs VDEQUANT. A spill tile as the record operand has no format; the detail is 0 (DESIGN CHOICE, log 85). -/
def runVdequant (s : State) (c : QCmd) (cl : Clause) (flt : Option HwFault) : Run :=
  let w := c.word
  let n := cl.unit
  let k := countOf w
  let fa := bits w 128 4
  let fd := bits w 136 4
  let op := cb w 18 1
  let len := cb w 20 2
  let va := cb w 4 4
  let vb := cb w 8 4
  let vd := cb w 12 4
  let rows := ceilDiv k len
  decoded s ([(op != 0, 0x01, 0)] ++ vecChecks w (vecFields ++ [(64, 32), (160, 16)]) ++
      [(len = 0 || len > 16384, 0x04, len), (!isCode fa, 0x03, fa), (!isFloat fd, 0x03, fd),
       spillCheck va fa false, (isSpill (opRes vb), 0x03, fmF32), spillCheck vd fd false])
    (vecBoarded s cl n [vecOpnd va (packedBytes fa k) false false, vecOpnd vb (8 * rows) false false,
        vecOpnd vd (packedBytes fd k) true false]
      [(vd, packedBytes fd k)] [(va, packedBytes fa k, true), (vb, 8 * rows, false)]
      (fun h =>
        let x := s.ctx n
        let a := x.readElems va fa k
        let d := (mapPut (fun i cv =>
          let e := x.entryAt vb (i / len)
          cv.put fd (dequant (bits e 0 32) (a.getD i 0) (bits e 32 8))) k (s.cvOf n .vector w)).1
        laneCheck (vecRate [fa, fd]) k (specialAt fd d) h) flt fun flt =>
      (let x := s.ctx n
       let rec' (j : Nat) : Nat := x.entryAt vb j
       let good := ((List.range rows).takeWhile fun j => recordOk fa (rec' j)).length
       let lim := min k (len * good)
       let m := faultLim flt (vecRate [fa, fd]) lim
       let a := x.readElems va fa k
       let r := mapPut (fun i cv =>
         let e := rec' (i / len)
         cv.put fd (dequant (bits e 0 32) (a.getD i 0) (bits e 32 8))) m (s.cvOf n .vector w)
       let t := (s.putLocal n vd fd r.1).saveCv n c.seq r.2
       if good < rows ∧ (m = lim ∨ flt.isNone) then
         .halt ((t.bump (K.vecElements n) m).count (3 * n + 1) 0x10 m (some cl.job)) 0x02 0 m 0 (m != 0)
       else vecEnd t n cl m m flt))

/-- VDEQUANT (R224). -/
def execVdequant (n : Nat) (flt : Option HwFault) (s : State) : Host.Outcome State Fault Refusal :=
  finish s (s.issue ⟨.vector, n⟩ (isOp 0x35) flt runVdequant)

/-! ### VCOMBINE and VCONVERT (R225, R220) -/

/-- Element of VCOMBINE (R61, R225). -/
def combineElem (fa fb fd a b : Nat) (cv : Cv) : Nat × Cv :=
  let x := decodeNum fa a
  let y := decodeNum fb b
  let cv := (cv.see x).see y
  let f := if fa = fmW48 ∨ fb = fmW48 then fmW48 else fmF32
  let e := encode f 0 cv.sat 0 (x.add y)
  { cv with ovf := cv.ovf || e.ovf }.put fd (decodeNum f e.code)

/-- Runs VCOMBINE. -/
def runVcombine (s : State) (c : QCmd) (cl : Clause) (flt : Option HwFault) : Run :=
  let w := c.word
  let n := cl.unit
  let k := countOf w
  let fa := bits w 128 4
  let fb := bits w 132 4
  let fd := bits w 136 4
  let va := cb w 4 4
  let vb := cb w 8 4
  let vd := cb w 12 4
  decoded s ([(cb w 18 1 != 0, 0x01, 0)] ++ vecChecks w (vecFields ++ [(64, 32), (132, 4)]) ++
      [(fa != fmF32 && fa != fmW48, 0x03, fa), (fb != fmF32 && fb != fmW48, 0x03, fb), (!isWide fd, 0x03, fd),
       spillCheck va fa true, spillCheck vb fb true, spillCheck vd fd true])
    (vecBoarded s cl n [vecOpnd va (packedBytes fa k) false true, vecOpnd vb (packedBytes fb k) false true,
        vecOpnd vd (packedBytes fd k) true true]
      [(vd, packedBytes fd k)] [(va, packedBytes fa k, true), (vb, packedBytes fb k, true)]
      (fun h =>
        let a := (s.ctx n).readElems va fa k
        let b := (s.ctx n).readElems vb fb k
        let d := (mapPut (fun i cv => combineElem fa fb fd (a.getD i 0) (b.getD i 0) cv) k (s.cvOf n .vector w)).1
        laneCheck (vecRate [fa, fb, fd]) k (fun e => specialAt fa a e || specialAt fb b e || specialAt fd d e) h) flt fun flt =>
      (let m := faultLim flt (vecRate [fa, fb, fd]) k
       let x := s.ctx n
       let a := x.readElems va fa k
       let b := x.readElems vb fb k
       let r := mapPut (fun i cv => combineElem fa fb fd (a.getD i 0) (b.getD i 0) cv) m (s.cvOf n .vector w)
       vecEnd ((s.putLocal n vd fd r.1).saveCv n c.seq r.2) n cl m m flt))

/-- VCOMBINE (R225). -/
def execVcombine (n : Nat) (flt : Option HwFault) (s : State) : Host.Outcome State Fault Refusal :=
  finish s (s.issue ⟨.vector, n⟩ (isOp 0x36) flt runVcombine)

/-- Element of VCONVERT (R218, R220). -/
def convertElem (op fa fd a : Nat) (cv : Cv) : Nat × Cv :=
  if op = 1 then cv.put fd (if a % 2 = 1 then oneNum else zeroNum)
  else
    let x := if fa = fmI32 then intNum (toSigned 32 a) else decodeNum fa a
    if fd = fmI32 then cv.toI32 x else (cv.see x).put fd x

/-- Runs VCONVERT. -/
def runVconvert (s : State) (c : QCmd) (cl : Clause) (flt : Option HwFault) : Run :=
  let w := c.word
  let n := cl.unit
  let k := countOf w
  let fa := bits w 128 4
  let fd := bits w 136 4
  let op := cb w 18 1
  let va := cb w 4 4
  let vd := cb w 12 4
  let ok (f : Nat) : Bool := isWide f || f == fmI32
  decoded s ([(decide (op > 1), 0x01, 0)] ++ vecChecks w vecFields ++
      [(if op = 1 then fa != fmBit else !ok fa, 0x03, fa), (if op = 1 then !isFloat fd else !ok fd, 0x03, fd),
       spillCheck va fa true, spillCheck vd fd true])
    (vecBoarded s cl n [vecOpnd va (packedBytes fa k) false true, vecOpnd vd (packedBytes fd k) true true]
      [(vd, packedBytes fd k)] [(va, packedBytes fa k, true)]
      (fun h =>
        let a := (s.ctx n).readElems va fa k
        let d := (mapPut (fun i cv => convertElem op fa fd (a.getD i 0) cv) k (s.cvOf n .vector w)).1
        laneCheck (vecRate [fa, fd]) k (fun e => specialAt fa a e || specialAt fd d e) h) flt fun flt =>
      (let m := faultLim flt (vecRate [fa, fd]) k
       let a := (s.ctx n).readElems va fa k
       let r := mapPut (fun i cv => convertElem op fa fd (a.getD i 0) cv) m (s.cvOf n .vector w)
       vecEnd ((s.putLocal n vd fd r.1).saveCv n c.seq r.2) n cl m m flt))

/-- VCONVERT (R220). -/
def execVconvert (n : Nat) (flt : Option HwFault) (s : State) : Host.Outcome State Fault Refusal :=
  finish s (s.issue ⟨.vector, n⟩ (isOp 0x37) flt runVconvert)

end Sys2Proof.Machine
end

