-- ==== Sys2Proof/Machine/Move.lean ====
section
/-! DEFINITION. The MOVE engine: transfers between memory and local storage (R82, R202, R282), the stash (R239, R240,
R243) and the reduction windows (R244, R246), with the memory-side adds they lead to (R62, R283).

A transfer goes chunk by chunk: the bytes of one row that lie in one 64-byte sector. A position is 2^32 · row + byte of
the row in memory. -/

namespace Sys2Proof.Machine

/-! ### Fields (R82) -/

/-- The fields of a MOVE command; `n` elements a row, `lrb` and `mrb` bytes of a row on the local and memory side. -/
structure MoveG where
  op      : Nat
  rows    : Nat
  local'  : Nat
  mem     : Nat
  stride  : Nat
  lstride : Nat
  sf      : Nat
  df      : Nat
  stage   : Nat
  n       : Nat
  lrb     : Nat
  mrb     : Nat
  deriving DecidableEq, Repr

/-- Whether an opcode writes the local side: LOAD, TLOAD, STASH_GET, RB_READ. -/
def moveInto (op : Nat) : Bool := op == 0x40 || op == 0x42 || op == 0x44 || op == 0x46

/-- The fields of a command. -/
def moveGeom (w : Nat) : MoveG :=
  let op := cb w 0 1
  let sf := bits w 224 4
  let df := bits w 228 4
  let rb := cb w 16 4
  let n := rb * 8 / fmtBits sf
  let drb := packedBytes df n
  { op := op, rows := countOf w, local' := cb w 4 4, mem := cb w 8 8, stride := cb w 20 4, lstride := cb w 24 4,
    sf := sf, df := df, stage := bits w 232 6, n := n
    lrb := if moveInto op then drb else rb
    mrb := if moveInto op then rb else drb }

/-- The format of the memory side. -/
def MoveG.memFmt (g : MoveG) : Nat := if moveInto g.op then g.sf else g.df

/-- The format of the local side. -/
def MoveG.locFmt (g : MoveG) : Nat := if moveInto g.op then g.df else g.sf

/-- Whether a pair of formats may be moved: equal, or between fp32 and bf16, fp16 or fp8 (R82). -/
def movePair (a b : Nat) : Bool :=
  a == b || (a == fmF32 && 1 ≤ b && b ≤ 4) || (b == fmF32 && 1 ≤ a && a ≤ 4)

/-- The address of a row's byte in memory. -/
def MoveG.addr (g : MoveG) (row off : Nat) : Nat := (g.mem + row * g.stride + off) % 2 ^ 64

/-- The offset in the local resource of a row's byte; TLOAD's rows lie by lane (R202). -/
def MoveG.locOff (g : MoveG) (row off : Nat) : Nat :=
  if g.op = 0x42 then 2048 * (row % 128) + opOff g.local' + row / 128 * g.lrb + off
  else opOff g.local' + row * g.lstride + off

/-- A byte of a row on the local side for a byte on the memory side. -/
def MoveG.locByte (g : MoveG) (off : Nat) : Nat := off * 8 / fmtBits g.memFmt * fmtBits g.locFmt / 8

/-- A chunk: row, byte of the row in memory, bytes in memory. -/
structure Chunk where
  row : Nat
  off : Nat
  len : Nat
  deriving DecidableEq, Repr

/-- The chunk at a position, if the transfer is not over. w48 rows go by 48 bytes, so that no element is cut. -/
def MoveG.chunk (g : MoveG) (pos : Nat) : Option Chunk :=
  let row := pos / 2 ^ 32
  let off := pos % 2 ^ 32
  if row ≥ g.rows then none
  else
    let a := g.addr row off
    let es := max 1 (fmtBits g.memFmt / 8)
    let m := if g.memFmt = fmW48 then 48 else if a % es = 0 then 64 - a % 64 else 64
    some { row := row, off := off, len := min m (g.mrb - off) }

/-- The position after a chunk. -/
def MoveG.next (g : MoveG) (c : Chunk) : Nat :=
  if c.off + c.len ≥ g.mrb then 2 ^ 32 * (c.row + 1) else 2 ^ 32 * c.row + c.off + c.len

/-- Memory bytes before a position. -/
def MoveG.doneBytes (g : MoveG) (pos : Nat) : Nat := pos / 2 ^ 32 * g.mrb + pos % 2 ^ 32

/-- The progress of a halt record after a number of memory bytes: rows, or for STASH_PUT bytes (R240). -/
def MoveG.progress (g : MoveG) (bytes : Nat) : Nat := if g.op = 0x43 then bytes else bytes / max 1 g.mrb

/-- Bytes converted between two formats (R82); a NaN or an infinity written sets NONFINITE (R50). -/
def convBytes (sf df : Nat) (bs : List Byte) (cv : Cv) : List Byte × Cv :=
  let l := elemsOf sf bs (bs.length * 8 / fmtBits sf)
  if sf = df then (bs, { cv with nf := cv.nf || l.any (nonfinite sf) })
  else
    let r := mapPut (fun i cv => cv.put df (decodeNum sf (l.getD i 0))) l.length cv
    (packElems df r.1, r.2)

/-! ### Memory-side adds (R62, R283) -/

/-- An add of elements of a type into one sector's run at a job's address: made in tier 0 alone; a first write allocates (R301), and a
page that rests elsewhere, or is moving, is awaited (R283). A sector of another module is added to there (R273). The flags are
OVERFLOW and NONFINITE. -/
def State.addVa (s : State) (j addr f : Nat) (bs : List Byte) : Acc (State × Bool × Bool) :=
  let node := addr / 2 ^ 48
  let off := addr % 2 ^ 48
  if node > 16383 then .fail 0x20 addr
  else if s.isMe node = false then .far node off bs.length
  else if s.inStash j off then .fail 0x21 addr
  else match s.leafOf j off with
  | none => .fail 0x20 addr
  | some l =>
    if l.write = false then .fail 0x21 addr
    else accBind (if l.allocated then .ok s else s.allocate l) fun s =>
      match s.leafOf j off with
      | none => .fail 0x20 addr
      | some h =>
        if h.tier ≠ 0 then s.awayAcc h
        else
          let old := match s.physOf j addr with | some a => readRun s.mem.bytes a bs.length | none => zeros bs.length
          match (s.physOf j addr).bind fun a => s.poisonIn a bs.length with
          | some _ => .fail 0x30 addr
          | none =>
            let r := msaRun f old bs
            accBind (s.writeVa j addr r.1) fun t =>
              match t.physOf j addr with
              | some a => .ok (if a < t1Base then t.count (0x40 + frameStack (a / 65536)) 0x12 1 (some j) else t, r.2.1, r.2.2)
              | none => .ok (t, r.2.1, r.2.2)

/-- A page brought into tier 0 is requested for an add that waits; one not yet allocated is placed first (R283, R301). -/
def State.askPage (s : State) (j off : Nat) : State :=
  match (s.leafOf j off).bind fun l => (s.home l off).map (·.1) with
  | none => s
  | some h =>
    let s := if h.allocated then s else match s.allocate h with | .ok t => t | _ => s
    match s.leafOf h.job h.va with
    | none => s
    | some h =>
      if h.tier = 0 ∨ s.mem.pageReqs.any (fun r => r.job == h.job && r.va == h.va) then s
      else s.modMem fun m => { m with pageReqs := m.pageReqs ++ [{ job := h.job, va := h.va, table := 0x100, epoch := 0, failed := none }] }

/-- Whether a page at a job's address is in a move (R297). -/
def State.movingAt (s : State) (j addr : Nat) : Bool :=
  s.isMe (addr / 2 ^ 48) && (s.leafOf j (addr % 2 ^ 48)).any (·.migrating)

/-- A write or add that waits on a page move, counted once (R297, R311): the state, and whether it is counted by now. -/
def State.countWait (s : State) (j addr : Nat) (counted : Bool) : State × Bool :=
  if s.movingAt j addr && !counted then (s.bump (K.migrationWriteWaits j) 1, true) else (s, counted)

/-! ### Counts of memory traffic (R463) -/

/-- Retries of a parity error counted for the stack of a job's address (R304). -/
def State.countRetries (s : State) (j addr retries : Nat) : State :=
  match s.physOf j addr with
  | some a =>
    if a < t1Base then
      let k := frameStack (a / 65536)
      (s.bump (K.hbmParityRetries k) (min retries 3)).count (0x40 + k) 0x14 (min retries 3) (some j)
    else s
  | none => s

/-- What the controller met in an access of `n` bytes at a job's address: retries and corrections counted, an uncorrectable unit poisoned (R303 to
R305). -/
def State.accessAt (s : State) (j addr n : Nat) (a : MemAccess) : State :=
  let s := s.countRetries j addr a.retries
  let s := match s.physOf j addr with | some p => s.correctedAt p a.corrected (some j) | none => s
  match a.bad, s.physOf j addr with
  | some o, some p => if o < n then s.poison (p + o) else s
  | _, _ => s

/-- What the controller meets in an access of a request that came from elsewhere: a write whose fourth try fails leaves its unit poisoned
(R304). -/
def State.met (s : State) (j addr n : Nat) (write : Bool) (a : MemAccess) : State :=
  let s := s.accessAt j addr n a
  match (if write && a.retries > 3 then s.physOf j addr else none) with
  | some p => s.poison p
  | none => s

/-- Whether a write at a job's address has to wait: its page is moving or its stack takes no access (R297, R308). -/
def State.writeWaits (s : State) (j addr : Nat) : Bool := s.heldAt j addr || s.movingAt j addr

/-! ### Stash pages (R237 to R240) -/

/-- Whether a run lies in the job's stash range. -/
def State.stashRun (s : State) (j addr n : Nat) : Bool :=
  s.isMe (addr / 2 ^ 48) && s.inStash j (addr % 2 ^ 48) && (n = 0 || s.inStash j (addr % 2 ^ 48 + n - 1))

/-- A stash page in a tier: charged whole to the stage and the job (R240). -/
def State.newStash (s : State) (j va step stage tier frame : Nat) : State :=
  let l : Leaf := { job := j, va := va, size := 0, read := true, write := true, tier := tier, pinned := false,
                    allocated := true, migrating := false, accessed := false, policy := 15, src := none, frame := frame,
                    node := 0, pref := tier, idle := 0, stash := some (step, stage) }
  let s := s.modMem fun m => { m with leaves := m.leaves ++ [l] }
  (s.charge (stageUsed tier j stage) 65536).charge (stashUsed tier j) 65536

/-- Whether a stage's and the job's stash quotas of a tier cover a page more. -/
def State.stashFits (s : State) (tier j stage : Nat) : Bool :=
  s.reg (stageUsed tier j stage) + 65536 ≤ s.reg (stageQuota tier j stage) &&
    s.reg (stashUsed tier j) + 65536 ≤ s.reg (stashQuota tier j)

/-- The page of a stash address allocated for a step and stage, if it is not yet (R240); a container that finds too few chunks is
R290's TIER_QUOTA. -/
def State.stashPlace (s : State) (j off step stage : Nat) : Acc State :=
  let va := off / 65536 * 65536
  let addr := 2 ^ 48 * s.ownNode + off
  match s.leafOf j off with
  | some l => if (l.stash.map (·.1)) == some step then .ok s else .fail 0x21 addr
  | none =>
    match (if s.stashFits 0 j stage then s.freeFrame else none) with
    | some f => .ok (((s.zeroFrame f).gaveFrame f).newStash j va step stage 0 f)
    | none =>
      if s.stashFits 1 j stage = false then .fail 0x23 (1 + 65536 * 256)
      else match s.buildContainer j (va / 65536) (zeros 65536) [] with
      | some (id, s) => .ok ((s.newStash j va step stage 1 id).bump (K.spilledPages j) 1)
      | none => .fail 0x22 (quotaDetail 1 (va / 65536) true (ceilDiv (unitsOf (unitMapOf (zeros 65536))) 64))

/-! ### Access of a chunk -/

/-- Whether a STASH_PUT of an open step allocated the pages of a run of the stash range (R239). -/
def State.stashed (s : State) (j off n : Nat) : Bool :=
  (pagesOf off n).all fun o => (s.leafOf j o).any fun l => l.stash.any fun x => (s.stepOf j x.1).isSome

/-- A chunk read from memory, in the stash range or outside it. -/
def State.readMem (s : State) (j addr n : Nat) (stash : Bool) : Acc (List Byte) :=
  if stash then
    if s.stashRun j addr n = false then .fail 0x21 addr
    else if s.stashed j (addr % 2 ^ 48) n = false then .fail 0x20 addr
    else s.readPages j true 2 (addr % 2 ^ 48) n
  else s.readVa j addr n

/-- A chunk written to memory; a stash page is allocated first. -/
def State.writeMem (s : State) (n j addr : Nat) (bs : List Byte) (stash : Option (Nat × Nat)) : Acc State :=
  match stash with
  | none => s.writeVa j addr bs
  | some (step, stage) =>
    if s.stashRun j addr bs.length then
      accBind (s.stashPlace j (addr % 2 ^ 48) step stage) fun t =>
      accBind (t.stashPlace j ((addr + bs.length - 1) % 2 ^ 48) step stage) fun u =>
      let new := u.mem.leaves.length - s.mem.leaves.length
      accBind (u.writePages j .stash 2 (addr % 2 ^ 48) bs) fun v =>
        .ok ((v.touchRun j (addr % 2 ^ 48) bs.length).count (3 * n + 2) 0x13 new (some j))
    else .fail 0x21 addr

/-- A read request of a MOVE engine for bytes of another module or a lender (R273, R323). -/
def State.askFar (s : State) (q : QueueId) (j xid node addr n : Nat) : State :=
  if s.fab.reqs.any fun r => r.owner == q && r.xid == xid then s
  else
    let real := if node ≥ 2 ^ 16 then node - 2 ^ 16 else node
    s.request 0x01 j q xid node (2 ^ 48 * real + addr) n 0 []

/-! ### LOAD, TLOAD, STASH_GET -/

/-- Requests chunks while fewer than 4,096 are outstanding (R282). -/
def State.moveRequest (s : State) (q : QueueId) (j : Nat) (g : MoveG) (stash : Bool) : Nat → InFlight → State × InFlight
  | 0, f => (s, f)
  | fuel + 1, f =>
    if f.waits.length ≥ 4096 then (s, f)
    else match g.chunk f.pos with
      | none => (s, f)
      | some c =>
        let a := g.addr c.row c.off
        let s := s.translate (.move q.unit) j a c.len
        let s := match s.readMem j a c.len stash with
          | .far node x n => s.askFar q j f.pos node x n
          | _ => s
        s.moveRequest q j g stash fuel
          { f with pos := g.next c, waits := f.waits ++ [{ id := f.pos, va := a, len := c.len, dst := g.locOff c.row (g.locByte c.off) }] }

/-- The head command of a MOVE queue that is in execution. -/
def State.moving (s : State) (q : QueueId) : Option (QCmd × Clause × InFlight) :=
  match s.queue q with
  | none => none
  | some Q => match Q.cmds, Q.infl with
    | c :: _, some f => (s.clause c.seq).map fun cl => (c, cl, f)
    | _, _ => none

/-- The end of a transfer that has no chunk left: it completes (R282). -/
def State.moveEnd (s : State) (q : QueueId) (g : MoveG) (f : InFlight) : State :=
  if f.waits = [] ∧ (g.chunk f.pos).isNone then (s.modQueue q fun Q => { Q with infl := some f }).completeCmd q none
  else s.modQueue q fun Q => { Q with infl := some f }

/-- A sector arrives at a MOVE engine and is written locally (R282); a fourth parity failure ends it UNCORRECTABLE
(R304). No sector arrives from a stack at level 3 (R308). Bytes of another module have arrived when its response has. -/
def moveSectorArrival (n id : Nat) (a : MemAccess) (s : State) : State :=
  let q : QueueId := ⟨.move, n⟩
  match s.moving q with
  | none => s
  | some (c, cl, f) =>
    let g := moveGeom c.word
    if moveInto g.op = false then s
    else match f.waits.find? (·.id == id) with
      | none => s
      | some x =>
        if s.heldAt cl.job x.va then s
        else
        let s := s.accessAt cl.job x.va x.len a
        if a.retries > 3 then
          s.haltCmd q c cl 0x30 x.va (g.progress f.progress) f.pos (f.progress != 0)
        else match s.readMem cl.job x.va x.len (g.op == 0x44) with
          | .fail r d => s.haltCmd q c cl r d (g.progress f.progress) f.pos (f.progress != 0)
          | .wait => s
          | .far node a l => s.askFar q cl.job id node a l
          | .ok bs =>
            let s := (s.didRead cl.job x.va x.len).count (3 * n + 2) 0x10 1 (some cl.job)
            let r := convBytes g.sf g.df bs (s.cvOf n .move c.word)
            let s := s.modCtx n fun y => y.writeLocal (opRes g.local') x.dst r.1
            let s := (s.saveCv n c.seq r.2).modClause c.seq fun y => { y with wrote := true }
            let f := { f with progress := f.progress + x.len, waits := f.waits.filter (·.id != id) }
            let m := s.moveRequest q cl.job g (g.op == 0x44) 4097 f
            m.1.moveEnd q g m.2

/-- MOVE_SECTOR_ARRIVAL (R282). -/
def execMoveSectorArrival (n id : Nat) (a : MemAccess) (s : State) : Host.Outcome State Fault Refusal :=
  finish s (moveSectorArrival n id a s)

/-! ### STORE, STASH_PUT -/

/-- The step and stage of a stash command. -/
def stashOf (g : MoveG) (cl : Clause) : Option (Nat × Nat) :=
  if g.op = 0x43 then some (cl.step.getD 0, g.stage) else none

/-- What a run of writes came to: all departed or 4,096 outstanding, or a halt with reason and detail. -/
inductive Sent
  | ok (s : State) (f : InFlight)
  | stop (s : State) (f : InFlight) (reason detail : Nat)

/-- The chunk of a write at a position: where it begins a poisoned block of tier 1 or 2 that the row covers whole, the block, so that the
write clears the poison (R305); else the sector. -/
def State.writeChunk (s : State) (j : Nat) (g : MoveG) (pos : Nat) : Option Chunk :=
  (g.chunk pos).map fun c => match s.identOf j (g.addr c.row c.off) with
    | some p =>
      if t1Base ≤ p ∧ p % 128 = 0 ∧ c.len = 64 ∧ c.off + 128 ≤ g.mrb ∧ (s.poisonIn p 128).isSome then { c with len := 128 } else c
    | none => c

/-- Writes chunks in order while fewer than 4,096 are unacknowledged and `rows` are not done; a page that is moving
stops the run until it has moved (R282, R297). -/
def State.moveWrite (s : State) (n : Nat) (c : QCmd) (cl : Clause) (g : MoveG) (rows : Nat) : Nat → InFlight → Sent
  | 0, f => .ok s f
  | fuel + 1, f =>
    if f.waits.length ≥ 4096 then .ok s f
    else match s.writeChunk cl.job g f.pos with
      | none => .ok s f
      | some ch =>
        if ch.row ≥ rows then .ok s f
        else
        let a := g.addr ch.row ch.off
        let s := s.translate (.move n) cl.job a ch.len
        let lb := g.locByte ch.off
        let src := (s.ctx n).readLocal (opRes g.local') (g.locOff ch.row lb) (g.locByte (ch.off + ch.len) - lb)
        let r := convBytes g.sf g.df src (s.cvOf n .move c.word)
        let w := s.saveCv n c.seq r.2
        let f' := { f with pos := g.next ch, progress := f.progress + ch.len, waited := false
                           waits := f.waits ++ [{ id := f.pos, va := a, len := ch.len, dst := 0 }] }
        match w.writeMem n cl.job a r.1 (stashOf g cl) with
        | .ok t =>
          let t := (t.count (3 * n + 2) 0x11 1 (some cl.job)).modClause c.seq
            fun y => { y with wrote := true }
          t.moveWrite n c cl g rows fuel f'
        | .fail r d => .stop s f r d
        | .far node x _ =>
          let real := if node ≥ 2 ^ 16 then node - 2 ^ 16 else node
          let t := ((w.request 0x03 cl.job ⟨.move, n⟩ f.pos node (2 ^ 48 * real + x) r.1.length 0 r.1).didWriteFar cl.job a ch.len).modClause c.seq
            fun y => { y with wrote := true }
          t.moveWrite n c cl g rows fuel f'
        | .wait =>
          let x := s.countWait cl.job a f.waited
          .ok x.1 { f with waited := x.2 }

/-- The state after a run of writes of a command in execution. -/
def State.moveSent (q : QueueId) (c : QCmd) (cl : Clause) (g : MoveG) : Sent → State
  | .ok s f => s.moveEnd q g f
  | .stop s f r d => s.haltCmd q c cl r d (g.progress (g.doneBytes f.pos)) f.pos (f.pos != 0)

/-- A memory write is acknowledged (R282); a fourth parity failure, or an uncorrectable unit met in a merge, poisons the sector and
halts (R304, R305). -/
def memoryWriteAck (q : QueueId) (id : Nat) (a : MemAccess) (s : State) : State :=
  match s.moving q with
  | none => s
  | some (c, cl, f) =>
    let g := moveGeom c.word
    if q.cls ≠ .move ∨ (g.op ≠ 0x41 ∧ g.op ≠ 0x43) then s
    else match f.waits.find? (·.id == id) with
      | none => s
      | some x =>
        if s.fab.reqs.any fun r => r.owner == q && r.xid == id then s
        else
          let s := s.accessAt cl.job x.va x.len a
          if a.retries > 3 ∨ a.bad.isSome then
            let t := match s.physOf cl.job x.va with | some a => s.poison a | none => s
            t.haltCmd q c cl 0x30 x.va (g.progress f.progress) f.pos true
          else
            State.moveSent q c cl g (s.moveWrite q.unit c cl g g.rows 4097 { f with waits := f.waits.filter (·.id != id) })

/-- MEMORY_WRITE_ACK (R282). -/
def execMemoryWriteAck (q : QueueId) (id : Nat) (a : MemAccess) (s : State) : Host.Outcome State Fault Refusal :=
  finish s (memoryWriteAck q id a s)

/-! ### Issue -/

/-- Fields of MOVE commands; `stage` belongs to the stash commands alone (R82, R73). -/
def moveFields (op : Nat) : List (Nat × Nat) :=
  headFields ++ [(32, 32), (64, 64), (128, 32), (160, 32), (192, 32), (224, 8)] ++
    (if op = 0x43 ∨ op = 0x44 then [(232, 6)] else [])

/-- The formats a MOVE opcode takes: R82's pairs, and for the window R244's. -/
def moveFmt (g : MoveG) : Bool :=
  match g.op with
  | 0x45 => g.sf ≤ 2 && g.df == fmF32
  | 0x46 => g.sf == fmF32 && g.df ≤ 4
  | _ => g.sf ≤ 10 && g.df ≤ 10 && movePair g.sf g.df

/-- The format code that a refused pair reports. -/
def moveBadFmt (g : MoveG) : Nat :=
  match g.op with
  | 0x45 => if g.sf ≤ 2 then g.df else g.sf
  | 0x46 => if g.sf = fmF32 then g.df else g.sf
  | _ => if g.sf ≤ 10 then g.df else g.sf

/-- The decode checks of MOVE commands (R37, R75, R82). -/
def moveChecks (w : Nat) : List (Bool × Nat × Nat) :=
  let g := moveGeom w
  let rb := cb w 16 4
  [ (reservedSet w (moveFields g.op), 0x02, 0),
    (rndOf w = 3, 0x03, 3), (!moveFmt g, 0x03, moveBadFmt g),
    (g.rows = 0, 0x04, 0), (rb = 0 || rb > 8388608, 0x04, rb), (rb * 8 % fmtBits g.sf != 0, 0x04, rb),
    (g.lstride > 8388608, 0x04, g.lstride), (g.mem % alignOf g.memFmt != 0, 0x09, g.mem) ]

/-- The local operand of a MOVE command: its last byte within the resource, or for TLOAD within the lanes of a
transposing buffer half (R90, R202). -/
def moveOpnd (g : MoveG) : Opnd :=
  if g.op = 0x42 then
    { v := g.local', ext := ceilDiv g.rows 128 * g.lrb, lim := 2048, write := true, ok := isHalf (opRes g.local'), named := true }
  else opnd g.local' ((g.rows - 1) * g.lstride + g.lrb) (moveInto g.op)

/-- Whether a command reads a byte of the job's scale word before the preceding step's result has been written there
(R254): it waits at issue. -/
def State.scaleWait (s : State) (cl : Clause) (g : MoveG) : Bool :=
  let w := s.reg (K.scaleWord cl.job)
  let older := match cl.step with
    | none => false
    | some n => s.steps.any fun t => t.job == cl.job && t.number < n &&
        (t.state == .opened || t.state == .flushing || t.state == .abandoned || t.state == .agreeing)
  older && (List.range g.rows).any fun r => g.addr r 0 < w + 16 && w < g.addr r 0 + g.mrb

/-- Runs LOAD, TLOAD or STASH_GET: the first requests depart. -/
def runLoad (s : State) (c : QCmd) (cl : Clause) (flt : Option HwFault) : Run :=
  let g := moveGeom c.word
  let q : QueueId := ⟨.move, cl.unit⟩
  decoded s (moveChecks c.word)
    (boarded s cl cl.unit [moveOpnd g] [] noCheck flt fun flt =>
      (if (g.op = 0x40 ∨ g.op = 0x44) ∧ s.scaleWait cl g then .wait
       else match flt with
       | some h => Run.refuse s h.reason h.detail
       | none =>
         let m := s.moveRequest q cl.job g (g.op == 0x44) 4097 { progress := 0, pos := 0, waits := [] }
         .busy m.1 m.2))

/-- Runs STORE or STASH_PUT: the writes depart in order. -/
def runStore (s : State) (c : QCmd) (cl : Clause) (flt : Option HwFault) : Run :=
  let g := moveGeom c.word
  let n := cl.unit
  Run.resumed c <| decoded s (moveChecks c.word)
    (boarded s cl n [moveOpnd g] [] noCheck flt fun flt =>
      (let pos := if c.again then c.pos else 0
       let rows := match flt with | some h => min h.progress g.rows | none => g.rows
       let r := s.moveWrite n c cl g rows 4097 { progress := g.doneBytes pos, pos := pos, waits := [] }
       match r, flt with
       | .stop t f r d, _ => .halt t r d (g.progress (g.doneBytes f.pos)) f.pos (f.pos != 0)
       | .ok t f, some h => .halt t h.reason h.detail (g.progress (g.doneBytes f.pos)) f.pos (f.pos != 0)
       | .ok t f, none => .busy t f))

/-- LOAD (R282). -/
def execLoad (n : Nat) (flt : Option HwFault) (s : State) : Host.Outcome State Fault Refusal :=
  finish s (s.issue ⟨.move, n⟩ (isOp 0x40) flt runLoad)

/-- STORE (R282). -/
def execStore (n : Nat) (flt : Option HwFault) (s : State) : Host.Outcome State Fault Refusal :=
  finish s (s.issue ⟨.move, n⟩ (isOp 0x41) flt runStore)

/-- TLOAD (R202, R282). -/
def execTload (n : Nat) (flt : Option HwFault) (s : State) : Host.Outcome State Fault Refusal :=
  finish s (s.issue ⟨.move, n⟩ (isOp 0x42) flt runLoad)

/-- STASH_PUT (R239, R240). -/
def execStashPut (n : Nat) (flt : Option HwFault) (s : State) : Host.Outcome State Fault Refusal :=
  finish s (s.issue ⟨.move, n⟩ (isOp 0x43) flt runStore)

/-- STASH_GET (R239, R243). -/
def execStashGet (n : Nat) (flt : Option HwFault) (s : State) : Host.Outcome State Fault Refusal :=
  finish s (s.issue ⟨.move, n⟩ (isOp 0x44) flt runLoad)

/-! ### Reduction windows (R244, R246) -/

/-- Where a run of a job's window lies: an on-die byte, or an address of the HBM region; none beyond the window. A run
does not cross rb_len. -/
def State.windowAt (s : State) (j o n : Nat) : Option (Nat ⊕ Nat) :=
  let len := s.reg (K.rbLen j)
  if o + n > len + s.reg (K.extLen j) then none
  else if o < len then some (.inl (s.reg (K.rbBase j) + o))
  else some (.inr (s.reg (K.extBase j) + (o - len)))

/-- The chunk at a position of a window command, cut at rb_len. -/
def State.windowChunk (s : State) (j : Nat) (g : MoveG) (pos : Nat) : Option Chunk :=
  (g.chunk pos).map fun c =>
    let o := g.addr c.row c.off
    let len := s.reg (K.rbLen j)
    if o < len ∧ len < o + c.len then { c with len := len - o } else c

/-- Elements added into a run of the window: an on-die run, or a sector in HBM (R62, R244). -/
def State.windowAdd (s : State) (j o : Nat) (sat : Bool) (xs : List Num) : Acc (State × Bool × Bool) :=
  match s.windowAt j o (4 * xs.length) with
  | none => .fail 0x21 (max o (s.reg (K.rbLen j) + s.reg (K.extLen j)))
  | some (.inl a) =>
    let old := elemsOf fmF32 (readRun s.mem.rb a (4 * xs.length)) xs.length
    let r := (old.zip xs).map fun p => encode fmF32 0 sat 0 ((decodeNum fmF32 p.1).add p.2)
    .ok (s.modMem fun m => { m with rb := writeRun m.rb a (packElems fmF32 (r.map (·.code))) },
         r.any (·.ovf), r.any fun c => nonfinite fmF32 c.code)
  | some (.inr addr) => s.addVa j addr fmF32 (packElems fmF32 (xs.map fun x => (near fmF32 x).code))

/-- The result of a window command's run over its chunks: at its end, held up at a page's address, awaiting bytes, or stopped. -/
inductive WinRun
  | done (s : State) (pos : Nat)
  | wait (s : State) (pos addr : Nat)
  | hold (s : State) (pos : Nat)
  | stop (s : State) (pos reason detail : Nat)

/-- The payload of an ADD frame: the sector's mask and its bytes (R317). -/
def addPayload (f addr : Nat) (bs : List Byte) : List Byte :=
  let first := addr % 64 * 8 / fmtBits f
  let n := bs.length * 8 / fmtBits f
  leBytes 8 ((2 ^ n - 1) * 2 ^ first) ++ zeros 8 ++ padTo 64 (zeros (addr % 64) ++ bs)

/-- The address in HBM of a window offset beyond rb_len (R244). -/
def State.windowFar (s : State) (j o : Nat) : Nat := s.reg (K.extBase j) + (o - s.reg (K.rbLen j))

/-- Adds chunks of an RB_ADD from a position, `rows` rows at most; a chunk that rests on another module goes there in an ADD frame
(R273, R317). -/
def State.rbAddRun (s : State) (n : Nat) (c : QCmd) (cl : Clause) (g : MoveG) (rows : Nat) : Nat → Nat → WinRun
  | 0, pos => .done s pos
  | fuel + 1, pos =>
    match s.windowChunk cl.job g pos with
    | none => .done s pos
    | some ch =>
      if ch.row ≥ rows then .done s pos
      else
        let lb := g.locByte ch.off
        let src := (s.ctx n).readLocal (opRes g.local') (g.locOff ch.row lb) (g.locByte (ch.off + ch.len) - lb)
        let xs := (elemsOf g.sf src (ch.len / 4)).map (decodeNum g.sf)
        let o := g.addr ch.row ch.off
        let s := if o < s.reg (K.rbLen cl.job) then s else s.translate (.move n) cl.job (s.windowFar cl.job o) (4 * xs.length)
        match s.windowAdd cl.job o (satOf c.word) xs with
        | .ok r =>
          let t := (r.1.raise c.seq r.2.1 (r.2.2 || xs.any fun x => !x.isFin)).modClause c.seq fun y => { y with wrote := true }
          let t := t.count (3 * n + 2) 0x12 (ceilDiv ch.len 128) (some cl.job)
          t.rbAddRun n c cl g rows fuel (g.next ch)
        | .fail r d => .stop s pos r d
        | .wait => .wait s pos (s.windowFar cl.job o)
        | .far node a _ =>
          let d := packElems fmF32 (xs.map fun x => (near fmF32 x).code)
          let t := s.request 0x05 cl.job ⟨.move, n⟩ pos node (2 ^ 48 * node + a / 64 * 64) (fmF32 + 16 * 64) 0 (addPayload fmF32 a d)
          let t := (t.raise c.seq false (xs.any fun x => !x.isFin)).modClause c.seq fun y => { y with wrote := true }
          t.rbAddRun n c cl g rows fuel (g.next ch)

/-- The blocks that a window command's rows touch. -/
def MoveG.blocks (g : MoveG) : List Nat :=
  ((List.range g.rows).flatMap fun r =>
    let o := g.addr r 0
    (List.range ((o + g.mrb - 1) / 4096 - o / 4096 + 1)).map (o / 4096 + ·)).eraseDups

/-- A block's epoch, if it is DIRTY. -/
def State.dirtyOf (s : State) (j b : Nat) : Option Nat :=
  (s.mem.rbDirty.find? fun d => d.1 == j && d.2.1 == b).map (·.2.2)

/-- Blocks become DIRTY(E) (R244). -/
def State.markDirty (s : State) (j epoch : Nat) (bs : List Nat) : State :=
  bs.foldl (fun s b => s.modMem fun m => { m with
    rbDirty := m.rbDirty.filter (fun d => !(d.1 == j && d.2.1 == b)) ++ [(j, b, max epoch ((s.dirtyOf j b).getD 0))] }) s

/-- The epoch of a clause's step; 0 for a clause of no step (log 20). -/
def State.epochOf (s : State) (cl : Clause) : Nat :=
  match cl.step with
  | none => 0
  | some n => match s.stepOf cl.job n with | some t => t.epoch | none => 0

/-- The blocks of a run of rows that lie in the job's window. -/
def State.inWindow (s : State) (j : Nat) (bs : List Nat) : List Nat :=
  bs.filter fun b => 4096 * b < s.reg (K.rbLen j) + s.reg (K.extLen j)

/-- Whether a request of a queue's command is outstanding. -/
def State.asks (s : State) (q : QueueId) : Bool := s.fab.reqs.any fun r => r.owner == q && r.xid != noXfer

/-- How a run of a window command goes on: it completes once nothing it sent is outstanding; it is in execution while it waits, and a
wait on a page move is counted once (R283, R297). -/
def rbEnd (q : QueueId) (j : Nat) (g : MoveG) (flt : Option HwFault) (waited : Bool) : WinRun → Run
  | .done t pos => match flt with
    | some h => .halt t h.reason h.detail (pos / 2 ^ 32) pos (pos != 0)
    | none => if t.asks q then .busy t { progress := g.doneBytes pos, pos := pos, waits := [] } else .done t
  | .wait t pos a =>
    let x := t.countWait j a waited
    .busy (x.1.askPage j (a % 2 ^ 48)) { progress := g.doneBytes pos, pos := pos, waits := [], waited := x.2 }
  | .hold t pos => .busy t { progress := g.doneBytes pos, pos := pos, waits := [] }
  | .stop t pos r d => .halt t r d (pos / 2 ^ 32) pos (pos != 0)

/-- The words of the reduction buffers that a window command's rows reach (R414). -/
def State.windowWords (s : State) (j : Nat) (g : MoveG) : List Words :=
  (List.range g.rows).filterMap fun r =>
    let o := g.addr r 0
    if o < s.reg (K.rbLen j) then some (0x11, s.reg (K.rbBase j) + o, min g.mrb (s.reg (K.rbLen j) - o)) else none

/-- Runs RB_ADD. It waits at issue while a block it reaches is DIRTY with an earlier epoch; each wait is counted once
(R244). -/
def runRbAdd (s : State) (c : QCmd) (cl : Clause) (flt : Option HwFault) : Run :=
  let g := moveGeom c.word
  let n := cl.unit
  let j := cl.job
  let epoch := s.epochOf cl
  Run.resumed c <| decoded s (moveChecks c.word)
    (boarded s cl n [moveOpnd g] (s.windowWords j g) noCheck flt fun flt =>
      (let bs := s.inWindow j g.blocks
       if bs.any fun b => match s.dirtyOf j b with | some e => e < epoch | none => false then
         (if c.prog = 0 then
            .stay fun s => (s.bump (K.rbWaits j) 1).modQueue ⟨.move, n⟩ fun Q => { Q with
              cmds := match Q.cmds with | c :: r => { c with prog := 1 } :: r | [] => [] }
          else .wait)
       else
         let rows := match flt with | some h => min h.progress g.rows | none => g.rows
         rbEnd ⟨.move, n⟩ j g flt false (((if c.again then s.resend ⟨.move, n⟩ else s).markDirty j epoch bs).rbAddRun n c cl g rows
           (2 ^ 20 * (g.rows + 1)) (if c.again then c.pos else 0))))

/-- RB_ADD (R244). -/
def execRbAdd (n : Nat) (flt : Option HwFault) (s : State) : Host.Outcome State Fault Refusal :=
  finish s (s.issue ⟨.move, n⟩ (isOp 0x45) flt runRbAdd)

/-- Bytes of a run of the window. -/
def State.windowRead (s : State) (j o n : Nat) : Acc (List Byte) :=
  match s.windowAt j o n with
  | none => .fail 0x21 (max o (s.reg (K.rbLen j) + s.reg (K.extLen j)))
  | some (.inl a) => .ok (readRun s.mem.rb a n)
  | some (.inr addr) => s.readVa j addr n

/-- Reads chunks of an RB_READ from a position, `rows` rows at most. -/
def State.rbReadRun (s : State) (n : Nat) (c : QCmd) (cl : Clause) (g : MoveG) (rows : Nat) : Nat → Nat → WinRun
  | 0, pos => .done s pos
  | fuel + 1, pos =>
    match s.windowChunk cl.job g pos with
    | none => .done s pos
    | some ch =>
      if ch.row ≥ rows then .done s pos
      else
        let o := g.addr ch.row ch.off
        let inHbm := s.reg (K.rbLen cl.job) ≤ o
        let a := s.windowFar cl.job o
        if inHbm ∧ s.heldAt cl.job a then .hold s pos
        else
        let s := if inHbm then s.translate (.move n) cl.job a ch.len else s
        match s.windowRead cl.job o ch.len with
        | .ok bs =>
          let s := if inHbm then s.didRead cl.job a ch.len else s
          let r := convBytes g.sf g.df bs (s.cvOf n .move c.word)
          let t := s.modCtx n fun y => y.writeLocal (opRes g.local') (g.locOff ch.row (g.locByte ch.off)) r.1
          let t := (t.saveCv n c.seq r.2).modClause c.seq fun y => { y with wrote := true }
          t.rbReadRun n c cl g rows fuel (g.next ch)
        | .fail r d => .stop s pos r d
        | .wait => .hold s pos
        | .far nd x l => .hold (s.fetchFar cl.job nd x l) pos

/-- Runs RB_READ: the window converted to local storage; it clears nothing (R244). -/
def runRbRead (s : State) (c : QCmd) (cl : Clause) (flt : Option HwFault) : Run :=
  let g := moveGeom c.word
  Run.resumed c <| decoded s (moveChecks c.word)
    (boarded s cl cl.unit [moveOpnd g] (s.windowWords cl.job g) noCheck flt fun flt =>
      let rows := match flt with | some h => min h.progress g.rows | none => g.rows
      rbEnd ⟨.move, cl.unit⟩ cl.job g flt false (s.rbReadRun cl.unit c cl g rows (2 ^ 20 * (g.rows + 1)) (if c.again then c.pos else 0)))

/-- RB_READ (R244). -/
def execRbRead (n : Nat) (flt : Option HwFault) (s : State) : Host.Outcome State Fault Refusal :=
  finish s (s.issue ⟨.move, n⟩ (isOp 0x46) flt runRbRead)

/-! ### Transfers that waited for a page (R283, R297) -/

/-- The transfer of phrase `n` that a page move or a page fetch held up goes on. -/
def State.moveGoOn (s : State) (n : Nat) : State :=
  let q : QueueId := ⟨.move, n⟩
  match s.moving q with
  | none => s
  | some (c, cl, f) =>
    let g := moveGeom c.word
    match g.op with
    | 0x41 | 0x43 => State.moveSent q c cl g (s.moveWrite n c cl g g.rows 4097 f)
    | 0x45 => s.settleRun q c cl (rbEnd q cl.job g none f.waited (s.rbAddRun n c cl g g.rows (2 ^ 20 * (g.rows + 1)) f.pos))
    | 0x46 => s.settleRun q c cl (rbEnd q cl.job g none false (s.rbReadRun n c cl g g.rows (2 ^ 20 * (g.rows + 1)) f.pos))
    | _ => s

/-- Every transfer that a page held up goes on. -/
def State.movesGoOn (s : State) : State := (List.range 8).foldl (fun s n => s.moveGoOn n) s

end Sys2Proof.Machine
end

