-- ==== Sys2Proof/Machine/Tables.lean ====
section
/-! DEFINITION. Embedding tables: table and shard descriptors (R108 to R113), row encodings (R115 to R117), promotion
maps (R118, R119), bag batches (R131, R132), candidate queues (R125) and the gradient region descriptors (R157,
R158). -/

namespace Sys2Proof.Machine

/-! ### Reads of an embedding engine -/

/-- The first sector of a run that holds an uncorrectable error (R145). -/
def State.badSector (s : State) (j addr n : Nat) : Nat :=
  let a0 := addr / 64 * 64
  ((List.range (n / 64 + 2)).find? fun i =>
    match s.physOf j (a0 + 64 * i) with
    | some p => (s.poisonIn p 64).isSome
    | none => false).elim a0 fun i => a0 + 64 * i

/-- A read of an EE, or of the row server: the detail of an uncorrectable error is the sector's address (R145). -/
def State.embRead (s : State) (j addr n : Nat) : Acc (List Byte) :=
  match s.readVa j addr n with
  | .fail r d => .fail r (if r = 0x30 then s.badSector j addr n else d)
  | x => x

/-- A read of an EE's streams and rows, which a stack at throttle level 3 holds back (R308). -/
def State.embGet (s : State) (j addr n : Nat) : Acc (List Byte) := if s.heldAt j addr then .wait else s.embRead j addr n

/-! ### Table descriptors (R109 to R113) -/

/-- Levels. -/
abbrev lvHot : Nat := 0
/-- Warm. -/
abbrev lvWarm : Nat := 1
/-- Cold. -/
abbrev lvCold : Nat := 2

/-- The format of a level. -/
def Table.fmt (t : Table) (lv : Nat) : Nat := t.fmts.getD lv 0

/-- Whether a level is enabled. -/
def Table.enabled (t : Table) (lv : Nat) : Bool := lv < 3 && bit t.levels lv

/-- The highest enabled level. -/
def Table.firstLevel (t : Table) : Nat := if t.enabled lvHot then 0 else if t.enabled lvWarm then 1 else 2

/-- Replicated placement: the EE's own node ID replaces the node of every address (R113). -/
def State.ownAddr (s : State) (t : Table) (a : Nat) : Nat :=
  if t.placement = 0 then 2 ^ 48 * s.ownNode + a % 2 ^ 48 else a

/-- The key of a descriptor: its physical identity (R277), or, where it rests in another module, its global address there under the
job's fabric key, which names it alike for every job. -/
def State.descKey (s : State) (j a : Nat) : Nat := (s.identOf j a).getD (2 ^ 66 + 2 ^ 64 * s.reg (K.fabricKey j) + a)

/-- Encoded bytes of a row (R115). -/
def rowBytes (f d : Nat) : Nat :=
  if f = fmF32 then 4 * d else if f = fmBf16 ∨ f = fmF16 then 2 * d else if f = fmI4 then 8 + (d + 1) / 2 else 8 + d

/-- The stride of a row (R115). -/
def rowStride (f d : Nat) : Nat := if rowBytes f d ≤ 16 then 16 else roundUp (rowBytes f d) 32

/-- Sectors of a row (R116). -/
def rowSectors (f d : Nat) : Nat := ceilDiv (rowStride f d) 64

/-- The largest row of a table's enabled levels, in sectors. -/
def Table.maxSectors (t : Table) : Nat :=
  ([0, 1, 2].filter t.enabled).foldl (fun a lv => max a (rowSectors (t.fmt lv) t.dim)) 1

/-- The halt of R109 for table `t`. -/
def badTable (t : Nat) : Nat := 2 + 256 * (t % 256)

/-- A table descriptor's fields. -/
def tableFields (num addr key : Nat) (b : List Byte) : Table :=
  let p := nb b 10 1
  { num := num, addr := addr, key := key, rows := nb b 0 8, dim := nb b 8 2, placement := p % 4, readOnly := bit p 2
    cache := bit p 3, idx64 := bit p 4, fmts := [nb b 11 1 % 16, nb b 11 1 / 16, nb b 12 1 % 16]
    levels := bits (nb b 12 1) 4 3, pset := nb b 13 1, age := nb b 14 1 % 4, shardDesc := nb b 16 8
    promWarm := nb b 24 2, promHot := nb b 26 2, shards := 0 }

/-- Reserved bits of a table descriptor (R110). -/
def tableReserved (b : List Byte) : Bool :=
  bits (nb b 10 1) 5 3 != 0 || bit (nb b 12 1) 7 || bits (nb b 14 1) 2 6 != 0 || nb b 15 1 != 0 || nb b 28 36 != 0

/-- The conditions that R110 marks checked. -/
def Table.ok (t : Table) : Bool :=
  1 ≤ t.rows && t.rows < (if t.idx64 then 2 ^ 48 else 2 ^ 32) && 1 ≤ t.dim && t.dim ≤ 1024 && t.placement != 3 &&
    t.levels != 0 && (!t.enabled lvHot || t.fmt 0 ≤ 1) && (!t.enabled lvWarm || t.fmt 1 == 3 || t.fmt 1 == 4) &&
    (!t.enabled lvCold || t.fmt 2 == 5 || t.fmt 2 == 6) &&
    (t.placement != 2 || (t.readOnly && countIf 3 (bit t.levels) == 1))

/-- A shard entry's fields. -/
def shardFields (b : List Byte) : ShardE where
  first := nb b 0 8
  rows := nb b 8 8
  owner := nb b 16 2
  shard := nb b 20 4
  map := nb b 24 8
  bases := [nb b 32 8, nb b 40 8, nb b 48 8]
  slots := [nb b 56 4, nb b 60 4, nb b 64 8]
  cand := nb b 72 8
  size := nb b 80 1 % 16

/-- Reserved bits of a shard entry (R112). -/
def shardReserved (b : List Byte) : Bool := nb b 18 2 != 0 || bits (nb b 80 1) 4 4 != 0 || nb b 81 47 != 0

/-- Whether the fields of a shard entry that the placement uses are in their ranges (R112). -/
def shardRanges (t : Table) (e : ShardE) : Bool :=
  1 ≤ e.rows && e.rows ≤ 2 ^ 36 && e.slots.getD 2 0 ≤ 2 ^ 36 && e.size ≤ 8 &&
    (([0, 1, 2].filter t.enabled).all fun lv => e.bases.getD lv 0 % 64 == 0) &&
    (t.placement == 2 || e.map % 64 == 0)

/-- A shard entry's fields with the addresses that name this module under replicated placement (R113). -/
def State.shardHere (s : State) (t : Table) (b : List Byte) : ShardE :=
  let e := shardFields b
  { e with map := s.ownAddr t e.map, bases := e.bases.map (s.ownAddr t), cand := s.ownAddr t e.cand }

/-- Shard entry `i` of a table. -/
def State.shardAt (s : State) (j : Nat) (t : Table) (i : Nat) : Acc ShardE :=
  accBind (s.embRead j (t.shardDesc + 64 + 128 * i) 128) fun b =>
    if shardReserved b then .fail 0x02 0
    else if shardRanges t (shardFields b) then .ok (s.shardHere t b) else .fail 0x13 (badTable t.num)

/-- The tier that a page of a job's address is in or prefers; none where nothing maps it. -/
def State.tierOf (s : State) (j addr : Nat) : Option Nat :=
  if s.isMe (addr / 2 ^ 48) then
    (s.leafOf j (addr % 2 ^ 48)).bind fun l => (s.home l (addr % 2 ^ 48)).map fun h =>
      if h.1.allocated then h.1.tier else h.1.pref
  else none

/-- What R113 demands of a table's first shard. -/
def State.shardsOk (s : State) (j : Nat) (t : Table) (e : ShardE) : Bool :=
    (t.placement != 2 ||
      (s.tierOf j (e.bases.getD t.firstLevel 0) == some 2 && t.rows ≤ e.slots.getD t.firstLevel 0))

/-- The table `num` of a job, checked (R109, R111). -/
def State.tableOf (s : State) (j num : Nat) : Acc Table :=
  if num ≥ s.reg (K.tableCount j) then .fail 0x13 (badTable num)
  else
    let addr := s.reg (K.tableList j) + 64 * num
    accBind (s.embRead j addr 64) fun b =>
      if tableReserved b then .fail 0x02 0
      else
        let t := tableFields num addr (s.descKey j addr) b
        if t.ok = false ∨ t.shardDesc % 64 ≠ 0 then .fail 0x13 (badTable num)
        else
          accBind (s.embRead j t.shardDesc 64) fun h =>
            if nb h 4 60 ≠ 0 then .fail 0x02 0
            else
              let n := nb h 0 4
              if n = 0 ∨ n > 16384 ∨ (t.placement ≠ 1 ∧ n ≠ 1) then .fail 0x13 (badTable num)
              else
                accBind (s.shardAt j t 0) fun e =>
                  if s.shardsOk j t e then .ok { t with shards := n } else .fail 0x13 (badTable num)

/-- The shard entry that covers a row: the first from entry `i` on. -/
def State.seekShard (s : State) (j : Nat) (t : Table) (row : Nat) : Nat → Nat → Acc (Option ShardE)
  | 0, _ => .ok none
  | fuel + 1, i =>
    accBind (s.shardAt j t i) fun e =>
      if e.first ≤ row ∧ row < e.first + e.rows then .ok (some e) else s.seekShard j t row fuel (i + 1)

/-- The shard entry of a row (R112). -/
def State.shardOf (s : State) (j : Nat) (t : Table) (row : Nat) : Acc (Option ShardE) := s.seekShard j t row t.shards 0

/-- Whether a shard entry's rows belong to this module: all rows of a replicated table do, and none of a pool table. -/
def State.owns (s : State) (t : Table) (e : ShardE) : Bool :=
  t.placement == 0 || (t.placement == 1 && s.isMe e.owner)

/-- The tables of a job that can be read, by number. -/
def State.tablesOf (s : State) (j : Nat) : List Table :=
  (List.range (s.reg (K.tableCount j))).filterMap fun n => match s.tableOf j n with | .ok t => some t | _ => none

/-- Whether another resident job names the same descriptor (R129). -/
def State.shared (s : State) (j key : Nat) : Bool :=
  s.residents.any fun k => k != j && (List.range (s.reg (K.tableCount k))).any fun n =>
    s.descKey k (s.reg (K.tableList k) + 64 * n) == key

/-- The descriptor's address of the first writable table, from number `n` on, of a job's list that another resident job also names, by
the descriptor's physical address (R129); one that cannot be read is passed over (log 83). -/
def State.sharedFrom (s : State) (j : Nat) : Nat → Nat → Acc (Option Nat)
  | 0, _ => .ok none
  | fuel + 1, n =>
    let a := s.reg (K.tableList j) + 64 * n
    if s.shared j (s.descKey j a) then
      match s.readVa j a 64 with
      | .ok b => if bit (nb b 10 1) 2 then s.sharedFrom j fuel (n + 1) else .ok (some a)
      | .fail _ _ => s.sharedFrom j fuel (n + 1)
      | .far nd x l => .far nd x l
      | .wait => .wait
    else s.sharedFrom j fuel (n + 1)

/-- A writable table of a job's list that another resident job also names (R129). -/
def State.sharedWritable (s : State) (j : Nat) : Acc (Option Nat) := s.sharedFrom j (s.reg (K.tableCount j)) 0

/-! ### Promotion maps (R118, R119) -/

/-- The address of a row's map entry. -/
def mapAddr (e : ShardE) (row : Nat) : Nat := e.map + 8 * (row - e.first)

/-- Level of a map entry. -/
def mapLevel (v : Nat) : Nat := bits v 0 2
/-- migrating. -/
def mapMigrating (v : Nat) : Bool := bit v 2
/-- age. -/
def mapAge (v : Nat) : Nat := bits v 4 2
/-- generation. -/
def mapGen (v : Nat) : Nat := bits v 8 8
/-- slot. -/
def mapSlot (v : Nat) : Nat := bits v 16 36

/-- A map entry. -/
def mapEntry (lv : Nat) (migrating : Bool) (age gen slot : Nat) : Nat :=
  lv + (if migrating then 4 else 0) + age * 16 + gen * 256 + slot * 65536

/-- Whether a map entry is valid (R119). -/
def mapOk (t : Table) (e : ShardE) (v : Nat) : Bool :=
  t.enabled (mapLevel v) && mapSlot v < e.slots.getD (mapLevel v) 0 && !bit v 3 && bits v 6 2 == 0 && bits v 52 12 == 0

/-- The address of slot `slot` of a level (R115). -/
def slotAddr (t : Table) (e : ShardE) (lv slot : Nat) : Nat := e.bases.getD lv 0 + slot * rowStride (t.fmt lv) t.dim

/-! ### Rows (R115, R117) -/

/-- Whether a row's reserved header bytes are nonzero (R115, R117). -/
def rowHeaderBad (f : Nat) (b : List Byte) : Bool :=
  if f ≤ 2 then false else if isFp8 f then nb b 4 4 != 0 else nb b 5 3 != 0 || (f == fmI4 && nb b 4 1 ≥ 16)

/-- A row expanded to fp32 codes under a command's saturate bit (R49, R117), with OVERFLOW and NONFINITE; none where reserved header
bytes are nonzero (R117). -/
def expandRow (sat : Bool) (f d : Nat) (b : List Byte) : Option (List Nat × Bool × Bool) :=
  let body (n : Nat) := elemsOf f (b.drop n) d
  let near32 (l : List Num) : List Nat × Bool × Bool :=
    let r := l.map (encode fmF32 0 sat 0)
    (r.map (·.code), r.any (·.ovf), r.any fun c => nonfinite fmF32 c.code)
  if rowHeaderBad f b then none
  else if f = fmF32 then some (body 0, false, (body 0).any (nonfinite fmF32))
  else if f = fmBf16 then
    let l := (body 0).map (· * 65536)
    some (l, false, l.any (nonfinite fmF32))
  else if isFp8 f then some (near32 ((body 8).map fun c => (decodeNum fmF32 (nb b 0 4)).mul (decodeNum f c)))
  else some (near32 ((body 8).map fun c => dequant (nb b 0 4) c (nb b 4 1)))

/-! ### Bag batches (R131, R132) -/

/-- A bag batch descriptor. -/
structure Batch where
  offsets : Nat
  indices : Nat
  weights : Nat
  total   : Nat
  wide    : Bool
  deriving DecidableEq, Repr

/-- The batch descriptor at an address (R131). -/
def State.batchAt (s : State) (j addr : Nat) : Acc Batch :=
  accBind (s.embGet j addr 32) fun b =>
    if nb b 28 4 / 2 ≠ 0 then .fail 0x02 0
    else .ok { offsets := nb b 0 8, indices := nb b 8 8, weights := nb b 16 8, total := nb b 24 4, wide := bit (nb b 28 1) 0 }

/-- The offset of bag `b`. -/
def State.offsetAt (s : State) (j : Nat) (B : Batch) (b : Nat) : Acc Nat :=
  let w := if B.wide then 8 else 4
  accBind (s.embGet j (B.offsets + w * b) w) fun l => .ok (leNat l)

/-- The address of index position `k` (R131). -/
def indexAddr (t : Table) (B : Batch) (k : Nat) : Nat := B.indices + (if t.idx64 then 8 else 4) * k

/-- The index at position `k`. -/
def State.indexAt (s : State) (j : Nat) (t : Table) (B : Batch) (k : Nat) : Acc Nat :=
  accBind (s.embGet j (indexAddr t B k) (if t.idx64 then 8 else 4)) fun l => .ok (leNat l)

/-- The weight of position `k`. -/
def State.weightAt (s : State) (j : Nat) (B : Batch) (k : Nat) : Acc Nat :=
  accBind (s.embGet j (B.weights + 4 * k) 4) fun l => .ok (leNat l)

/-- Whether an index is a pad (R114). -/
def isPad (t : Table) (i : Nat) : Bool := i == (if t.idx64 then 2 ^ 64 - 1 else 2 ^ 32 - 1)

/-- The checks of the offsets of bags `b` to `b + n − 1` (R132). -/
def State.offsetsOk (s : State) (j : Nat) (B : Batch) : Nat → Nat → Acc Unit
  | 0, _ => .ok ()
  | n + 1, b =>
    accBind (s.offsetAt j B b) fun x =>
    accBind (s.offsetAt j B (b + 1)) fun y =>
      if y < x then .fail 0x04 y
      else if y - x > 65535 then .fail 0x04 (y - x)
      else s.offsetsOk j B n (b + 1)

/-- Reads ahead over a run that must be readable at decode: the first 256 indices or weights (R132). -/
def State.ahead (s : State) (j addr n : Nat) : Acc Unit :=
  if n = 0 then .ok () else accBind (s.embRead j addr n) fun _ => .ok ()

/-! ### Candidate queues (R125) -/

/-- A candidate record. -/
def candRecord (row est thr ee node : Nat) : List Byte :=
  leBytes 8 row ++ leBytes 2 est ++ leBytes 1 thr ++ leBytes 1 ee ++ leBytes 2 node ++ zeros 2

/-- A device's write of its own structure at a job's address: it waits for nothing (log 80), and goes to the lender of its page where the
page rests there; none where it cannot be made. -/
def State.ownWrite (s : State) (j addr : Nat) (bs : List Byte) : Option State :=
  match State.writeEach (fun s n a b => s.putFar j n a b) .core j (bs.length / 65536 + 2) addr bs s with
  | .ok t => some t
  | _ => none

/-- Appends a record to the candidate queue of a shard, or drops it where the queue is full (R125): whether it was appended, and the
state. A queue that cannot be read or written takes none (log 83). -/
def State.candAppend (s : State) (j : Nat) (e : ShardE) (r : List Byte) : Acc (Bool × State) :=
  match s.readVa j e.cand 24 with
  | .ok h =>
    let n := 2 ^ (8 + e.size)
    let produced := nb h 0 8
    let s := s.didRead j e.cand 24
    if (produced + 2 ^ 64 - nb h 8 8) % 2 ^ 64 ≥ n then
      .ok (false, (s.ownWrite j (e.cand + 16) (leBytes 8 (nb h 16 8 + 1))).getD s)
    else match (s.ownWrite j (e.cand + 64 + 16 * (produced % n)) r).bind fun s => s.ownWrite j e.cand (leBytes 8 (produced + 1)) with
      | some t => .ok (true, t)
      | none => .ok (false, s)
  | .fail _ _ => .ok (false, s)
  | .far nd x l => .far nd x l
  | .wait => .wait

/-! ### Caches of rows and map entries (R128, R177 step 5) -/

/-- Removes a row from the hot-row and map caches of every EE and of the row server; no outstanding fetch of it fills
a cache (R128, R130, R177). -/
def State.evictRow (s : State) (key row : Nat) : State :=
  { s with
    ees := s.ees.map fun (e : Ee) => { e with
      cache := e.cache.filter fun c => !(c.desc == key && c.row == row)
      mapCache := e.mapCache.filter fun m => !(m.1 == key && m.2.1 == row)
      fetches := e.fetches.map fun f => if f.desc == key && f.row == row then { f with noFill := true } else f }
    fab := { s.fab with rowCache := s.fab.rowCache.filter fun m => !(m.1 == key && m.2.1 == row) } }

/-- Removes every cached row and map entry of a descriptor (R128). -/
def State.evictDesc (s : State) (key : Nat) : State :=
  { s with
    ees := s.ees.map fun (e : Ee) => { e with
      cache := e.cache.filter fun c => c.desc != key
      mapCache := e.mapCache.filter fun m => m.1 != key
      fetches := e.fetches.map fun f => if f.desc == key then { f with noFill := true } else f }
    fab := { s.fab with rowCache := s.fab.rowCache.filter fun m => m.1 != key } }

/-- Removes every row that came from another module of the tables of a job: its next agreement result (R128). -/
def State.evictRemote (s : State) (j : Nat) : State :=
  let keys := (List.range (s.reg (K.tableCount j))).map fun n => s.descKey j (s.reg (K.tableList j) + 64 * n)
  { s with ees := s.ees.map fun (e : Ee) => { e with
      cache := e.cache.filter fun c => !(c.remote && keys.contains c.desc)
      fetches := e.fetches.map fun f => if f.stage = .remote && keys.contains f.desc then { f with noFill := true } else f } }

/-- The descriptors a job's table list names leave the caches where no other resident job names them (R128). -/
def State.evictList (s : State) (j : Nat) : State :=
  ((List.range (s.reg (K.tableCount j))).map fun n => s.descKey j (s.reg (K.tableList j) + 64 * n)).foldl
    (fun s k => if s.shared j k then s else s.evictDesc k) s

/-! ### Gradient region descriptors (R157, R158) -/

/-- A gradient region descriptor. -/
structure GradDesc where
  addr   : Nat
  dir    : Nat
  data   : Nat
  bits'  : Nat
  ovf    : Nat
  cap    : Nat
  limit  : Nat
  head   : Nat
  epoch  : Nat
  deriving DecidableEq, Repr

/-- The gradient region of a table, checked (R158). -/
def State.gradDesc (s : State) (j num : Nat) : Acc GradDesc :=
  let addr := s.reg (K.gradList j) + 64 * num
  accBind (s.embRead j addr 64) fun b =>
    let g : GradDesc := { addr := addr, dir := nb b 0 8, data := nb b 8 8, bits' := nb b 16 1, ovf := nb b 24 8,
                          cap := nb b 32 4, limit := nb b 36 4, head := nb b 40 8, epoch := nb b 48 4 }
    if nb b 17 7 ≠ 0 ∨ nb b 52 12 ≠ 0 ∨ g.dir % 512 ≠ 0 ∨ g.data % 64 ≠ 0 ∨ g.bits' < 4 ∨ g.bits' > 28 ∨
      g.ovf % 65536 ≠ 0 then .fail 0x13 (badTable num)
    else .ok g

/-- Bytes of a data slot (R159). -/
def gradStride (d : Nat) : Nat := roundUp (4 * d) 64

/-- Whether any group of a job spans more than one module (R149). A group whose entry cannot be read does not (DESIGN CHOICE, log 83). -/
def State.spansModules (s : State) (j : Nat) : Bool :=
  (List.range (s.reg (K.groupCount j))).any fun g =>
    match s.readVa j (s.reg (K.groupList j) + 16 * g) 16 with
    | .ok b => nb b 8 2 > 1
    | _ => false

/-- The protection of a table against GRAD_SCATTER and COMBINE_FLUSH (R129, R149). -/
def State.writeGuard (s : State) (j : Nat) (t : Table) : Bool :=
  t.readOnly || (t.placement == 0 && s.spansModules j)

end Sys2Proof.Machine
end

