-- ==== Sys2Proof/Machine/Embed.lean ====
section
/-! DEFINITION. Look-up and pooling on the embedding engines (R114, R119 to R128, R130 to R138, R144 to R146): the
acceptance of index positions, fetches, the hot-row and map caches, bag trackers, the sketch and its candidates.

A position is 2^17 · bag + index within the bag. -/

namespace Sys2Proof.Machine

/-! ### The engine's state -/

/-- EE `k`. -/
def State.ee (s : State) (k : Nat) : Ee := (s.ees[k]?).getD (Ee.reset k)

/-- Sectors outstanding on an EE: of its fetches and of its partials (R137, R138, R155). -/
def Ee.sectorsOut (e : Ee) : Nat := (e.fetches.map (·.sectors)).sum + (e.partials.map (·.sectors)).sum

/-- Trackers not FREE (R136). -/
def Ee.trackersBusy (e : Ee) : Nat := (e.trackers.map (·.width)).sum

/-- Combining ways a row of dimension `d` takes (R152). -/
def combWays (d : Nat) : Nat := ceilDiv d 128

/-- Combining ways in use. -/
def Ee.waysHeld (e : Ee) : Nat := (e.comb.map fun c => combWays c.acc.length).sum

/-- Blocks of a cached row (R126). -/
def CacheRow.blocks (c : CacheRow) : Nat := max 1 (ceilDiv c.bytes.length 64)

/-- The most recently used rows that fit in `room` blocks. -/
def keepRows (room : Nat) : List CacheRow → List CacheRow
  | [] => []
  | c :: t => if c.blocks ≤ room then c :: keepRows (room - c.blocks) t else []

/-- A row enters the hot-row cache; least recently used rows leave it (R126; exact LRU, log 21). -/
def Ee.fill (e : Ee) (c : CacheRow) : Ee :=
  { e with cache := keepRows 65536 (c :: e.cache.filter fun x => !(x.desc == c.desc && x.row == c.row)) }

/-- A map entry enters the map cache (R130). -/
def Ee.fillMap (e : Ee) (key row v : Nat) : Ee :=
  { e with mapCache := ((key, row, v) :: e.mapCache.filter fun m => !(m.1 == key && m.2.1 == row)).take 32768 }

/-- The state with the tracker of a bag changed. -/
def Ee.modBag (e : Ee) (b : Nat) (f : Tracker → Tracker) : Ee :=
  { e with trackers := e.trackers.map fun t => if t.bag == b then f t else t }

/-- The head command of an EE's queue that is in execution. -/
def State.embedding (s : State) (k : Nat) : Option (QCmd × Clause × InFlight) :=
  match s.queue ⟨.embed, k⟩ with
  | none => none
  | some Q => match Q.cmds, Q.infl with
    | c :: _, some f => (s.clause c.seq).map fun cl => (c, cl, f)
    | _, _ => none

/-! ### Command fields (R83) -/

/-- table. -/
def embTable (w : Nat) : Nat := cb w 4 1
/-- pool_mode. -/
def embMode (w : Nat) : Nat := bits w 40 2
/-- phrase. -/
def embPhrase (w : Nat) : Nat := cb w 6 1
/-- batch. -/
def embBatch (w : Nat) : Nat := cb w 8 8
/-- region. -/
def embRegion (w : Nat) : Nat := cb w 16 4
/-- first_bag. -/
def embFirst (w : Nat) : Nat := cb w 20 4

/-- The fields of LOOKUP_POOL and GRAD_SCATTER. -/
def embFields : List (Nat × Nat) := headFields ++ [(32, 8), (40, 2), (48, 8), (64, 64), (128, 32), (160, 32)]

/-- The refusal of a phrase number (R36, R104). -/
def State.phraseRefused (s : State) (j n : Nat) : Option (Nat × Nat) :=
  if s.physical then
    if s.phrasePresent n = false then some (0x10, n) else if s.phraseUp n = false then some (0x11, n) else none
  else if n ≥ s.reg (K.logicalPhrases j) then some (0x12, n) else none

/-- The decode checks of LOOKUP_POOL and GRAD_SCATTER (R73, R45, R83, R104, R132). -/
def State.embChecks (s : State) (cl : Clause) (w : Nat) : List (Bool × Nat × Nat) :=
  let p := s.phraseRefused cl.job (embPhrase w)
  [ (reservedSet w embFields, 0x02, 0), (rndOf w = 3, 0x03, 3), (countOf w = 0, 0x04, 0),
    (embMode w = 3, 0x04, 3), (p.isSome, (p.getD (0, 0)).1, (p.getD (0, 0)).2),
    (embPhrase w != cl.declPhrase, 0x07, embRegion w) ]

/-- A body over an access: a failed access halts the command, bytes of another module are fetched first. -/
def onAcc {α : Type} (s : State) (j : Nat) (x : Acc α) (k : α → Run) : Run :=
  match x with
  | .ok a => k a
  | .fail r d => Run.refuse s r d
  | .far n a l => .stay fun s => s.fetchFar j n a l
  | .wait => .wait

/-- Reads and checks the batch of a command (R131, R132): bag_total, the offsets, and the first 256 indices and
weights. -/
def State.batchOf (s : State) (j w : Nat) (t : Table) : Acc Batch :=
  accBind (s.batchAt j (embBatch w)) fun B =>
    let first := embFirst w
    let n := countOf w
    if first + n > B.total then .fail 0x04 (first + n)
    else
      accBind (s.offsetsOk j B n first) fun _ =>
      accBind (s.offsetAt j B first) fun a =>
      accBind (s.offsetAt j B (first + n)) fun b =>
      let m := min 256 (b - a)
      accBind (s.ahead j (indexAddr t B a) ((if t.idx64 then 8 else 4) * m)) fun _ =>
      accBind (if embMode w = 1 then s.ahead j (B.weights + 4 * a) (4 * m) else .ok ()) fun _ => .ok B

/-! ### Sketch and candidates (R122 to R124) -/

/-- The four counters' places of a key. -/
def sketchPlaces (key row : Nat) : List Nat :=
  (List.range 4).map fun r => 16384 * r + Config.sketchHash r key row % 16384

/-- The estimate of a key. -/
def Ee.estimate (e : Ee) (key row : Nat) : Nat :=
  ((sketchPlaces key row).map fun p => cellGet 0 p e.sketch).foldl min 65535

/-- One count of a key in every sketch row, saturating. -/
def Ee.countKey (e : Ee) (key row : Nat) : Ee :=
  { e with sketch := (sketchPlaces key row).foldl (fun m p => cellPut 0 p (min 65535 (cellGet 0 p m + 1)) m) e.sketch }

/-- Counts an index and posts a candidate where the estimate has just become equal to a threshold (R124): appended to this module's
queue or sent to the owner, and counted where it was (R146). A pool table has no queue. -/
def State.sketchIndex (s : State) (k j : Nat) (t : Table) (e : ShardE) (row : Nat) : Acc State :=
  if t.promWarm = 0 ∧ t.promHot = 0 then .ok s
  else
    let old := (s.ee k).estimate t.key row
    let s := s.modEe k fun x => x.countKey t.key row
    let new := (s.ee k).estimate t.key row
    if new ≠ old ∧ ((t.promHot ≠ 0 ∧ new = t.promHot) ∨ (t.promWarm ≠ 0 ∧ new = t.promWarm)) then
      let r := candRecord row new (if t.promHot ≠ 0 ∧ new = t.promHot then 1 else 0) k (s.reg K.nodeId)
      if s.owns t e then
        accBind (s.candAppend j e r) fun x => .ok (if x.1 then x.2.bump (K.eeCandidatesPosted k) 1 else x.2)
      else if t.placement = 1 ∧ (s.portFor (s.realNode e.owner) (2 ^ 48 * e.owner)).isSome then
        .ok ((s.sendFrame 0x0C e.owner (s.keyOf j) 0 1 (2 ^ 48 * e.owner) t.num 0 r).bump (K.eeCandidatesPosted k) 1)
      else .ok s
    else .ok s

/-! ### Pooling (R133, R134) -/

/-- One row added with a weight into an accumulator, each element rounded once (R133). -/
def poolRow (sat : Bool) (w : Num) (acc : List Coded) (row : List Nat) : List Coded :=
  (acc.zip row).map fun p =>
    let r := encode fmF32 0 sat 0 (((decodeNum fmF32 p.2).mul w).add (decodeNum fmF32 p.1.code))
    { r with ovf := r.ovf || p.1.ovf }

/-- A bag's d elements: its contributions in an order that is not promised, and the division of mean. -/
def poolBag (seed bag mode d : Nat) (sat : Bool) (t : Tracker) : List Coded :=
  let zero : Coded := { code := 0, ovf := false }
  let acc := (anyOrder seed bag t.parts).foldl (fun a p => poolRow sat (decodeNum fmF32 p.1) a p.2) (List.replicate d zero)
  if mode = 2 ∧ t.n ≠ 0 then
    acc.map fun x =>
      let r := encode fmF32 0 sat 0 ((decodeNum fmF32 x.code).div (intNum t.n))
      { r with ovf := r.ovf || x.ovf }
  else acc

/-- Writes a finished bag to its place in the region and frees its trackers (R133, R136). -/
def State.writeBag (s : State) (k : Nat) (c : QCmd) (cl : Clause) (d : Nat) (t : Tracker) : State :=
  let r := poolBag s.free t.bag (embMode c.word) d (satOf c.word) t
  let v := embRegion c.word
  let nf := r.any (fun x => nonfinite fmF32 x.code) ||
    t.parts.any fun p => nonfinite fmF32 p.1 || p.2.any (nonfinite fmF32)
  let s := s.modCtx cl.declUnit fun x =>
    x.writeLocal (opRes v) (opOff v + 4 * d * t.bag) (packElems fmF32 (r.map (·.code)))
  let s := (s.raise c.seq (r.any (·.ovf)) nf).modClause c.seq fun y => { y with wrote := true }
  s.modEe k fun e => { e with trackers := e.trackers.filter fun x => x.bag != t.bag }

/-- Writes every bag that is sealed and awaits nothing. -/
def State.writeBags (s : State) (k : Nat) (c : QCmd) (cl : Clause) (d : Nat) : State :=
  ((s.ee k).trackers.filter fun t => t.sealed && t.awaited == 0).foldl (fun s t => s.writeBag k c cl d t) s

/-- A row's contribution reaches a bag. -/
def Tracker.pool (t : Tracker) (w : Nat) (row : List Nat) : Tracker := { t with parts := t.parts ++ [(w, row)] }

/-! ### Fetches (R119, R138, R140) -/

/-- Requests the bytes of a row that rests with a lender (R291) for a fetch. -/
def State.fetchLent (s : State) (k j id node addr n : Nat) : State :=
  let q : QueueId := ⟨.embed, k⟩
  if s.fab.reqs.any fun r => r.owner == q && r.xid == id then s
  else (List.range (ceilDiv n 512)).foldl (fun s i =>
    let real := if node ≥ 2 ^ 16 then node - 2 ^ 16 else node
    s.request 0x01 j q id node (2 ^ 48 * real + addr + 512 * i) (min 512 (n - 512 * i)) 0 []) s

/-- The row's request departs: translated, counted, and sent to a lender where its page rests there. -/
def State.rowDeparts (s : State) (k j id addr n : Nat) : State :=
  let s := ((s.translate (.ee k) j addr n).bump (K.eeRowFetches k) 1).count (0x20 + k) 0x12 1 (some j)
  match s.embRead j addr n with
  | .far node a l => s.fetchLent k j id node a l
  | _ => s

/-- The least fetch number not in use. -/
def Ee.freshId (e : Ee) : Nat := (e.fetches.map (·.id)).foldl (fun a i => max a (i + 1)) 0

/-- A new fetch for a bag's index. -/
def State.newFetch (s : State) (k j : Nat) (t : Table) (e : ShardE) (stage : FetchStage) (row gen lv addr sectors ipos bag w : Nat) : State :=
  s.modEe k fun x => { x with fetches := x.fetches ++ [{
    id := x.freshId, stage := stage, job := j, desc := t.key, row := row, gen := gen, level := lv, addr := addr,
    sectors := sectors, ipos := ipos, noFill := false, bags := [(bag, w)], table := t, shard := e }] }

/-- What an index position does: the next position follows, acceptance stops, or the command halts. -/
inductive Accept
  | next (s : State)
  | stop (s : State)
  | halt (s : State) (reason detail : Nat)

/-- The counted acceptance of a position (R146, R463). -/
def State.accepted (s : State) (k j : Nat) : State :=
  (((s.modEe k fun e => { e with accepted := e.accepted + 1 }).bump (K.eeIndicesAccepted k) 1)).count (0x20 + k) 0x10 1 (some j)

/-- The fetch of an index's row that no cache holds: attached to an outstanding one, or sent, or not accepted for want
of sectors (R137, R138). While the level is not known it holds the sectors of the largest enabled level, and one for the map sector
it awaits (DESIGN CHOICE, log 84). -/
def State.fetchRow (s : State) (k j : Nat) (t : Table) (e : ShardE) (row ipos bag w : Nat) : Option State :=
  let x := s.ee k
  let await (s : State) : State := s.modEe k fun y => y.modBag bag fun b => { b with awaited := b.awaited + 1 }
  match x.fetches.find? (fun f => f.desc == t.key && f.row == row && f.job == j && !f.noFill) with
  | some f =>
    let s := s.modEe k fun y => { y with fetches := y.fetches.map fun g =>
      if g.id == f.id then { g with bags := g.bags ++ [(bag, w)] } else g }
    some (await ((s.bump (K.eeAttached k) 1).count (0x20 + k) 0x13 1 (some j)))
  | none =>
    let id := x.freshId
    let max' := t.maxSectors
    let room := 8192 - x.sectorsOut
    if t.placement = 2 then
      let lv := t.firstLevel
      if rowSectors (t.fmt lv) t.dim > room then none
      else
        let a := slotAddr t e lv row
        some (await ((s.newFetch k j t e .row row 0 lv a (rowSectors (t.fmt lv) t.dim) ipos bag w).rowDeparts k j id a
          (rowStride (t.fmt lv) t.dim)))
    else if s.owns t e = false then
      if max' > room then none
      else
        let s := (s.newFetch k j t e .remote row 0 0 0 max' ipos bag w).bump (K.eeRowFetches k) 1
        let s := s.count (0x20 + k) 0x12 1 (some j)
        some (await (s.request 0x09 j ⟨.embed, k⟩ id e.owner (2 ^ 48 * e.owner + t.addr % 2 ^ 48) (t.addr % 2 ^ 32) 0
          (padTo 16 (leBytes 8 row))))
    else
      match x.mapCache.find? fun m => m.1 == t.key && m.2.1 == row with
      | some m =>
        let lv := mapLevel m.2.2
        let n := rowSectors (t.fmt lv) t.dim
        if n > room then none
        else
          let a := slotAddr t e lv (mapSlot m.2.2)
          let s := s.modEe k fun y => y.fillMap t.key row m.2.2
          some (await ((s.newFetch k j t e .row row (mapGen m.2.2) lv a n ipos bag w).rowDeparts k j id a
            (rowStride (t.fmt lv) t.dim)))
      | none =>
        if max' + 1 > room then none
        else
          let s := (s.newFetch k j t e .map row 0 0 (mapAddr e row) (max' + 1) ipos bag w).translate (.ee k) j (mapAddr e row) 8
          let s := s.bump (K.eeMapMisses k) 1
          some (await (s.count (0x20 + k) 0x14 1 (some j)))

/-- Takes one non-pad index with its weight (R114, R126, R144); `sat` is the command's saturate bit (R49). -/
def State.takeIndex (s : State) (k : Nat) (cl : Clause) (t : Table) (sat : Bool) (row ipos bag w : Nat) : Accept :=
  let j := cl.job
  if row ≥ t.rows then .halt (s.accepted k j) 0x20 ipos
  else match s.shardOf j t row with
    | .fail r d => .halt s r d
    | .far n a l => .stop (s.fetchFar j n a l)
    | .wait => .stop s
    | .ok none => .halt (s.accepted k j) 0x20 ipos
    | .ok (some e) =>
      let counted (v : State) (k' : State → Accept) : Accept :=
        match (v.accepted k j).sketchIndex k j t e row with
        | .ok v => k' (v.modEe k fun x => x.modBag bag fun b => { b with n := b.n + 1 })
        | .far n a l => .stop (s.fetchFar j n a l)
        | _ => .stop s
      match (s.ee k).cache.find? fun c => c.desc == t.key && c.row == row with
      | some c =>
        match expandRow sat (t.fmt c.level) t.dim c.bytes with
        | none => counted s fun s => .halt s 0x30 c.addr
        | some r =>
          let s := s.modEe k fun x => (x.fill c).modBag bag fun b => b.pool w r.1
          let s := ((s.bump (K.eeCacheHits k) 1).count (0x20 + k) 0x11 1 (some j)).raise cl.seq r.2.1 r.2.2
          counted s .next
      | none =>
        match s.fetchRow k j t e row ipos bag w with
        | none => .stop s
        | some s => counted s .next

/-- The progress of a LOOKUP_POOL: bags written before the first unwritten one (R135). -/
def State.lookupProgress (s : State) (k bags pos : Nat) : Nat :=
  ((s.ee k).trackers.map (·.bag)).foldl min (min bags (pos / 2 ^ 17))

/-- How a run of acceptances ends: every position accepted, or stopped at one, or a halt. -/
inductive Taken
  | stop (s : State) (pos : Nat)
  | halt (s : State) (pos reason detail : Nat)

/-- Accepts positions from `pos` on (R136, R137). -/
def State.acceptRun (s : State) (k : Nat) (c : QCmd) (cl : Clause) (t : Table) (B : Batch) : Nat → Nat → Taken
  | 0, pos => .stop s pos
  | fuel + 1, pos =>
    let bag := pos / 2 ^ 17
    let i := pos % 2 ^ 17
    let j := cl.job
    if bag ≥ countOf c.word then .stop s pos
    else
      let open' := (s.ee k).trackers.any (·.bag == bag)
      let width := ceilDiv t.dim 256
      if open' = false ∧ (s.ee k).trackersBusy + width > 512 then .stop s pos
      else
        let s := if open' then s
          else s.modEe k fun e => { e with trackers := e.trackers ++ [
            { bag := bag, width := width, n := 0, awaited := 0, parts := [], sealed := false }] }
        match s.offsetAt j B (embFirst c.word + bag), s.offsetAt j B (embFirst c.word + bag + 1) with
        | .ok a, .ok b =>
          if a + i ≥ b then
            let s := s.modEe k fun e => e.modBag bag fun x => { x with sealed := true }
            (s.writeBags k c cl t.dim).acceptRun k c cl t B fuel (2 ^ 17 * (bag + 1))
          else
            match s.indexAt j t B (a + i), (if embMode c.word = 1 then s.weightAt j B (a + i) else .ok 0x3F800000) with
            | .ok x, .ok w =>
              let s := (s.translate (.ee k) j (indexAddr t B (a + i)) 4).didRead j (indexAddr t B (a + i)) (if t.idx64 then 8 else 4)
              let s := if embMode c.word = 1 then (s.translate (.ee k) j (B.weights + 4 * (a + i)) 4).didRead j (B.weights + 4 * (a + i)) 4
                else s
              if isPad t x then
                ((s.accepted k j).bump (K.eePads k) 1).acceptRun k c cl t B fuel (pos + 1)
              else match s.takeIndex k cl t (satOf c.word) x (indexAddr t B (a + i)) bag w with
                | .next s => s.acceptRun k c cl t B fuel (pos + 1)
                | .stop s => .stop s pos
                | .halt s r d => .halt s pos r d
            | .fail r d, _ => .halt s pos r d
            | _, .fail r d => .halt s pos r d
            | .far n a l, _ => .stop (s.fetchFar j n a l) pos
            | _, .far n a l => .stop (s.fetchFar j n a l) pos
            | _, _ => .stop s pos
        | .fail r d, _ => .halt s pos r d
        | _, .fail r d => .halt s pos r d
        | .far n a l, _ => .stop (s.fetchFar j n a l) pos
        | _, .far n a l => .stop (s.fetchFar j n a l) pos
        | _, _ => .stop s pos

/-- Positions a command may hold, and a step for the end of each bag. -/
abbrev lookupFuel : Nat := 2 ^ 33

/-- The state of a LOOKUP_POOL in execution after a run of acceptances: it completes when every bag is written. -/
def State.lookupEnd (k : Nat) (c : QCmd) (cl : Clause) : Taken → State
  | .halt s pos r d =>
    let p := s.lookupProgress k (countOf c.word) pos
    s.haltCmd ⟨.embed, k⟩ c cl r d p pos (p != 0)
  | .stop s pos =>
    let q : QueueId := ⟨.embed, k⟩
    let s := s.modQueue q fun Q => { Q with
      infl := some { progress := s.lookupProgress k (countOf c.word) pos, pos := pos, waits := [] } }
    if pos / 2 ^ 17 ≥ countOf c.word ∧ (s.ee k).trackers = [] then
      (s.modEe k fun e => { e with fetches := [] }).completeCmd q none
    else s

/-- A LOOKUP_POOL in execution accepts what it can. -/
def State.lookupGoOn (s : State) (k : Nat) : State :=
  match s.embedding k with
  | none => s
  | some (c, cl, f) =>
    if cb c.word 0 1 ≠ 0x50 then s
    else match s.tableOf cl.job (embTable c.word), s.batchAt cl.job (embBatch c.word) with
      | .ok t, .ok B => State.lookupEnd k c cl (s.acceptRun k c cl t B lookupFuel f.pos)
      | .fail r d, _ => State.lookupEnd k c cl (.halt s f.pos r d)
      | _, .fail r d => State.lookupEnd k c cl (.halt s f.pos r d)
      | .far n a l, _ => s.fetchFar cl.job n a l
      | _, .far n a l => s.fetchFar cl.job n a l
      | _, _ => s

/-- The words of an EE's bag trackers and flush buffer (R136, R155, R414). -/
abbrev trackerWords : List Words := [(0x0F, 0, 655360)]

/-- The words of an EE's combining table (R152, R414). -/
abbrev combWords : List Words := [(0x0E, 0, 2097152)]

/-- Runs LOOKUP_POOL: descriptor, batch and region are checked, and the first positions are accepted. -/
def runLookupPool (s : State) (c : QCmd) (cl : Clause) (flt : Option HwFault) : Run :=
  let k := cl.unit
  let j := cl.job
  let w := c.word
  Run.resumed c <| decoded s (s.embChecks cl w)
    (onAcc s j (s.tableOf j (embTable w)) fun t =>
     onAcc s j (s.sharedWritable j) fun shared =>
     match shared with
     | some a => Run.refuse s 0x21 a
     | none =>
     onAcc s j (s.batchOf j w t) fun B =>
     boarded s cl cl.declUnit [opnd (embRegion w) (4 * t.dim * countOf w) true] trackerWords noCheck flt fun flt =>
       (match flt with
        | some h => Run.refuse s h.reason h.detail
        | none =>
          let first := if c.again then 2 ^ 17 * c.prog else 0
          let s := s.modEe k Ee.drop
          match s.acceptRun k c cl t B lookupFuel first with
          | .halt s pos r d =>
            let p := s.lookupProgress k (countOf w) pos
            .halt s r d p pos (p != 0)
          | .stop s pos =>
            if pos / 2 ^ 17 ≥ countOf w ∧ (s.ee k).trackers = [] then .done (s.modEe k fun e => { e with fetches := [] })
            else .busy s { progress := s.lookupProgress k (countOf w) pos, pos := pos, waits := [] }))

/-- LOOKUP_POOL (R133). -/
def execLookupPool (k : Nat) (flt : Option HwFault) (s : State) : Host.Outcome State Fault Refusal :=
  finish s (s.issue ⟨.embed, k⟩ (isOp 0x50) flt runLookupPool)

/-! ### Arrivals (R140) -/

/-- A row's bytes reach an EE: they fill the cache where the table's rows allocate, and the row is pooled into every bag
that waits for it. -/
def State.poolArrival (s : State) (k : Nat) (c : QCmd) (cl : Clause) (f : Fetch) (lv gen : Nat) (b : List Byte) : State :=
  let t := f.table
  match expandRow (satOf c.word) (t.fmt lv) t.dim b with
  | none =>
    let pos := match s.embedding k with | some x => x.2.2.pos | none => 0
    State.lookupEnd k c cl (.halt s pos 0x30 f.addr)
  | some r =>
    let s := s.modEe k fun e =>
      let e := if t.cache && !f.noFill then
          e.fill { desc := t.key, row := f.row, gen := gen, level := lv, addr := f.addr, remote := f.stage == .remote, bytes := b }
        else e
      let e := f.bags.foldl (fun e p => e.modBag p.1 fun x => { x.pool p.2 r.1 with awaited := x.awaited - 1 }) e
      { e with fetches := e.fetches.filter (·.id != f.id) }
    ((s.raise cl.seq r.2.1 r.2.2).writeBags k c cl t.dim).lookupGoOn k

/-- The map sector of a fetch arrives: its entry is checked (R119) and the row's request departs. -/
def State.mapArrival (s : State) (k : Nat) (c : QCmd) (cl : Clause) (f : Fetch) (v : Nat) : State :=
  let t := f.table
  let e := f.shard
  if mapOk t e v = false then
    let pos := match s.embedding k with | some x => x.2.2.pos | none => 0
    State.lookupEnd k c cl (.halt s pos 0x20 f.addr)
  else
    let lv := mapLevel v
    let a := slotAddr t e lv (mapSlot v)
    let s := s.modEe k fun x =>
      let x := if f.noFill then x else x.fillMap t.key f.row v
      { x with fetches := x.fetches.map fun g => if g.id == f.id then
          { g with stage := .row, gen := mapGen v, level := lv, addr := a, sectors := rowSectors (t.fmt lv) t.dim } else g }
    (s.rowDeparts k cl.job f.id a (rowStride (t.fmt lv) t.dim)).lookupGoOn k

/-- A row or map sector that an EE requested from this module's memory or a lender arrives (R140): what the controller met is counted, an
uncorrectable unit is poisoned and, as a fourth parity failure, halts the command with its sector's address (R145, R303 to R305). -/
def rowFetchArrival (k id : Nat) (a : MemAccess) (s : State) : State :=
  match s.embedding k with
  | none => s
  | some (c, cl, x) =>
    if cb c.word 0 1 ≠ 0x50 then s
    else match (s.ee k).fetches.find? (·.id == id) with
      | some f =>
        if f.stage = .remote ∨ s.fab.reqs.any (fun r => r.owner == ⟨.embed, k⟩ && r.xid == id) ∨ s.heldAt cl.job f.addr then s
        else
          let n := if f.stage = .map then 8 else rowStride (f.table.fmt f.level) f.table.dim
          let s := s.accessAt cl.job f.addr n a
          if a.retries > 3 then State.lookupEnd k c cl (.halt s x.pos 0x30 (f.addr / 64 * 64))
          else match s.embRead cl.job f.addr n with
            | .fail r d => State.lookupEnd k c cl (.halt s x.pos r d)
            | .wait => s
            | .far node a l => s.fetchLent k cl.job id node a l
            | .ok b =>
              let s := s.didRead cl.job f.addr n
              if f.stage = .map then s.mapArrival k c cl f (leNat b) else s.poolArrival k c cl f f.level f.gen b
      | none => s

/-- ROW_FETCH_ARRIVAL (R140). -/
def execRowFetchArrival (k id : Nat) (a : MemAccess) (s : State) : Host.Outcome State Fault Refusal :=
  finish s (rowFetchArrival k id a s)

/-! ### Halving (R123) -/

/-- After sketch_decay accepted indices every counter of the sketch is halved, rounding down (R123). The increments that
fall into the halving act on the halved counter, which is one of the two the rule allows. -/
def sketchHalving (k : Nat) (s : State) : State :=
  let n := s.reg (K.eeSketchDecay k)
  if s.eePresent k ∧ n ≤ (s.ee k).accepted then
    s.modEe k fun e => { e with accepted := e.accepted - n
                                sketch := (e.sketch.map fun c => (c.1, c.2 / 2)).filter fun c => c.2 != 0 }
  else s

/-- SKETCH_HALVING (R123). -/
def execSketchHalving (k : Nat) (s : State) : Host.Outcome State Fault Refusal := finish s (sketchHalving k s)

end Sys2Proof.Machine
end

