-- ==== Sys2Proof/Machine/Sparse.lean ====
section
/-! DEFINITION. Sparse gradients: GRAD_SCATTER (R147 to R151), the combining tables and their flushes (R152 to R155),
keyed adds into gradient regions (R158 to R162, R164), parking and pinning of state pages (R167 to R171), and the
parameter sets that say where a row's state rests (R255, R256). -/

namespace Sys2Proof.Machine

/-! ### Parameter sets (R255, R256) -/

/-- A parameter set's descriptor. -/
structure Pset where
  num    : Nat
  addr   : Nat
  count  : Nat
  sfmt   : Nat
  rnd    : Nat
  wfmt   : Nat
  seed   : Nat
  master : Nat
  stride : Nat
  elems  : Nat
  work   : Nat
  commits : Nat
  ks     : List Nat
  deriving DecidableEq, Repr

/-- The halt of R255 for set `p`. -/
def badPset (p : Nat) : Nat := 3 + 256 * (p % 256)

/-- Bytes of one state element. -/
def Pset.ssize (P : Pset) : Nat := if P.sfmt = 0 then 4 else 2

/-- Reserved bytes of a descriptor (R255). -/
def psetReserved (b : List Byte) : Bool :=
  bits (nb b 0 1) 2 2 != 0 || bits (nb b 1 1) 2 2 != 0 || nb b 2 6 != 0 || nb b 12 4 != 0 || nb b 28 4 != 0 ||
    nb b 48 16 != 0 || nb b 96 32 != 0

/-- The fields of set `p`'s descriptor at an address (R255). -/
def psetFields (p addr : Nat) (b : List Byte) : Pset where
  num := p
  addr := addr
  count := nb b 0 1 % 4
  sfmt := nb b 0 1 / 16
  rnd := nb b 1 1 % 4
  wfmt := nb b 1 1 / 16
  seed := nb b 8 4
  master := nb b 16 8
  stride := nb b 24 2
  elems := nb b 26 2
  work := nb b 32 8
  commits := nb b 40 8
  ks := (List.range 8).map fun i => nb b (64 + 4 * i) 4

/-- Parameter set `p` of a job with rows of `elems` elements (R255). -/
def State.psetOf (s : State) (j p elems : Nat) (dense : Bool) : Acc Pset :=
  if p ≥ s.reg (K.psetCount j) then .fail 0x13 (badPset p)
  else
    let addr := s.reg (K.psetList j) + 128 * p
    accBind (s.readVa j addr 128) fun b =>
      let P := psetFields p addr b
      if psetReserved b ∨ P.count = 3 ∨ P.sfmt > 1 ∨ P.rnd > 1 ∨ (dense ∧ P.wfmt > 2) ∨ P.master % 65536 ≠ 0 ∨
        P.stride % 64 ≠ 0 ∨ P.stride < 16 + P.elems * (4 + P.count * P.ssize) ∨ P.stride > 16384 ∨ P.elems ≠ elems then
        .fail 0x13 (badPset p)
      else .ok P

/-- Records to a page. -/
def Pset.perPage (P : Pset) : Nat := 65536 / max 1 P.stride

/-- The address of row `i`'s record (R256). -/
def Pset.recAddr (P : Pset) (i : Nat) : Nat := P.master + i / P.perPage * 65536 + i % P.perPage * P.stride

/-! ### Landing of a keyed add (R159 to R162) -/

/-- The bucket of a row (R160). -/
def bucketOf (x b : Nat) : Nat := x * 0x9E3779B97F4A7C15 % 2 ^ 64 / 2 ^ (64 - b)

/-- What a fold came to: made, with NONFINITE; the bucket and the log are full; halted; or waits for its page. -/
inductive Fold
  | done (s : State) (nf : Bool)
  | full
  | fail (reason detail : Nat)
  | wait

/-- Row and tag of way `w` of a bucket's bytes. -/
def wayOf (b : List Byte) (w : Nat) : Nat × Nat := (nb b (16 * w) 8, nb b (16 * w + 8) 4)

/-- A run of fp32 sums added in memory sector by sector (R62). -/
def State.addRun (s : State) (j : Nat) : Nat → Nat → List Byte → Bool → Acc (State × Bool)
  | 0, _, _, nf => .ok (s, nf)
  | fuel + 1, addr, bs, nf =>
    if bs = [] then .ok (s, nf)
    else
      let m := min bs.length (64 - addr % 64)
      accBind (s.addVa j addr fmF32 (bs.take m)) fun r =>
        r.1.addRun j fuel (addr + m) (bs.drop m) (nf || r.2.2)

/-- The outcome of an access as a fold. -/
def foldAcc (x : Acc (State × Bool)) : Fold :=
  match x with
  | .ok r => .done r.1 r.2
  | .fail r d => .fail r d
  | .far _ _ _ => .wait
  | .wait => .wait

/-- The owner's firmware grants one more page of an overflow log: ovf_limit grows, and the page, which is the job's from then on, takes
a pinned tier 0 frame against its data quota (R162, R163, R299). -/
def State.grantOverflow (s : State) (j : Nat) (g : GradDesc) : Acc State :=
  accBind (s.writeVa j (g.addr + 36) (leBytes 4 (g.limit + 1))) fun s =>
    match s.leafOf j ((g.ovf + 65536 * g.limit) % 2 ^ 48) with
    | some l => if l.allocated ∨ l.src.isSome then .ok s else s.allocate l
    | none => .ok s

/-- Appends an overflow record (R161, R162). One page more is granted at once where the rules allow it. -/
def State.appendOverflow (s : State) (j : Nat) (g : GradDesc) (row e : Nat) (sums : List Byte) (gs : Nat) : Fold :=
  let head := if g.epoch = e then g.head else 0
  let size := 64 + gs
  let grant := head + size > g.limit * 65536 ∧ g.limit < g.cap ∧ s.quotaFits 0 j 65536
  if head + size > (if grant then g.limit + 1 else g.limit) * 65536 then .full
  else
    foldAcc (accBind (if grant then s.grantOverflow j g else .ok s) fun s =>
      accBind (s.writeVa j (g.ovf + head) (leBytes 8 row ++ leBytes 4 e ++ zeros 52 ++ padTo gs sums)) fun s =>
      accBind (s.writeVa j (g.addr + 40) (leBytes 8 (head + size) ++ leBytes 4 e)) fun s =>
        .ok (s.bump K.overflowRecords 1, false))

/-- The keyed add of R160 on a gradient region. -/
def State.keyedFold (s : State) (j : Nat) (g : GradDesc) (d row e : Nat) (sums : List Byte) : Fold :=
  let u := bucketOf row g.bits'
  let dir := g.dir + 512 * u
  let gs := gradStride d
  match s.readVa j dir 512 with
  | .fail r x => .fail r x
  | .far _ _ _ => .wait
  | .wait => .wait
  | .ok b =>
    match (List.range 32).find? fun w => wayOf b w == (row, e) with
    | some w => foldAcc (s.addRun j (d / 8 + 4) (g.data + (32 * u + w) * gs) sums false)
    | none =>
      match (List.range 32).find? fun w => (wayOf b w).2 != e with
      | some w =>
        foldAcc (accBind (s.writeVa j (g.data + (32 * u + w) * gs) (padTo gs sums)) fun s =>
          accBind (s.writeVa j (dir + 16 * w) (leBytes 8 row ++ leBytes 4 e ++ zeros 4)) fun s => .ok (s, false))
      | none => s.appendOverflow j g row e sums gs

/-! ### State pages and the pending-update area (R167 to R171) -/

/-- The leaf of a row's state page, by the job and offset that hold it. A row whose parameter set cannot be read, or whose record no
page maps, has none, and its add goes on to the region (DESIGN CHOICE, log 83). -/
def State.statePage (s : State) (j : Nat) (t : Table) (row : Nat) : Option Leaf :=
  match s.psetOf j t.pset t.dim false with
  | .ok P =>
    let a := P.recAddr row
    if s.isMe (a / 2 ^ 48) then
      (s.leafOf j (a % 2 ^ 48)).bind fun l => (s.home l (a % 2 ^ 48)).map (·.1)
    else none
  | _ => none

/-- A state page pinned until the COMMIT of the epoch for the table completes or the epoch ends in an ellipsis (R167). -/
def State.pinPage (s : State) (h : Leaf) (table e : Nat) : State :=
  let p : Pin0 := { job := h.job, va := h.va, table := table, epoch := e }
  let s := s.keepInTier0 h.job h.va
  if s.mem.pins.contains p then s else s.modMem fun m => { m with pins := m.pins ++ [p] }

/-- A state page requested into tier 0, once however many rows wait for it (R167). -/
def State.requestPage (s : State) (j : Nat) (h : Leaf) (table e : Nat) : State :=
  if s.mem.pageReqs.any fun r => r.job == h.job && r.va == h.va then s
  else (s.modMem fun m => { m with pageReqs := m.pageReqs ++ [{ job := h.job, va := h.va, table := table, epoch := e, failed := none }] }).bump
    (K.pageRequests j) 1

/-- The address of pending entry `w` of bucket `u` (R169). -/
def State.pendAddr (s : State) (j u w : Nat) : Nat := s.reg (K.pendBase j) + (32 * u + w) * s.reg (K.pendStride j)

/-- The bucket of a row in the pending area (R169). -/
def State.pendBucket (s : State) (j table row : Nat) : Nat := bucketOf (row ^^^ table * 2 ^ 56) (s.reg (K.pendBucketBits j))

/-- The header of pending entry `w` of bucket `u`. -/
def State.pendHeader (s : State) (j u w : Nat) : Acc (List Byte) := s.readVa j (s.pendAddr j u w) 64

/-- Whether an epoch's low 32 bits come before another's; epochs of a job stay within 2^32 of each other (R232). -/
def epochBefore (a b : Nat) : Bool := a != b && (b + 2 ^ 32 - a) % 2 ^ 32 < 2 ^ 31

/-- Whether an epoch of a job may still be committed: that of a step open here which has not ended in an ellipsis, or one after the last
agreed epoch that no step here has opened (R165, R169; DEDUCED, log 22). -/
def State.epochLive (s : State) (j e : Nat) : Bool :=
  if s.steps.any fun t => t.job == j && t.epoch % 2 ^ 32 == e then
    s.steps.any fun t => t.job == j && t.state != .ellipsis && t.epoch % 2 ^ 32 == e
  else s.reg (K.agreedEpoch j) == 0 || epochBefore (s.reg (K.agreedEpoch j) % 2 ^ 32) e

/-- Whether a header holds a parked gradient: of an epoch that may still be committed, the keyed add's own among them (R165, R169; log 22). -/
def State.parkedEntry (s : State) (j e : Nat) (h : List Byte) : Bool :=
  bit (nb h 13 1) 0 && (nb h 8 4 == e || s.epochLive j (nb h 8 4))

/-- Parks a partial: folded into its entry, or into a free one of its bucket (R167, R169). -/
def State.parkPartial (s : State) (j table row e page : Nat) (sums : List Byte) : Fold :=
  let u := s.pendBucket j table row
  let heads := (List.range 32).map fun w => s.pendHeader j u w
  match heads.find? (fun h => match h with | .ok _ => false | _ => true) with
  | some (.fail r d) => .fail r d
  | some _ => .wait
  | none =>
    let hs := heads.map fun h => match h with | .ok b => b | _ => []
    match (List.range 32).find? fun w =>
      let h := hs.getD w []
      bit (nb h 13 1) 0 && nb h 0 8 == row && nb h 8 4 == e && nb h 12 1 == table with
    | some w =>
      foldAcc (accBind (s.addRun j 80 (s.pendAddr j u w + 64) sums false) fun r => .ok (r.1.bump (K.parked j) 1, r.2))
    | none =>
      match (List.range 32).find? fun w => !s.parkedEntry j e (hs.getD w []) with
      | some w =>
        let h := leBytes 8 row ++ leBytes 4 e ++ leBytes 1 table ++ leBytes 1 1 ++ zeros 2 ++ leBytes 8 page ++ zeros 40
        foldAcc (accBind (s.writeVa j (s.pendAddr j u w) (h ++ sums)) fun s => .ok (s.bump (K.parked j) 1, false))
      | none => .full

/-- Whether a keyed add waits for an earlier epoch: an open step whose COMMIT for the table has not completed, or, before its own step is
open here, an epoch between the last agreed one and its own, which another module has opened first (R164; DEDUCED, log 22). -/
def State.epochHolds (s : State) (j table e : Nat) : Bool :=
  (s.steps.any fun t => t.job == j && epochBefore (t.epoch % 2 ^ 32) e && t.state != .ellipsis && !t.committed.contains table) ||
    (epochBefore ((s.reg (K.agreedEpoch j) + 1) % 2 ^ 32) e && !s.steps.any fun t => t.job == j && t.epoch % 2 ^ 32 == e)

/-- How a keyed add ends at its owner. -/
inductive Landing
  | done (s : State) (nf : Bool)
  | quota (size : Nat)
  | fail (reason detail : Nat)
  | epochWait
  | stall (s : State)
  | wait

/-- The state in which a table's region has taken a partial of an epoch. -/
def State.markTouched (s : State) (j table e : Nat) : State :=
  if s.mem.touched.contains (j, table, e) then s
  else s.modMem fun m => { m with touched := m.touched ++ [(j, table, e)] }

/-- A fold's outcome for the sender. -/
def landed (j table e size : Nat) : Fold → Landing
  | .done s nf => .done (s.markTouched j table e) nf
  | .full => .quota size
  | .fail r d => .fail r d
  | .wait => .wait

/-- A keyed add of a partial at this module, the owner of the row (R160, R164, R167). -/
def State.landKeyed (s : State) (j table row e : Nat) (sums : List Byte) : Landing :=
  if s.epochHolds j table e then .epochWait
  else match s.tableOf j table, s.gradDesc j table with
    | .ok t, .ok g =>
      let size := 64 + gradStride t.dim
      let sums := padTo (4 * t.dim) sums
      match s.statePage j t row with
      | none => landed j table e size (s.keyedFold j g t.dim row e sums)
      | some h =>
        if h.allocated && h.tier != 0 && (s.fetchFailed h.job h.va).isSome then
          let x := (s.fetchFailed h.job h.va).getD (0, 0)
          .fail x.1 x.2
        else if h.allocated = false ∨ h.tier = 0 then
          landed j table e size ((s.pinPage h table e).keyedFold j g t.dim row e sums)
        else
          let s := s.requestPage j h table e
          if s.reg (K.pendBucketBits j) = 0 then .stall s
          else match s.parkPartial j table row e (2 ^ 48 * s.ownNode + h.va) sums with
            | .done s nf => .done (s.markTouched j table e) nf
            | .full => .stall s
            | .fail r d => .fail r d
            | .wait => .wait
    | .fail r d, _ => .fail r d
    | _, .fail r d => .fail r d
    | _, _ => .wait

/-! ### Combining entries and flushes (R152 to R155) -/

/-- The clause number of a partial that no clause sent: a flush of R30 or of a service. -/
abbrev noClause : Nat := 2 ^ 64

/-- The node that owns the rows of a shard entry. -/
def State.ownerOf (s : State) (t : Table) (e : ShardE) : Nat := if s.owns t e then s.ownNode else e.owner

/-- The payload of a KEYED_ADD frame: row, epoch, sums (log 23). -/
def keyedPayload (row e : Nat) (acc : List Nat) : List Byte := leBytes 8 row ++ leBytes 4 e ++ zeros 4 ++ packElems fmF32 acc

/-- The least number above those of an EE's partials. -/
def Ee.freshPartial (e : Ee) : Nat := (e.partials.map (·.id)).foldl (fun a i => max a (i + 1)) 0

/-- One combining entry leaves the table as a partial (R154, R155): for a row of another module its frames depart. -/
def State.sendPartial (s : State) (k seq : Nat) (c : Comb) : State :=
  let id := (s.ee k).freshPartial
  let owner := c.owner
  let p : Partial := { id := id, seq := seq, job := c.job, table := c.table, row := c.row, epoch := c.epoch, acc := c.acc
                       owner := owner, sectors := ceilDiv (4 * c.acc.length) 64, landed := false }
  let s := s.modEe k fun e => { e with comb := e.comb.erase c, partials := e.partials ++ [p] }
  let s := (s.bump (K.combPartialsSent k) 1).count (0x20 + k) 0x18 1 (some c.job)
  if s.isMe owner then s
  else s.request 0x0B c.job ⟨.embed, k⟩ id owner (2 ^ 48 * owner) c.table 0 (keyedPayload c.row c.epoch c.acc)

/-- Whether an entry's partial fits the sectors an EE may have outstanding (R137, R155). -/
def Ee.roomFor (e : Ee) (c : Comb) : Bool := e.sectorsOut + ceilDiv (4 * c.acc.length) 64 ≤ 8192

/-- Sends the entries that `sel` picks, oldest first, while their sectors fit. -/
def State.flushSome (s : State) (k seq : Nat) (sel : Comb → Bool) : Nat → State
  | 0 => s
  | fuel + 1 =>
    match (s.ee k).comb.reverse.find? sel with
    | none => s
    | some c => if (s.ee k).roomFor c then (s.sendPartial k seq c).flushSome k seq sel fuel else s

/-- Entries of a job on an EE that a flush of table `t` (0xFF: every table) names. -/
def flushes (j t : Nat) (c : Comb) : Bool := c.job == j && (t == 0xFF || c.table == t)

/-- The state of a COMBINE_FLUSH in execution: more entries leave as sectors allow; it completes when none is left and
every partial of its clause has been acknowledged (R155). -/
def State.flushGoOn (s : State) (k : Nat) : State :=
  match s.embedding k with
  | none => s
  | some (c, cl, _) =>
    if cb c.word 0 1 ≠ 0x52 then s
    else
      let s := s.flushSome k cl.seq (flushes cl.job (embTable c.word)) 4097
      if ((s.ee k).comb.any (flushes cl.job (embTable c.word))) || (s.ee k).partials.any (·.seq == cl.seq) then s
      else s.completeCmd ⟨.embed, k⟩ none

/-- The checks of a flush of one table (R109, R149, R158). -/
def State.flushTable (s : State) (j t : Nat) : Acc Unit :=
  accBind (s.tableOf j t) fun T =>
    if s.writeGuard j T then .fail 0x21 T.addr else accBind (s.gradDesc j t) fun _ => .ok ()

/-- The checks of several tables in turn. -/
def State.flushTables (s : State) (j : Nat) : List Nat → Acc Unit
  | [] => .ok ()
  | t :: ts => accBind (s.flushTable j t) fun _ => s.flushTables j ts

/-- Refused partials of an EE for rows of other modules depart again (R98, R162). -/
def State.resendPartials (s : State) (k j : Nat) : State :=
  ((s.ee k).partials.filter fun p => p.job == j && !p.landed && !s.isMe p.owner &&
      !s.fab.reqs.any fun r => r.owner == ⟨.embed, k⟩ && r.what == 0x0B && r.xid == p.id).foldl (fun s p =>
    s.request 0x0B j ⟨.embed, k⟩ p.id p.owner (2 ^ 48 * p.owner) p.table 0 (keyedPayload p.row p.epoch p.acc)) s

/-- Runs COMBINE_FLUSH (R154, R155). -/
def runCombineFlush (s : State) (c : QCmd) (cl : Clause) (flt : Option HwFault) : Run :=
  let k := cl.unit
  let j := cl.job
  let t := embTable c.word
  Run.resumed c <| decoded s [(reservedSet c.word [(0, 8), (8, 1), (9, 2), (32, 8)], 0x02, 0), (rndOf c.word = 3, 0x03, 3)]
    (onAcc s j (s.flushTables j (if t = 0xFF then (((s.ee k).comb.filter fun x => x.job == j).map (·.table)).eraseDups else [t])) fun _ =>
      match s.unitFault ⟨.embed, k⟩ cl.declUnit (combWords ++ trackerWords) noCheck flt with
      | some h => Run.refuse s h.reason h.detail
      | none =>
        let s := if c.again then s.resendPartials k j else s
        let s := s.flushSome k cl.seq (flushes j t) 4097
        if ((s.ee k).comb.any (flushes j t)) || (s.ee k).partials.any (·.seq == cl.seq) then
          .busy s { progress := c.prog, pos := 0, waits := [] }
        else .done s)

/-- COMBINE_FLUSH (R155). -/
def execCombineFlush (k : Nat) (flt : Option HwFault) (s : State) : Host.Outcome State Fault Refusal :=
  finish s (s.issue ⟨.embed, k⟩ (isOp 0x52) flt runCombineFlush)

/-! ### GRAD_SCATTER (R147, R148, R150 to R153) -/

/-- A weighted gradient folded into sums, each element rounded once (R148). -/
def foldGrad (sat : Bool) (w : Num) (g acc : List Nat) : List Coded :=
  (acc.zip g).map fun p => encode fmF32 0 sat 0 (((decodeNum fmF32 p.2).mul w).add (decodeNum fmF32 p.1))

/-- Evicts rows of a set until `need` ways are free; none where their sectors do not fit (R150, R152). -/
def State.evictFor (s : State) (k seq j set need : Nat) : Nat → Option State
  | 0 => some s
  | fuel + 1 =>
    let e := s.ee k
    let mine := e.comb.filter (·.set == set)
    if (mine.map fun c => combWays c.acc.length).sum + need ≤ 8 then some s
    else match mine.getLast? with
      | none => some s
      | some c =>
        if e.roomFor c then
          (((s.sendPartial k seq c).bump (K.combEvictions k) 1).count (0x20 + k) 0x17 1 (some j)).evictFor k seq j set need fuel
        else none

/-- Folds one position into its combining entry, which is allocated where there is none (R152). -/
def State.combine (s : State) (k : Nat) (cl : Clause) (t : Table) (owner row e : Nat) (sat : Bool) (w : Num) (g : List Nat) : Option State :=
  let x := s.ee k
  let hit (c : Comb) : Bool := c.desc == t.key && c.row == row && c.epoch == e && c.job == cl.job
  let store (s : State) (c : Comb) : State :=
    let r := foldGrad sat w g c.acc
    let s := s.modEe k fun y => { y with comb := { c with acc := r.map (·.code) } :: y.comb.filter fun z => !hit z }
    s.raise cl.seq (r.any (·.ovf)) (!w.isFin || g.any (nonfinite fmF32) || r.any fun v => nonfinite fmF32 v.code)
  match x.comb.find? hit with
  | some c => some (((store s c).bump (K.combineHits k) 1).count (0x20 + k) 0x16 1 (some cl.job))
  | none =>
    let set := Config.combineSet t.key row % 512
    (s.evictFor k cl.seq cl.job set (combWays t.dim) 9).map fun s =>
      (store s { set := set, job := cl.job, table := t.num, desc := t.key, row := row, epoch := e, owner := owner
                 acc := List.replicate t.dim 0 }).bump (K.combRowsAllocated k) 1

/-- The number of non-pad positions among `n` from `a` (R148). -/
def State.nonPads (s : State) (j : Nat) (t : Table) (B : Batch) : Nat → Nat → Acc Nat
  | 0, _ => .ok 0
  | n + 1, a =>
    accBind (s.indexAt j t B a) fun x =>
    accBind (s.nonPads j t B n (a + 1)) fun m => .ok (if isPad t x then m else m + 1)

/-- The weight of position `k` of a bag of positions `a` to `b − 1` (R148). -/
def State.scatterWeight (s : State) (j : Nat) (t : Table) (B : Batch) (mode a b k : Nat) : Acc Num :=
  if mode = 1 then accBind (s.weightAt j B k) fun w => .ok (decodeNum fmF32 w)
  else if mode = 2 then accBind (s.nonPads j t B (b - a) a) fun n => .ok (roundTo fmF32 false (oneNum.div (intNum n)))
  else .ok oneNum

/-- Accepts positions of a GRAD_SCATTER from `pos` in ascending order (R150, R151). -/
def State.scatterRun (s : State) (k : Nat) (c : QCmd) (cl : Clause) (t : Table) (B : Batch) (e : Nat) : Nat → Nat → Taken
  | 0, pos => .stop s pos
  | fuel + 1, pos =>
    let bag := pos / 2 ^ 17
    let i := pos % 2 ^ 17
    let j := cl.job
    if bag ≥ countOf c.word then .stop s pos
    else match s.offsetAt j B (embFirst c.word + bag), s.offsetAt j B (embFirst c.word + bag + 1) with
      | .ok a, .ok b =>
        if a + i ≥ b then s.scatterRun k c cl t B e fuel (2 ^ 17 * (bag + 1))
        else
          let counted (s : State) : State :=
            (s.bump (K.combScatterPositions k) 1).count (0x20 + k) 0x10 1 (some j)
          match s.indexAt j t B (a + i), s.scatterWeight j t B (embMode c.word) a b (a + i) with
          | .ok x, .ok w =>
            let s := (s.translate (.ee k) j (indexAddr t B (a + i)) 4).didRead j (indexAddr t B (a + i)) (if t.idx64 then 8 else 4)
            let s := if embMode c.word = 1 then (s.translate (.ee k) j (B.weights + 4 * (a + i)) 4).didRead j (B.weights + 4 * (a + i)) 4
              else s
            if isPad t x then (counted s).scatterRun k c cl t B e fuel (pos + 1)
            else if x ≥ t.rows then .halt (counted s) pos 0x20 (indexAddr t B (a + i))
            else match s.shardOf j t x with
              | .ok none => .halt (counted s) pos 0x20 (indexAddr t B (a + i))
              | .ok (some sh) =>
                let v := embRegion c.word
                let g := elemsOf fmF32 ((s.ctx cl.declUnit).readLocal (opRes v) (opOff v + 4 * t.dim * bag) (4 * t.dim)) t.dim
                match s.combine k cl t (s.ownerOf t sh) x e (satOf c.word) w g with
                | none => .stop s pos
                | some s => (counted s).scatterRun k c cl t B e fuel (pos + 1)
              | .fail r d => .halt s pos r d
              | .far n y l => .stop (s.fetchFar j n y l) pos
              | .wait => .stop s pos
          | .fail r d, _ => .halt s pos r d
          | _, .fail r d => .halt s pos r d
          | .far n y l, _ => .stop (s.fetchFar j n y l) pos
          | _, .far n y l => .stop (s.fetchFar j n y l) pos
          | _, _ => .stop s pos
      | .fail r d, _ => .halt s pos r d
      | _, .fail r d => .halt s pos r d
      | .far n y l, _ => .stop (s.fetchFar j n y l) pos
      | _, .far n y l => .stop (s.fetchFar j n y l) pos
      | _, _ => .stop s pos

/-- The state of a GRAD_SCATTER in execution after a run: it completes when every position is combined and every
partial its clause sent has been acknowledged (R151; DEDUCED, log 24). -/
def State.scatterEnd (k : Nat) (c : QCmd) (cl : Clause) : Taken → State
  | .halt s pos r d => s.haltCmd ⟨.embed, k⟩ c cl r d (pos / 2 ^ 17) pos (pos != 0)
  | .stop s pos =>
    let q : QueueId := ⟨.embed, k⟩
    let s := s.modQueue q fun Q => { Q with infl := some { progress := pos / 2 ^ 17, pos := pos, waits := [] } }
    if pos / 2 ^ 17 ≥ countOf c.word ∧ !(s.ee k).partials.any (·.seq == cl.seq) then s.completeCmd q none else s

/-- A GRAD_SCATTER in execution goes on. -/
def State.scatterGoOn (s : State) (k : Nat) : State :=
  match s.embedding k with
  | none => s
  | some (c, cl, f) =>
    if cb c.word 0 1 ≠ 0x51 then s
    else match s.tableOf cl.job (embTable c.word), s.batchAt cl.job (embBatch c.word) with
      | .ok t, .ok B =>
        State.scatterEnd k c cl (s.scatterRun k c cl t B (s.epochOf cl % 2 ^ 32) lookupFuel f.pos)
      | .fail r d, _ => State.scatterEnd k c cl (.halt s f.pos r d)
      | _, .fail r d => State.scatterEnd k c cl (.halt s f.pos r d)
      | .far n a l, _ => s.fetchFar cl.job n a l
      | _, .far n a l => s.fetchFar cl.job n a l
      | _, _ => s

/-- Runs GRAD_SCATTER (R147, R149, R158). A detected fault strikes after the bags it names. -/
def runGradScatter (s : State) (c : QCmd) (cl : Clause) (flt : Option HwFault) : Run :=
  let k := cl.unit
  let j := cl.job
  let w := c.word
  Run.resumed c <| decoded s (s.embChecks cl w)
    (onAcc s j (s.tableOf j (embTable w)) fun t =>
     if s.writeGuard j t then Run.refuse s 0x21 t.addr
     else
     onAcc s j (s.gradDesc j t.num) fun _ =>
     onAcc s j (s.batchOf j w t) fun B =>
     boarded s cl cl.declUnit [opnd (embRegion w) (4 * t.dim * countOf w) false] (combWords ++ trackerWords) noCheck flt fun flt =>
       (match flt with
        | some h => Run.refuse s h.reason h.detail
        | none =>
          let s := if c.again then s.resendPartials k j else s
          match s.scatterRun k c cl t B (s.epochOf cl % 2 ^ 32) lookupFuel (if c.again then c.pos else 0) with
          | .halt s pos r d => .halt s r d (pos / 2 ^ 17) pos (pos != 0)
          | .stop s pos =>
            if pos / 2 ^ 17 ≥ countOf w ∧ !(s.ee k).partials.any (·.seq == cl.seq) then .done s
            else .busy s { progress := pos / 2 ^ 17, pos := pos, waits := [] }))

/-- GRAD_SCATTER (R148). -/
def execGradScatter (k : Nat) (flt : Option HwFault) (s : State) : Host.Outcome State Fault Refusal :=
  finish s (s.issue ⟨.embed, k⟩ (isOp 0x51) flt runGradScatter)

/-! ### The flush before AGREE (R154) -/

/-- Entries of a job's epoch on any EE (low 32 bits). -/
def ofEpoch (j e : Nat) (c : Comb) : Bool := c.job == j && c.epoch == e

/-- Whether the inserted flush of a clause has halted on an EE. -/
def State.flushHalted (s : State) (j seq k : Nat) : Bool :=
  s.steps.any fun t => t.job == j && t.agreeSeq == some seq && t.flushHalts.any fun h => h.pos == k

/-- Sends what the inserted flush of a clause (the AGREE's) may send now, on every EE where it has not halted. -/
def State.insertedSends (s : State) (j e seq : Nat) : State :=
  (List.range 16).foldl (fun s k =>
    if s.flushHalted j seq k then s else (s.resendPartials k j).flushSome k seq (ofEpoch j e) 4097) s

/-- Whether the inserted flush of an epoch has work left. -/
def State.insertedLeft (s : State) (j e seq : Nat) : Bool :=
  s.ees.any fun x => x.comb.any (ofEpoch j e) || x.partials.any fun p => p.seq == seq

/-- What an EE's flushes and scatters do once sectors have come free (R155). -/
def State.embedGoOn (s : State) (k : Nat) : State :=
  let s := ((s.scatterGoOn k).flushGoOn k).lookupGoOn k
  (s.steps.filter (·.state == .flushing)).foldl (fun s t =>
    match s.clauses.find? fun c => c.job == t.job && some c.seq == t.agreeSeq with
    | some c => s.insertedSends t.job (t.epoch % 2 ^ 32) c.seq
    | none => s) s

/-! ### Acknowledgements (R155) -/

/-- A keyed add acknowledges a flushed partial: its sectors are free. -/
def partialAck (k id : Nat) (s : State) : State :=
  match (s.ee k).partials.find? (·.id == id) with
  | none => s
  | some p =>
    if p.landed = false then s
    else
      let s := s.modEe k fun e => { e with partials := e.partials.filter (·.id != id) }
      let s := s.modQueue ⟨.embed, k⟩ fun Q => { Q with infl := match Q.cmds, Q.infl with
        | c :: _, some f => if c.seq == p.seq && cb c.word 0 1 == 0x52 then some { f with progress := f.progress + 1 } else some f
        | _, f => f }
      s.embedGoOn k

/-- PARTIAL_ACK (R155). -/
def execPartialAck (k id : Nat) (s : State) : Host.Outcome State Fault Refusal := finish s (partialAck k id s)

/-! ### KEYED_ADD (R160 to R162, R164, R167, R171) -/

/-- A keyed add that waits is recorded once, with its count: 0x2521.05 for an earlier epoch, flush_stalls for a full
bucket or its row's page. -/
def State.keyedWait (s : State) (src : KeyedSrc) (j : Nat) (stall : Bool) : State :=
  if s.fab.kaWait.any fun w => w.src == src && w.stall == stall && !w.page then s
  else
    let s := s.modFab fun F => { F with
      kaWait := F.kaWait.filter (fun w => w.src != src) ++ [{ src := src, stall := stall, since := s.tick }] }
    if stall then s.bump (K.flushStalls j) 1 else s.bump K.epochWaits 1

/-- A keyed add that waits for a page it writes is recorded once, and counted where the page is moving (R297, R311). -/
def State.keyedPageWait (s : State) (src : KeyedSrc) (j : Nat) (moving : Bool) : State :=
  if s.fab.kaWait.any fun w => w.src == src then s
  else
    let s := s.modFab fun F => { F with kaWait := F.kaWait ++ [{ src := src, stall := false, since := s.tick, page := true }] }
    if moving then s.bump (K.migrationWriteWaits j) 1 else s

/-- A keyed add that waited proceeds; a stall's time is counted (R171). -/
def State.keyedOver (s : State) (src : KeyedSrc) (j : Nat) : State :=
  match s.fab.kaWait.find? fun w => w.src == src with
  | none => s
  | some w =>
    let s := s.modFab fun F => { F with kaWait := F.kaWait.filter fun w => w.src != src }
    if w.stall then
      let n := s.tick - w.since
      (s.bump (K.stallTicks j) n).setReg (K.longestStall j) (max (s.reg (K.longestStall j)) (min n (2 ^ 32 - 1)))
    else s

/-- The command, or the inserted flush, that sent a partial halts (R162). -/
def State.haltSender (s : State) (k : Nat) (p : Partial) (reason detail : Nat) : State :=
  match s.embedding k with
  | some (c, cl, f) =>
    if c.seq = p.seq then s.haltCmd ⟨.embed, k⟩ c cl reason detail f.progress f.pos true else s
  | none => s

/-- A halt of the inserted flush of the step whose AGREE's clause sent a partial (R154): recorded with the step, once for each EE, with
opcode 0x52 and the EE, and signalled to core 2. -/
def State.haltInserted (s : State) (k : Nat) (p : Partial) (reason detail : Nat) : State :=
  match s.steps.find? fun t => t.job == p.job && t.agreeSeq == some p.seq && t.state == .flushing, s.clause p.seq with
  | some t, some cl =>
    if t.flushHalts.any fun h => h.pos == k then s
    else
      let c : QCmd := match s.queue ⟨.fabric, cl.unit⟩ with
        | some Q => Q.cmds.headD { seq := cl.seq, idx := 0, addr := cl.base, word := 0x52, bad := none, prog := 0, pos := 0, again := false }
        | none => { seq := cl.seq, idx := 0, addr := cl.base, word := 0x52, bad := none, prog := 0, pos := 0, again := false }
      let h : Halt := { cmd := c, job := p.job, reason := reason, resumable := isResumable reason, begun := true
                        detail := detail % 2 ^ 64, progress := 0, pos := k, page := 0, decided := false, need := bits detail 101 16 }
      let s := s.modStep t.job t.number fun t => { t with flushHalts := t.flushHalts ++ [h] }
      let hr := haltRecord c.addr reason (clsCode .embed) h.resumable true k 0xFF p.job 0x52 c.idx h.detail cl.seq 0
      let s := (s.setReg (haltKey ⟨.embed, k⟩) (leNat hr)).bump32 (haltCountKey ⟨.embed, k⟩) 1
      let s := s.count (0x20 + k) 0x08 1 (some p.job)
      let s := if reason = 0x22 then s.postJob p.job 0x20 hr else s
      s.handle (haltKind reason) 2 k (some ⟨.embed, k⟩) p.job reason h.detail
  | _, _ => s

/-- A partial is refused: its sender halts (R162, R325). -/
def State.refusePartial (s : State) (k : Nat) (p : Partial) (reason detail : Nat) : State :=
  (s.haltSender k p reason detail).haltInserted k p reason detail

/-- The partial that a source names: job, table, row, epoch and sums. -/
structure KeyedArg where
  job   : Nat
  table : Nat
  row   : Nat
  epoch : Nat
  sums  : List Byte
  deriving DecidableEq, Repr

/-- The job whose fabric key a frame carries (R325). -/
def State.jobByKey (s : State) (key : Nat) : Option Nat :=
  if key = 0 then none else s.residents.find? fun j => s.keyOf j == key

/-- The arguments of a keyed add. -/
def State.keyedArg (s : State) (src : KeyedSrc) : Option KeyedArg :=
  match src with
  | .ee k id =>
    match (s.ee k).partials.find? (·.id == id) with
    | some p => if p.landed = false ∧ s.isMe p.owner ∧ k < 16 then
        some { job := p.job, table := p.table, row := p.row, epoch := p.epoch, sums := packElems fmF32 p.acc } else none
    | none => none
  | .frame f => (s.jobByKey f.key).map fun j =>
      { job := j, table := f.arg % 256, row := nb f.payload 0 8, epoch := nb f.payload 8 4, sums := f.payload.drop 16 }

/-- The keyed add of a source has been made: the EE's partial is marked, or the frame is answered; bit 0 of the
answer's argument is NONFINITE (R247; log 23). -/
def State.keyedMade (s : State) (src : KeyedSrc) (nf : Bool) : State :=
  match src with
  | .ee k id =>
    let seq := match (s.ee k).partials.find? (·.id == id) with | some p => p.seq | none => noClause
    (s.modEe k fun e => { e with partials := e.partials.map fun p => if p.id == id then { p with landed := true } else p }).raise
      seq false nf
  | .frame f => s.reply f 0x04 (if nf then 1 else 0) 0 []

/-- The keyed add of a source is refused. -/
def State.keyedRefused (s : State) (src : KeyedSrc) (reason detail : Nat) : State :=
  let s := s.toldFailure reason detail
  match src with
  | .ee k id => match (s.ee k).partials.find? (·.id == id) with
    | some p => s.refusePartial k p reason detail
    | none => s
  | .frame f => s.reply f 0x04 0 reason (leBytes 8 (detail % 2 ^ 64))

/-- The runs of memory that a keyed add may write: its bucket, its slots, the overflow log's head, its pending bucket. -/
def State.rowRuns (s : State) (a : KeyedArg) : List (Nat × Nat) :=
  match s.tableOf a.job a.table, s.gradDesc a.job a.table with
  | .ok t, .ok g =>
    let u := bucketOf a.row g.bits'
    let gs := gradStride t.dim
    [(g.dir + 512 * u, 512), (g.data + 32 * u * gs, 32 * gs), (g.ovf + g.head, 64 + gs)] ++
      (if s.reg (K.pendBucketBits a.job) = 0 then []
       else [(s.pendAddr a.job (s.pendBucket a.job a.table a.row) 0, 32 * s.reg (K.pendStride a.job))])
  | _, _ => []

/-- Whether a page that a keyed add may write is moving. -/
def State.rowMoving (s : State) (a : KeyedArg) : Bool :=
  (s.rowRuns a).any fun r => (pagesOf (r.1 % 2 ^ 48) r.2).any fun o => s.movingAt a.job (r.1 / 2 ^ 48 * 2 ^ 48 + o)

/-- The pages of a keyed add that rest elsewhere are asked for (R283), and descriptors of it that rest with a lender or another module
are fetched. -/
def State.askRow (s : State) (a : KeyedArg) : State :=
  let s := match s.tableOf a.job a.table, s.gradDesc a.job a.table with
    | .far n x l, _ => s.fetchFar a.job n x l
    | _, .far n x l => s.fetchFar a.job n x l
    | _, _ => s
  (s.rowRuns a).foldl (fun s r => (pagesOf (r.1 % 2 ^ 48) r.2).foldl (fun s o => s.askPage a.job o) s) s

/-- What the controller meets in a keyed add's access of its row's bucket (R160, R304); an add that waits for an earlier epoch makes
none. -/
def State.keyedMet (s : State) (x : KeyedArg) (m : MemAccess) : Option (Nat × State) :=
  if s.epochHolds x.job x.table x.epoch then none
  else match s.gradDesc x.job x.table with
    | .ok g =>
      let a := g.dir + 512 * bucketOf x.row g.bits'
      some (a, s.met x.job a 512 true m)
    | _ => none

/-- Folds one partial into the owner's gradient region, or parks it (R160, R167). The frames of one partial come one by
one; the last one makes the add. `m` is what the controller meets; a fourth failure refuses the add UNCORRECTABLE (R304). -/
def keyedAdd (src : KeyedSrc) (m : MemAccess) (s : State) : State :=
  let go (src : KeyedSrc) (s : State) : State :=
    match s.keyedArg src with
    | none => match src with
      | .frame f => (s.bump K.fabRefusedInbound 1).reply f 0x04 0 0x21 (leBytes 8 f.addr)
      | .ee _ _ => s
    | some a =>
      let hit := s.keyedMet a m
      let s := match hit with | some x => x.2 | none => s
      if m.retries > 3 ∧ hit.isSome then (s.keyedOver src a.job).keyedRefused src 0x30 ((hit.map (·.1)).getD 0)
      else match s.landKeyed a.job a.table a.row a.epoch a.sums with
      | .done t nf => (t.keyedOver src a.job).keyedMade src nf
      | .quota size => (s.keyedOver src a.job).keyedRefused src 0x22 (256 * size + 2 ^ 101 * (256 + a.table))
      | .fail r d => (s.keyedOver src a.job).keyedRefused src r d
      | .epochWait => s.keyedWait src a.job false
      | .stall t => t.keyedWait src a.job true
      | .wait => (s.keyedPageWait src a.job (s.rowMoving a)).askRow a
  match src with
  | .ee k id => go (.ee k id) s
  | .frame f =>
    if s.fab.kaWait.any fun w => w.src == .frame f then go src s
    else match s.arrive 0x0B f with
      | (none, s) => s
      | (some g, s) => go (.frame g) s

/-- KEYED_ADD (R160). -/
def execKeyedAdd (x : KeyedTry) (s : State) : Host.Outcome State Fault Refusal := finish s (keyedAdd x.src x.access s)

/-! ### Overflow pages (R162) -/

/-- The first held halt of a queue for a job. -/
def State.heldOf (s : State) (q : QueueId) (j : Nat) : Option HeldJob :=
  match s.queue q with
  | some Q => Q.held.find? fun h => h.halt.job == j
  | none => none

/-- Whether every refused partial of an EE whose owner is this module could now be appended (R162). -/
def State.grantFits (s : State) (k j : Nat) : Bool :=
  (s.ee k).partials.all fun p =>
    p.job != j || p.landed || !s.isMe p.owner ||
    match s.gradDesc j p.table with
    | .ok g => (if g.epoch = p.epoch then g.head else 0) + 64 + roundUp (4 * p.acc.length) 64 ≤ g.limit * 65536 ||
        (g.limit < g.cap && s.quotaFits 0 j 65536)
    | _ => true

/-- Whether a halt of an inserted flush is held on EE `k` for a page of an overflow log. -/
def heldFlush (k : Nat) (h : Halt) : Bool := h.decided && h.resumable && h.reason == 0x22 && h.pos == k

/-- The owner reports a grant of an overflow page: core 2 resumes the halted flush (R98, R162). -/
def overflowPageGrant (k j : Nat) (s : State) : State :=
  if s.coreOut 2 ∨ s.grantFits k j = false then s
  else match s.heldOf ⟨.embed, k⟩ j with
    | some h => (s.releaseHold ⟨.embed, k⟩ h).resendPartials k j
    | none =>
      match s.steps.find? fun t => t.job == j && t.flushHalts.any (heldFlush k) with
      | some t => (s.modStep j t.number fun t => { t with flushHalts := t.flushHalts.filter fun h => !heldFlush k h }).resendPartials k j
      | none => s

/-- OVERFLOW_PAGE_GRANT (R162). -/
def execOverflowPageGrant (k j : Nat) (s : State) : Host.Outcome State Fault Refusal :=
  finish s (overflowPageGrant k j s)

end Sys2Proof.Machine
end

