-- ==== Sys2Proof/Machine/Update.lean ====
section
/-! DEFINITION. The conjugator slices: recipes (R257 to R261), COMMIT and the working copies (R262 to R265), the two
versions of a retained shard (R337, R340), EXPORT (R267, R268) and the replay of a COMMIT (R265). -/

namespace Sys2Proof.Machine

/-! ### Slices -/

/-- Slice `sl`. -/
def State.slice (s : State) (sl : Nat) : Slice := (s.slices[sl]?).getD (Slice.reset sl)

/-- The slice that holds the row whose record is at an address: that of its page's stack; none where the page rests on no stack (R20,
R256). -/
def State.rowSlice (s : State) (j addr : Nat) : Option Nat :=
  (s.physOf j addr).bind fun a => if a < t1Base then some (frameStack (a / 65536)) else none

/-- What the controller meets in a slice's access of `n` bytes; a fourth failure ends the command (R304). -/
def sliceAccess (s : State) (j addr n : Nat) (a : MemAccess) (k : State → Run) : Run :=
  let t := s.accessAt j addr n a
  if a.retries > 3 then Run.refuse t 0x30 addr else k t

/-- Whether a queue still holds a command. -/
def Queue.hasCmd (Q : Queue) (seq idx : Nat) : Bool :=
  Q.cmds.any (fun c => c.seq == seq && c.idx == idx) || Q.unread.any fun u => u.1 == seq && u.2 ≤ idx

/-- Whether slice `sl` is the last one to run a command of an UPDATE clause. -/
def State.lastSlice (s : State) (sl : Nat) (c : QCmd) : Bool :=
  (List.range 12).all fun k => k == sl || match s.queue ⟨.update, k⟩ with
    | some Q => !Q.hasCmd c.seq c.idx
    | none => true

/-- Index across the die of a slice's first lane; they follow those of the phrases (log 19). -/
def sliceLane (sl : Nat) : Nat := 4096 + 64 * sl

/-- The LFSRs of a slice for a job, loaded at the job's creation; a slice that has lost them loads them from lane_seed anew (R48;
DESIGN CHOICE, log 19). -/
def State.sliceLanes (s : State) (sl j : Nat) : Lanes :=
  (((s.slice sl).lfsr.find? (·.1 == j)).map (·.2)).getD (Lanes.load (s.reg (K.laneSeed j)) (sliceLane sl))

/-- The conversion unit of a slice for a job: working copies saturate (R264). -/
def State.sliceCv (s : State) (sl j mode : Nat) : Cv where
  mode := mode
  sat := true
  lfsr := s.sliceLanes sl j
  first := 0
  lanes := 64
  free := s.free
  n := 0
  ovf := false
  nf := false

/-- The slice's LFSRs of a job as a conversion unit left them. -/
def State.saveSliceCv (s : State) (sl j : Nat) (c : Cv) : State :=
  s.modSlice sl fun x => { x with lfsr := (j, c.lfsr) :: x.lfsr.filter (·.1 != j) }

/-- At the start of a COMMIT each LFSR of the job is XORed with the set's seed (R48). -/
def Cv.stir (c : Cv) (seed : Nat) : Cv :=
  { c with lfsr := (List.range 64).foldl (fun m i => m.put i (m.get i ^^^ seed)) c.lfsr }

/-! ### Recipes (R257 to R261) -/

/-- The instructions of a job's slot. -/
def Slice.recipe (x : Slice) (j slot : Nat) : Option (List Nat) :=
  (x.recipes.find? fun r => r.1 == j && r.2.1 == slot).map (·.2.2)

/-- The bytes of a slice's recipe store that a job's slot takes (R257, R414; the layout is a DESIGN CHOICE, log 85). -/
def recipeWords (j slot : Nat) : Words := (0x10, 96 * (16 * j + slot), 96)

/-- A slice gets the filled recipe slots of a job that it lacks, from the copies that the firmware keeps (R258). -/
def State.fillRecipes (s : State) (j k : Nat) : State :=
  let lacks (r : Nat × Nat × List Nat) : Bool := !(s.slice k).recipes.any fun y => y.1 == r.1 && y.2.1 == r.2.1
  let new := (s.job j).recipes.filter lacks
  if new = [] then s
  else (s.modSlice k fun x => { x with recipes := x.recipes ++ new }).overwrite ⟨.update, k⟩ 0 (new.map fun r => recipeWords j r.2.1)

/-- A slot whose store reported an uncorrectable error is lost; it is loaded again before the next COMMIT of its job (R258). -/
def State.loseRecipe (s : State) (sl j slot : Nat) : State :=
  s.modSlice sl fun x => { x with recipes := x.recipes.filter fun r => !(r.1 == j && r.2.1 == slot) }

/-- Whether an earlier-admitted UPDATE clause of the job has a command that no slice has run: a slice that has come into service since
waits for it, since it may deliver a recipe (R257, R258; DEDUCED, log 86). -/
def State.recipesDue (s : State) (cl : Clause) : Bool :=
  s.clauses.any fun e => e.cls == .update && e.job == cl.job && e.seq < cl.seq && e.next < e.count

/-- Whether an instruction is defined and its reserved bits are zero (R259, R260). -/
def instrOk (w : Nat) : Bool := bits w 0 6 ≤ 0x0F && bits w 24 8 == 0

/-- fp32 of a value, to nearest, and whether it overflowed. -/
def f32 (x : Num) : Num × Bool :=
  let r := encode fmF32 0 false 0 x
  (decodeNum fmF32 r.code, r.ovf)

/-- Operands that an operation of R260 reads. -/
def recipeArgs (op : Nat) : Nat :=
  match op with
  | 0x06 | 0x07 | 0x0F => 3
  | 0x02 | 0x03 | 0x04 | 0x05 | 0x08 | 0x09 => 2
  | _ => 1

/-- The result of an operation of R260, and whether it overflowed. -/
def recipeOp (op : Nat) (a b c : Num) : Num × Bool :=
  match op with
  | 0x01 => (a, false)
  | 0x02 => f32 (a.add b)
  | 0x03 => f32 (a.sub b)
  | 0x04 => f32 (a.mul b)
  | 0x05 => f32 (a.div b)
  | 0x06 => f32 ((a.mul b).add c)
  | 0x07 => f32 (c.sub (a.mul b))
  | 0x08 => (a.max b, false)
  | 0x09 => (a.min b, false)
  | 0x0A => (a.abs, false)
  | 0x0B => f32 a.sqrt
  | 0x0C => (fnValue 0x07 (near fmF32 a).code, false)
  | 0x0D => f32 (oneNum.div a)
  | 0x0E => (if a.isNan then .nan else if zeroNum.lt a then oneNum else if a.lt zeroNum then oneNum.neg else zeroNum, false)
  | _ => (if zeroNum.lt a then b else c, false)

/-- What a lane holds for its element: the vector registers, and the flags so far (R50, R261). -/
structure VRegs where
  v   : List Num
  ovf : Bool
  nf  : Bool
  deriving DecidableEq

/-- One instruction on a lane, with the scalar registers `k` (R259). -/
def recipeStep (k : List Num) (l : VRegs) (w : Nat) : VRegs :=
  let reg (l : List Num) (i : Nat) : Num := l.getD i zeroNum
  let op := bits w 0 6
  let a := reg l.v (bits w 10 4)
  let b := if bit w 22 then reg k (bits w 14 4) else reg l.v (bits w 14 4)
  let c := if bit w 23 then reg k (bits w 18 4) else reg l.v (bits w 18 4)
  if op = 0 then l
  else
    let r := recipeOp op a b c
    { v := l.v.set (bits w 6 4) r.1, ovf := l.ovf || r.2
      nf := l.nf || ([a, b, c].take (recipeArgs op)).any (fun x => !x.isFin) || !r.1.isFin }

/-- A recipe on one element: gradient, master and states in; masters and states out, in v1 to v3 (R261). -/
def recipeRun (prog : List Nat) (k : List Num) (g m s0 s1 : Num) : VRegs :=
  prog.foldl (recipeStep k) { v := [g, m, s0, s1] ++ List.replicate 12 zeroNum, ovf := false, nf := false }

/-- A recipe image delivered (R257, R258): to this slice, and, by the first slice that runs the command, to the slices in service that
do not have it in their queues, and to the firmware's copy. -/
def State.deliver (s : State) (sl : Nat) (c : QCmd) (cl : Clause) (slot : Nat) (l : List Nat) : State :=
  let e := (cl.job, slot, l)
  let put (r : List (Nat × Nat × List Nat)) : List (Nat × Nat × List Nat) := e :: r.filter fun r => !(r.1 == cl.job && r.2.1 == slot)
  let give (s : State) (k : Nat) : State :=
    (s.modSlice k fun x => { x with recipes := put x.recipes }).overwrite ⟨.update, k⟩ 0 [recipeWords cl.job slot]
  let s := give s sl
  if cl.next > c.idx then s
  else
    let others := (List.range 12).filter fun k => k != sl && s.sliceUp k && match s.queue ⟨.update, k⟩ with
      | some Q => !Q.hasCmd c.seq c.idx
      | none => false
    (others.foldl give s).modJob cl.job fun x => { x with recipes := put x.recipes }

/-- Runs RECIPE_LOAD on one slice (R257); the firmware keeps a copy of the image (R258). -/
def runRecipeLoad (s : State) (c : QCmd) (cl : Clause) (a : MemAccess) : Run :=
  let w := c.word
  let len := cb w 24 4
  decoded s [(reservedSet w [(0, 8), (40, 4), (128, 64), (192, 32)], 0x02, 0),
             (len = 0 || len % 4 != 0 || len > 96, 0x04, len)]
    (sliceAccess s cl.job (cb w 16 8) len a fun s =>
     onAcc s cl.job (s.unitRead cl.job (cb w 16 8) len) fun b =>
      let l := (List.range (len / 4)).map fun i => nb b (4 * i) 4
      if l.all instrOk = false then Run.refuse s 0x02 0
      else .done ((s.didRead cl.job (cb w 16 8) len).deliver cl.unit c cl (bits w 40 4) l))

/-! ### Working copies (R264) -/

/-- The scale of a warm row: m / the format's largest value, rounded toward +∞; 1.0 where m is zero. -/
def warmScale (f : Nat) (m : Num) : Nat :=
  match m with
  | .fin _ 0 _ => 0x3F800000
  | _ =>
    let q := m.div (intNum (if f = fmE4m3 then 448 else 57344))
    let c := (encode fmF32 2 false 0 q).code
    if (decodeNum fmF32 c).lt q then c + 1 else c

/-- Elements rounded one by one. -/
def putAll (f : Nat) : List Num → Cv → List Nat × Cv
  | [], c => ([], c)
  | x :: xs, c =>
    let r := c.put f x
    let t := putAll f xs r.2
    (r.1 :: t.1, t.2)

/-- A row's encoding from its master, padded to its stride (R115, R264). -/
def encodeRow (f : Nat) (xs : List Num) (c : Cv) : List Byte × Cv :=
  let d := xs.length
  let body : List Byte × Cv :=
    if isFp8 f then
      let m := (xs.filter fun x => !x.isNan).foldl (fun a x => a.max x.abs) zeroNum
      let sc := warmScale f m
      let r := putAll f (xs.map fun x => x.div (decodeNum fmF32 sc)) c
      (leBytes 4 sc ++ zeros 4 ++ packElems f r.1, r.2)
    else if isCode f then
      let r := quantRow (fmtBits f) xs c
      (leBytes 4 r.1.scale ++ leBytes 1 r.1.zp ++ zeros 3 ++ packElems f r.1.codes, r.2)
    else
      let r := putAll f xs c
      (packElems f r.1, r.2)
  (padTo (rowStride f d) body.1, body.2)

/-! ### Gradients of a COMMIT (R262, R263) -/

/-- A row-set descriptor. -/
structure RowSet where
  sparse : Bool
  table  : Nat
  mem    : Bool
  first  : Nat
  src    : Nat
  elems  : Nat
  deriving DecidableEq, Repr

/-- The row-set descriptor of a COMMIT of set `p`, whose length field is `len` (R262). -/
def State.rowSetOf (s : State) (j p len addr : Nat) : Acc RowSet :=
  accBind (s.readVa j addr 64) fun b =>
    let r : RowSet := { sparse := nb b 0 1 == 1, table := nb b 1 1, mem := nb b 2 1 == 1, first := nb b 8 8
                        src := nb b 16 8, elems := nb b 24 8 }
    if nb b 0 1 > 1 ∨ nb b 2 1 > 1 ∨ nb b 3 5 ≠ 0 ∨ nb b 32 32 ≠ 0 ∨ (r.sparse ∧ len ≠ 0) ∨
      (!r.sparse ∧ r.elems > 256 * len) then .fail 0x13 (badPset p)
    else .ok r

/-- Rows of a bucket's ways tagged `e`, with their data slots. -/
def bucketRows (g : GradDesc) (gs u e : Nat) (b : List Byte) : List (Nat × Nat) :=
  ((List.range 32).filter fun w => (wayOf b w).2 == e).map fun w => ((wayOf b w).1, g.data + (32 * u + w) * gs)

/-- Rows of the directory, `n` buckets from `u`. -/
def State.dirRows (s : State) (j : Nat) (g : GradDesc) (gs e : Nat) : Nat → Nat → Acc (List (Nat × Nat))
  | 0, _ => .ok []
  | n + 1, u =>
    accBind (s.readVa j (g.dir + 512 * u) 512) fun b =>
    accBind (s.dirRows j g gs e n (u + 1)) fun l => .ok (bucketRows g gs u e b ++ l)

/-- Rows of the overflow log from byte `p`. -/
def State.logRows (s : State) (j : Nat) (g : GradDesc) (gs e : Nat) : Nat → Nat → Acc (List (Nat × Nat))
  | 0, _ => .ok []
  | n + 1, p =>
    if p ≥ g.head then .ok []
    else
      accBind (s.readVa j (g.ovf + p) 64) fun b =>
      accBind (s.logRows j g gs e n (p + 64 + gs)) fun l =>
        .ok (if nb b 8 4 = e then (nb b 0 8, g.ovf + p + 64) :: l else l)

/-- Every row of a table's gradient region with a way or record of epoch `e`, with the addresses of its sums (R161,
R263). -/
def State.gradRows (s : State) (j : Nat) (g : GradDesc) (d e : Nat) : Acc (List (Nat × List Nat)) :=
  let gs := gradStride d
  accBind (s.dirRows j g gs e (2 ^ g.bits') 0) fun a =>
  accBind (if g.epoch = e then s.logRows j g gs e (g.head / 128 + 1) 0 else .ok []) fun b =>
    let l := a ++ b
    .ok ((l.map (·.1)).eraseDups.map fun r => (r, (l.filter fun x => x.1 == r).map (·.2)))

/-- The entries of one pending bucket that hold a gradient of a table and epoch: their rows. -/
def State.bucketPending (s : State) (j table e u : Nat) : Nat → Nat → Acc (List Nat)
  | 0, _ => .ok []
  | n + 1, w =>
    accBind (s.pendHeader j u w) fun h =>
    accBind (s.bucketPending j table e u n (w + 1)) fun l =>
      .ok (if bit (nb h 13 1) 0 && nb h 8 4 == e && nb h 12 1 == table then nb h 0 8 :: l else l)

/-- The rows of `n` pending buckets from `u`. -/
def State.pendingFrom (s : State) (j table e : Nat) : Nat → Nat → Acc (List Nat)
  | 0, _ => .ok []
  | n + 1, u =>
    accBind (s.bucketPending j table e u 32 0) fun a =>
    accBind (s.pendingFrom j table e n (u + 1)) fun b => .ok (a ++ b)

/-- The rows of a table and epoch that pending entries hold, which await their pages (R172). -/
def State.pendingLeft (s : State) (j table e : Nat) : Acc (List Nat) :=
  let n := s.reg (K.pendBucketBits j)
  if n = 0 then .ok [] else s.pendingFrom j table e (2 ^ n) 0

/-- Sums of `n` elements at each address. -/
def State.readSums (s : State) (j n : Nat) : List Nat → Acc (List (List Nat))
  | [] => .ok []
  | a :: as =>
    accBind (s.unitRead j a (4 * n)) fun b =>
    accBind (s.readSums j n as) fun l => .ok (elemsOf fmF32 b n :: l)

/-- The state after reads of `n` bytes at each address. -/
def State.didReads (s : State) (j n : Nat) (l : List Nat) : State := l.foldl (fun s a => s.didRead j a n) s

/-- The gradient of each element, and whether its sum overflowed: its partials summed in fp32 in an order nothing promises (R64, R261). -/
def sumPartials (seed row n : Nat) (l : List (List Nat)) : List (Num × Bool) :=
  (List.range n).map fun i => sumTerms fmF32 false seed (row * 1024 + i) (l.map fun p => decodeNum fmF32 (p.getD i 0))

/-! ### One row (R263) -/

/-- What a COMMIT's rows share; `slot` is the recipe's. -/
structure CommitG where
  j     : Nat
  sl    : Nat
  slot  : Nat
  P     : Pset
  prog  : List Nat
  ks    : List Num
  epoch : Nat
  deriving DecidableEq, Repr

/-- The queue of a COMMIT's slice. -/
def CommitG.q (G : CommitG) : QueueId := ⟨.update, G.sl⟩

/-- A row's record after a COMMIT: its masters, whether it was found at E, the flags, and whether a new master is not finite (R50,
R263, R264). -/
structure RowOut where
  state  : State
  master : List Num
  found  : Bool
  ovf    : Bool
  nf     : Bool
  bad    : Bool

/-- The record write of a row, of which `live` elements are touched: a row at E or later keeps it; another runs the recipe and takes
epoch E, in one write (R182, R263). -/
def State.commitRecord (s : State) (G : CommitG) (row live : Nat) (grads : List (List Nat)) : Acc RowOut :=
  let a := G.P.recAddr row
  let n := G.P.elems
  let z := G.P.ssize
  accBind (s.unitRead G.j a (16 + n * (4 + G.P.count * z))) fun b =>
    let s := s.didRead G.j a (16 + n * (4 + G.P.count * z))
    let master := (elemsOf fmF32 (b.drop 16) n).map (decodeNum fmF32)
    if nb b 0 8 ≥ G.epoch then .ok { state := s, master := master, found := true, ovf := false, nf := false, bad := false }
    else
      let sf := if G.P.sfmt = 0 then fmF32 else fmBf16
      let st (i : Nat) : List Num := if i < G.P.count then (elemsOf sf (b.drop (16 + 4 * n + i * n * z)) n).map (decodeNum sf) else []
      let g := sumPartials s.free row n grads
      let out := (List.range live).map fun e =>
        recipeRun G.prog G.ks (g.getD e (zeroNum, false)).1 (master.getD e zeroNum) ((st 0).getD e zeroNum) ((st 1).getD e zeroNum)
      let reg (i : Nat) (old : List Num) : List Num := out.map (fun l => l.v.getD i zeroNum) ++ old.drop live
      let ms := (reg 1 master).map (near fmF32)
      let s0 := if G.P.count ≥ 1 then (reg 2 (st 0)).map (near sf) else []
      let s1 := if G.P.count ≥ 2 then (reg 3 (st 1)).map (near sf) else []
      let body := leBytes 8 G.epoch ++ ((b.drop 8).take 8) ++ packElems fmF32 (ms.map (·.code)) ++ packElems sf (s0.map (·.code)) ++
        packElems sf (s1.map (·.code))
      accBind (s.queueWrite G.q G.j a body) fun t =>
        let bad := (ms.take live).any fun c => nonfinite fmF32 c.code
        .ok { state := t.count (0x30 + G.sl) 0x12 live (some G.j), master := ms.map fun c => decodeNum fmF32 c.code, found := false
              ovf := g.any (·.2) || out.any (·.ovf) || (s0 ++ s1).any (·.ovf)
              nf := grads.any (fun l => (l.take live).any (nonfinite fmF32)) || out.any (·.nf) || bad ||
                ((s0 ++ s1).take live).any (fun c => nonfinite sf c.code)
              bad := bad }

/-- A row counted at its slice. -/
def State.rowCounted (s : State) (G : CommitG) (found : Bool) : State :=
  s.count (0x30 + G.sl) (if found then 0x11 else 0x10) 1 (some G.j)

/-- A conversion unit with the flags of a row's record. -/
def Cv.flags (c : Cv) (r : RowOut) : Cv := { c with ovf := c.ovf || r.ovf, nf := c.nf || r.nf }

/-- Whether a row is between steps 1 and 7 of a move (R177, R180). -/
def State.midMove (s : State) (j table row : Nat) : Bool :=
  s.mem.rowMoves.any fun m => !m.done && m.job == j && m.table == table && m.row == row

/-- A sparse row, once no move of it is under way (R180): the record, the working copy at the level its map entry gives, and the caches
(R128, R263); the flag tells that a new
master is not finite. -/
def State.commitSparse (s : State) (G : CommitG) (t : Table) (cv : Cv) (row : Nat) (srcs : List Nat) : Acc (State × Cv × Bool) :=
  if s.midMove G.j t.num row then .wait
  else
  accBind (s.readSums G.j t.dim srcs) fun grads =>
  accBind (s.commitRecord G row t.dim grads) fun r =>
  accBind (r.state.shardOf G.j t row) fun e? =>
    match e? with
    | none => .fail 0x20 (G.P.recAddr row)
    | some e =>
      accBind (r.state.unitRead G.j (mapAddr e row) 8) fun m =>
        let v := leNat m
        if mapOk t e v = false then .fail 0x20 (mapAddr e row)
        else
          let lv := mapLevel v
          let w := encodeRow (t.fmt lv) r.master (cv.flags r)
          accBind (r.state.queueWrite G.q G.j (slotAddr t e lv (mapSlot v)) w.1) fun u =>
            let u := (u.didReads G.j (4 * t.dim) srcs).didRead G.j (mapAddr e row) 8
            .ok ((u.evictRow t.key row).rowCounted G r.found, w.2, r.bad)

/-- Bytes of the reduction window zeroed (R244, R263). -/
def State.zeroWindow (s : State) (q : QueueId) (j o n : Nat) : Acc State :=
  let len := s.reg (K.rbLen j)
  let on := if o < len then min n (len - o) else 0
  let s := s.modMem fun m => { m with rb := clearRun m.rb (s.reg (K.rbBase j) + o) on }
  if on = n then .ok s else s.queueWrite q j (s.reg (K.extBase j) + (o + on - len)) (zeros (n - on))

/-- A run of the window that may cross rb_len. -/
def State.windowBytes (s : State) (j o n : Nat) : Acc (List Byte) :=
  let len := s.reg (K.rbLen j)
  if o < len ∧ len < o + n then
    accBind (s.windowRead j o (len - o)) fun a => accBind (s.windowRead j len (o + n - len)) fun b => .ok (a ++ b)
  else s.windowRead j o n

/-- A dense row: its gradient from the window, which is zeroed, or from memory; the record; the working copy (R262 to
R264). Elements from `elems` on are not touched. -/
def State.commitDense (s : State) (G : CommitG) (r : RowSet) (cv : Cv) (row : Nat) : Acc (State × Cv × Bool) :=
  let i := row - r.first
  let live := min 256 (r.elems - 256 * i)
  let src := r.src + 1024 * i
  accBind (if live = 0 then .ok [] else if r.mem then s.unitRead G.j src (4 * live) else s.windowBytes G.j src (4 * live)) fun b =>
  accBind (s.commitRecord G row live [elemsOf fmF32 b live]) fun x =>
    let sz := fmtBits G.P.wfmt / 8
    let w := putAll G.P.wfmt (x.master.take live) (cv.flags x)
    accBind (x.state.queueWrite G.q G.j (G.P.work + 256 * row * sz) (packElems G.P.wfmt w.1)) fun u =>
    accBind (if r.mem then .ok (u.didRead G.j src (4 * live)) else u.zeroWindow G.q G.j src (4 * live)) fun u =>
      .ok (u.rowCounted G x.found, w.2, x.bad)

/-- What a run over rows must wait for: bytes of a lender or another module, or a page that moves or a stack that takes no access. -/
inductive Need
  | far (node addr len : Nat)
  | held
  deriving DecidableEq, Repr

/-- How a run over rows ends: rows done, conversion unit, whether a new master is not finite; the reason and detail of a halt; and what
it must wait for. -/
structure CommitOut where
  state : State
  cv    : Cv
  rows  : Nat
  nf    : Bool
  stop  : Option (Nat × Nat)
  need  : Option Need

/-- Rows in turn, `lim` at most. -/
def commitRows (f : State → Cv → Nat × List Nat → Acc (State × Cv × Bool)) : List (Nat × List Nat) → Nat → CommitOut → CommitOut
  | [], _, o => o
  | _, 0, o => o
  | x :: xs, lim + 1, o =>
    match f o.state o.cv x with
    | .ok r => commitRows f xs lim { o with state := r.1, cv := r.2.1, rows := o.rows + 1, nf := o.nf || r.2.2 }
    | .fail a d => { o with stop := some (a, d) }
    | .far n a l => { o with need := some (.far n a l) }
    | .wait => { o with need := some .held }

/-! ### Retained shards (R337, R340) -/

/-- The release floor of a job's group. -/
def State.floorOf (s : State) (j g : Nat) : Option Nat :=
  (s.fab.floors.find? fun f => f.1 == j && f.2.1 == g).map (·.2.2)

/-- Whether a step number has been reached by a floor. -/
def reached (floor : Option Nat) (n : Nat) : Bool := match floor with | some f => n ≤ f | none => false

/-- Whether a shard's previous version was served to a step that its release floor has not reached (R340). -/
def State.shardHeld (s : State) (x : Shard) : Bool :=
  match x.prev with
  | none => false
  | some v => v != x.current && s.fab.served.any fun r =>
      r.job == x.job && r.pset == x.pset && r.shard == x.shard && r.version == v && !reached (s.floorOf x.job x.group) r.highest

/-- The shards of a set, owned here, that rows `first` to `first + n − 1` of 256 elements touch. -/
def State.shardsIn (s : State) (j p first n : Nat) : List Shard :=
  s.fab.shards.filter fun x => x.job == j && x.pset == p && overlap x.first x.elems (256 * first) (256 * n)

/-- The state with one shard changed. -/
def State.modShard (s : State) (x : Shard) (f : Shard → Shard) : State :=
  s.modFab fun F => { F with shards := F.shards.map fun y =>
    if y.job == x.job && y.pset == x.pset && y.shard == x.shard then f y else y }

/-- Copies a retained shard's working copy into its retain area before its first row changes; a replay finds it done (R337). A copy
that cannot be made leaves no previous version (R341). -/
def State.retainShard (s : State) (q : QueueId) (P : Pset) (x : Shard) : Acc State :=
  if x.retain = 0 ∨ x.prev = some x.current then .ok s
  else
    let sz := fmtBits x.fmt / 8
    match accBind (s.unitRead x.job (P.work + x.first * sz) (x.elems * sz)) fun b =>
        (s.didRead x.job (P.work + x.first * sz) (x.elems * sz)).queueWrite q x.job x.retain b with
    | .ok t => .ok (t.modShard x fun y => { y with prev := some y.current, waiting := false })
    | .fail _ _ => .ok (s.modShard x fun y => { y with prev := none, waiting := false })
    | .far n a l => .far n a l
    | .wait => .wait

/-- Copies every retained shard of a list. -/
def State.retainAll (q : QueueId) (P : Pset) : List Shard → State → Acc State
  | [], s => .ok s
  | x :: xs, s => accBind (s.retainShard q P x) fun s => State.retainAll q P xs s

/-! ### COMMIT (R262, R263) -/

/-- Fields of COMMIT (R84). -/
def commitFields : List (Nat × Nat) := [(0, 8), (32, 8), (40, 4), (64, 64), (128, 64), (192, 32)]

/-- A COMMIT may not begin before its step's result (R26). -/
def beforeResult (t : Step) : Bool :=
  match t.state with
  | .opened | .flushing | .abandoned | .agreeing => true
  | _ => false

/-- The blocks of the window that a dense COMMIT reads: those of the bytes of its elements. One read in part is CLEAN as well, its other
bytes as they were (R244, R263; DEDUCED, log 86). -/
def RowSet.blocks (r : RowSet) : List Nat :=
  if r.elems = 0 then [] else (List.range ((r.src + 4 * r.elems - 1) / 4096 - r.src / 4096 + 1)).map (r.src / 4096 + ·)

/-- The end of a COMMIT on its last slice: the set's count, the step's committed table, pins, blocks CLEAN, versions
(R167, R172, R244, R255, R337). -/
def State.commitEnd (s : State) (G : CommitG) (r : RowSet) (len : Nat) (step : Nat) : State :=
  let s := (s.ownWrite G.j (G.P.addr + 40) (leBytes 8 (G.P.commits + 1))).getD s
  if r.sparse then
    let s := s.modStep G.j step fun t => { t with committed := r.table :: t.committed }
    s.modMem fun m => { m with pins := m.pins.filter fun p =>
      !(p.job == G.j && p.table == r.table && p.epoch == G.epoch % 2 ^ 32) }
  else
    let s := if r.mem then s else
      s.modMem fun m => { m with rbDirty := m.rbDirty.filter fun d =>
        !(d.1 == G.j && r.blocks.contains d.2.1 && d.2.2 ≤ G.epoch) }
    (s.shardsIn G.j G.P.num r.first len).foldl (fun s x => s.modShard x fun y => { y with current := G.epoch }) s

/-- The state that a COMMIT's run over a slice's rows leaves: the LFSRs, the clause's flags, and COMMIT_NONFINITE, which each slice
posts for its rows (R48, R50, R264; DESIGN CHOICE, log 25). -/
def commitLeft (sl : Nat) (c : QCmd) (cl : Clause) (G : CommitG) (o : CommitOut) : State :=
  let s := o.state.saveSliceCv sl G.j o.cv
  let s := s.raise c.seq o.cv.ovf o.cv.nf
  let s := s.modClause c.seq fun y => { y with wrote := y.wrote || o.rows != 0 }
  if o.nf then s.postJob cl.job 0x02 (leBytes 8 G.epoch ++ leBytes 1 G.P.num) else s

/-- A slice's command that has done its work: it completes once nothing it sent elsewhere is outstanding. -/
def sliceDone (q : QueueId) (s : State) (rows : Nat) : Run :=
  if s.asks q then .busy s { progress := rows, pos := 0, waits := [] } else .done s

/-- How a COMMIT's run on one slice ends; the clause counts its rows (R263). `moving` tells that a page it writes is in a move, which is
counted once (R297). -/
def commitDone (sl : Nat) (c : QCmd) (cl : Clause) (G : CommitG) (r : RowSet) (len step : Nat) (moving : Bool) (flt : Option HwFault)
    (o : CommitOut) : Run :=
  match o.need with
  | some (.far n a l) => .stay fun s => s.fetchFar G.j n a l
  | some .held =>
    if moving && c.pos == 0 then .stay fun s => (s.bump (K.migrationWriteWaits G.j) 1).modQueue ⟨.update, sl⟩ fun Q => { Q with
      cmds := match Q.cmds with | c :: r => { c with pos := 1 } :: r | [] => [] }
    else .wait
  | none =>
  let s := commitLeft sl c cl G o
  match o.stop, flt with
  | some (a, d), _ => .halt s a d o.rows 0 (o.rows != 0)
  | none, some h => .halt (if h.reason = 0x30 ∧ h.detail % 256 = 0x10 then s.loseRecipe sl G.j G.slot else s)
      h.reason h.detail o.rows 0 (o.rows != 0)
  | none, none =>
    let s := s.modClause c.seq fun y => { y with rows := y.rows + o.rows }
    sliceDone ⟨.update, sl⟩ (if s.lastSlice sl c then s.commitEnd G r len step else s) o.rows

/-- The scalar registers of a COMMIT (R254, R261): k8 is the inverse of the loss scale adopted at the preceding result. -/
def commitKs (P : Pset) (t : Step) : List Num :=
  (P.ks.map (decodeNum fmF32)) ++ [(f32 (oneNum.div (decodeNum fmF32 t.scale))).1] ++ List.replicate 3 zeroNum ++
    t.scalars.map (decodeNum fmF32)

/-- The leaf that holds a row's record on this module, and its place. -/
def State.recLeaf (s : State) (j : Nat) (P : Pset) (row : Nat) : Option Leaf :=
  let a := P.recAddr row
  if s.isMe (a / 2 ^ 48) then (s.leafOf j (a % 2 ^ 48)).bind fun l => (s.home l (a % 2 ^ 48)).map (·.1) else none

/-- Pages of records that nothing has written are placed before the rows go to the slices of their stacks (R20, R301). -/
def State.placeRecords (j : Nat) (P : Pset) : List (Nat × List Nat) → State → Acc State
  | [], s => .ok s
  | x :: xs, s =>
    accBind (match s.recLeaf j P x.1 with
      | some h => if h.allocated || !h.write then .ok s else s.allocate h
      | none => .ok s) fun s => State.placeRecords j P xs s

/-- Rows of a COMMIT whose state page must first come into tier 0 (R20, R172). -/
def State.awayPages (s : State) (j : Nat) (P : Pset) (rows : List (Nat × List Nat)) : List Leaf :=
  rows.filterMap fun r => (s.recLeaf j P r.1).filter fun h => h.allocated && h.tier != 0

/-- The run of a COMMIT over the rows of slice `sl`, `lim` at most (R48, R263). -/
def commitRun (s : State) (sl : Nat) (G : CommitG) (mine : List (Nat × List Nat)) (lim : Nat)
    (f : State → Cv → Nat × List Nat → Acc (State × Cv × Bool)) : CommitOut :=
  commitRows (fun s cv x => f (s.translate (.slice sl) G.j (G.P.recAddr x.1) G.P.stride) cv x) mine lim
    { state := s, cv := (s.sliceCv sl G.j G.P.rnd).stir G.P.seed, rows := 0, nf := false, stop := none, need := none }

/-- Of a COMMIT's rows, those of slice `sl` (R256). -/
def State.sliceRows (s : State) (sl : Nat) (G : CommitG) (rows : List (Nat × List Nat)) : List (Nat × List Nat) :=
  rows.filter fun x => s.rowSlice G.j (G.P.recAddr x.1) == some sl

/-- Whether no slice in service holds a row (R20). -/
def State.stranded (s : State) (G : CommitG) (row : Nat) : Bool :=
  match s.rowSlice G.j (G.P.recAddr row) with
  | some st => !s.sliceRuns st
  | none => true

/-- The rows of a slice, or the wait for pages that rest in tier 1 or 2. A row whose stack has no slice in service stops the COMMIT
where its record cannot be read, and is waited for otherwise (R20, R432, R433; DEDUCED, log 25). -/
def commitOver (s : State) (sl : Nat) (c : QCmd) (cl : Clause) (G : CommitG) (r : RowSet) (len step : Nat) (a : MemAccess)
    (flt : Option HwFault) (rows : List (Nat × List Nat)) (f : State → Cv → Nat × List Nat → Acc (State × Cv × Bool)) : Run :=
  onAcc s G.j (State.placeRecords G.j G.P rows s) fun s =>
  match s.awayPages G.j G.P rows with
  | h :: hs =>
    match (h :: hs).findSome? fun h => s.fetchFailed h.job h.va with
    | some x => Run.refuse s x.1 x.2
    | none => .stay fun t => match State.placeRecords G.j G.P rows t with
      | .ok t => (h :: hs).foldl (fun s h => s.requestPage G.j h r.table (G.epoch % 2 ^ 32)) t
      | _ => t
  | [] =>
    match rows.find? fun x => s.stranded G x.1 with
    | some x =>
      let b := G.P.recAddr x.1
      (match (if s.isMe (b / 2 ^ 48) then s.readVa G.j b 16 else .fail 0x20 b) with
       | .fail r d => Run.refuse s r d
       | _ => .wait)
    | none =>
      let mine := s.sliceRows sl G rows
      let lim := match flt with | some h => min h.progress mine.length | none => mine.length
      let go (s : State) : Run :=
        commitDone sl c cl G r len step (mine.any fun x => s.movingAt G.j (G.P.recAddr x.1)) flt (commitRun s sl G mine lim f)
      match mine with
      | [] => go s
      | x :: _ => sliceAccess s G.j (G.P.recAddr x.1) (16 + G.P.elems * (4 + G.P.count * G.P.ssize)) a go

/-- Bytes of the reduction buffers that a dense COMMIT reads (R414). -/
def State.setWords (s : State) (j : Nat) (r : RowSet) : List Words :=
  if r.sparse || r.mem || r.src ≥ s.reg (K.rbLen j) then []
  else [(0x11, s.reg (K.rbBase j) + r.src, min (4 * r.elems) (s.reg (K.rbLen j) - r.src))]

/-- A mismatch of the slice's residue check (R412). -/
def updateCheck (h : HwFault) : Option HwFault := if h.reason = 0x33 then some h else none

/-- Runs COMMIT on one slice. What the memory controller meets strikes the record of the slice's first row. -/
def runCommit (s : State) (c : QCmd) (cl : Clause) (a : MemAccess) (flt : Option HwFault) : Run :=
  let w := c.word
  let j := cl.job
  let E := cb w 8 8
  let len := cb w 24 4
  let p := cb w 4 1
  let sl := cl.unit
  let slot := bits w 40 4
  Run.resumed c <| decoded s [(reservedSet w commitFields, 0x02, 0)]
    (match s.steps.find? fun t => t.job == j && t.epoch == E with
     | none => Run.refuse s 0x04 E
     | some t =>
       onAcc s j (s.rowSetOf j p len (cb w 16 8)) fun r =>
       onAcc s j (if r.sparse then accBind (s.tableOf j r.table) fun T => .ok (some T) else .ok none) fun T? =>
       onAcc s j (s.psetOf j p (match T? with | some T => T.dim | none => 256) !r.sparse) fun P =>
       if s.recipesDue cl then .wait
       else
       let s := s.fillRecipes j sl
       match (s.slice sl).recipe j slot with
       | none => Run.refuse s 0x13 (4 + 256 * slot)
       | some prog =>
         if (T?.any fun T => T.pset != p) then Run.refuse s 0x13 (badPset p)
         else if (T?.any fun T => T.readOnly) then Run.refuse s 0x21 ((T?.map (·.addr)).getD 0)
         else if beforeResult t then .wait
         else if t.state = .ellipsis then .done s
         else
           let G : CommitG := { j := j, sl := sl, slot := slot, P := P, prog := prog, ks := commitKs P t, epoch := E }
           let flt := s.unitFault ⟨.update, sl⟩ 0 (recipeWords j slot :: s.setWords j r) updateCheck flt
           match T? with
           | some T =>
             onAcc s j (s.pendingLeft j T.num (E % 2 ^ 32)) fun parked =>
             match parked.findSome? fun row => (s.statePage j T row).bind fun h => s.fetchFailed h.job h.va with
             | some x => Run.refuse s x.1 x.2
             | none =>
               if parked ≠ [] then .wait
               else onAcc s j (accBind (s.gradDesc j T.num) fun g => s.gradRows j g T.dim (E % 2 ^ 32)) fun rows =>
                 commitOver s sl c cl G r len t.number a flt rows fun s cv x => s.commitSparse G T cv x.1 x.2
           | none =>
             let xs := s.shardsIn j p r.first len
             match xs.find? fun x => x.retain != 0 && !(256 * r.first ≤ x.first && x.first + x.elems ≤ 256 * r.first + r.elems) with
             | some x => Run.refuse s 0x04 x.first
             | none =>
               let held := xs.filter fun x => s.shardHeld x
               if held ≠ [] then
                 .stay fun s => held.foldl (fun s x =>
                   if x.waiting then s else (s.bump (K.retainWaits j) 1).modShard x fun y => { y with waiting := true }) s
               else
                 onAcc s j (State.retainAll ⟨.update, sl⟩ P xs s) fun s =>
                 commitOver s sl c cl G r len t.number a flt ((List.range len).map fun i => (r.first + i, []))
                   fun s cv x => s.commitDense G r cv x.1)

/-- RECIPE_LOAD (R257). -/
def execRecipeLoad (sl : Nat) (a : MemAccess) (s : State) : Host.Outcome State Fault Refusal :=
  finish s (s.issue ⟨.update, sl⟩ (isOp 0x61) none fun s c cl _ => runRecipeLoad s c { cl with unit := sl } a)

/-! ### EXPORT (R267, R268) -/

/-- An export descriptor. -/
structure ExportD where
  sparse : Bool
  kind   : Nat
  table  : Nat
  only   : Bool
  epoch  : Nat
  dest   : Nat
  cap    : Nat
  first  : Nat
  rows   : Nat
  deriving DecidableEq, Repr

/-- The export descriptor at an address. -/
def State.exportOf (s : State) (j p addr : Nat) : Acc ExportD :=
  accBind (s.readVa j addr 64) fun b =>
    let d : ExportD := { sparse := nb b 0 1 == 1, kind := nb b 0 1, table := nb b 1 1, only := nb b 2 1 == 1, epoch := nb b 8 8
                         dest := nb b 16 8, cap := nb b 24 8, first := nb b 32 8, rows := nb b 40 8 }
    if d.kind > 1 ∨ nb b 2 1 > 1 ∨ nb b 3 5 ≠ 0 ∨ nb b 48 16 ≠ 0 then .fail 0x13 (badPset p)
    else if d.dest % 64 ≠ 0 then .fail 0x09 d.dest
    else .ok d

/-- A 16-byte record header and a row's bytes (R268). -/
def exportRecord (row lv f : Nat) (b : List Byte) : List Byte :=
  leBytes 8 row ++ leBytes 1 lv ++ leBytes 1 f ++ leBytes 2 b.length ++ zeros 4 ++ b

/-- Whether a row is selected (R267): of the rows whose records this module maps, select 0x01 takes those at the descriptor's epoch
(DESIGN CHOICE, log 26). -/
def State.exported (s : State) (j : Nat) (d : ExportD) (P : Pset) (row : Nat) : Acc Bool :=
  if d.only = false then .ok true
  else if (s.recLeaf j P row).isNone then .ok false
  else accBind (s.unitRead j (P.recAddr row) 8) fun b => .ok (leNat b == d.epoch)

/-- The place and length of a row's working copy, and its record; none where the row is not selected; a row of a pool table rests in the
slot of its number (R113, R268). -/
def State.exportRow (s : State) (j : Nat) (d : ExportD) (P : Pset) (T? : Option Table) (row : Nat) : Acc (Option (Nat × Nat × List Byte)) :=
  accBind (s.exported j d P row) fun sel =>
    if sel = false then .ok none
    else match T? with
      | none =>
        let sz := fmtBits P.wfmt / 8
        accBind (s.unitRead j (P.work + 256 * row * sz) (256 * sz)) fun b =>
          .ok (some (P.work + 256 * row * sz, 256 * sz, exportRecord row 0 P.wfmt b))
      | some T =>
        accBind (s.shardOf j T row) fun e? => match e? with
          | none => .ok none
          | some e =>
            accBind (if T.placement = 2 then .ok (mapEntry T.firstLevel false 0 0 (row - e.first))
                     else accBind (s.unitRead j (mapAddr e row) 8) fun m => .ok (leNat m)) fun v =>
              if mapOk T e v = false then .fail 0x20 (mapAddr e row)
              else
                let lv := mapLevel v
                let m := rowStride (T.fmt lv) T.dim
                accBind (s.unitRead j (slotAddr T e lv (mapSlot v)) m) fun b =>
                  .ok (some (slotAddr T e lv (mapSlot v), m, exportRecord row lv (T.fmt lv) b))

/-- How a run over an EXPORT's rows ends: bytes and records written; full, halted, or what it must wait for. -/
structure ExportOut where
  state : State
  bytes : Nat
  rows  : Nat
  full  : Bool
  stop  : Option (Nat × Nat)
  need  : Option Need

/-- Exports rows in order. -/
def State.exportRows (q : QueueId) (j : Nat) (d : ExportD) (P : Pset) (T? : Option Table) : List Nat → ExportOut → ExportOut
  | [], o => o
  | row :: rows, o =>
    match o.state.exportRow j d P T? row with
    | .ok none => State.exportRows q j d P T? rows o
    | .ok (some (a, m, b)) =>
      if 64 + o.bytes + b.length > d.cap then { o with full := true }
      else match (o.state.didRead j a m).queueWrite q j (d.dest + 64 + o.bytes) b with
        | .ok s => State.exportRows q j d P T? rows { o with state := s, bytes := o.bytes + b.length, rows := o.rows + 1 }
        | .fail r x => { o with stop := some (r, x) }
        | .far n a l => { o with need := some (.far n a l) }
        | .wait => { o with need := some .held }
    | .fail r x => { o with stop := some (r, x) }
    | .far n a l => { o with need := some (.far n a l) }
    | .wait => { o with need := some .held }

/-- The 64-byte stream header (R268). -/
def exportHeader (d : ExportD) (P : Pset) (T? : Option Table) (epoch rows : Nat) (complete : Bool) : List Byte :=
  leBytes 4 0x58455855 ++ leBytes 2 1 ++ leBytes 1 d.kind ++ leBytes 1 d.table ++ leBytes 8 epoch ++ leBytes 8 rows ++
    leBytes 2 P.elems ++
    (match T? with
     | some T => leBytes 1 (T.fmt 0) ++ leBytes 1 (T.fmt 1) ++ leBytes 1 (T.fmt 2)
     | none => leBytes 1 P.wfmt ++ zeros 2) ++
    leBytes 1 (if complete then 1 else 0) ++ zeros 34

/-- The number of rows from `row` on whose record pages are mapped: the end of a dense set (log 26). -/
def State.mappedRows (s : State) (j : Nat) (P : Pset) : Nat → Nat → Nat
  | 0, _ => 0
  | fuel + 1, row =>
    let a := P.recAddr row
    if s.isMe (a / 2 ^ 48) ∧ (s.leafOf j (a % 2 ^ 48)).isSome then 1 + s.mappedRows j P fuel (row + 1) else 0

/-- The rows that an EXPORT's range names (R267): to the end of the table or set where rows is 0. -/
def State.exportRange (s : State) (j : Nat) (d : ExportD) (P : Pset) : Option Table → List Nat
  | none => (List.range (if d.rows = 0 then s.mappedRows j P (2 ^ 32) d.first else d.rows)).map (d.first + ·)
  | some T => (List.range ((if d.rows = 0 then T.rows else min T.rows (d.first + d.rows)) - d.first)).map (d.first + ·)

/-- Whether every other slice that has yet to run the command has it at the head of its queue (log 27). -/
def State.exportReady (s : State) (sl : Nat) (c : QCmd) : Bool :=
  (List.range 12).all fun k => k == sl || match s.queue ⟨.update, k⟩ with
    | some Q => !Q.hasCmd c.seq c.idx || (Q.cmds.head?.any fun x => x.seq == c.seq && x.idx == c.idx)
    | none => true

/-- The end of an EXPORT's run: its header, written last, and the halt of a full destination. The other slices pass the command once it
has done its work. -/
def exportDone (q : QueueId) (c : QCmd) (cl : Clause) (d : ExportD) (P : Pset) (T? : Option Table) (epoch : Nat) (o : ExportOut) : Run :=
  let wrote (s : State) : State := s.modClause c.seq fun y => { y with wrote := y.wrote || o.rows != 0 }
  match o.need, o.stop with
  | some (.far n a l), _ => .stay fun s => s.fetchFar cl.job n a l
  | some .held, _ => .wait
  | none, some (r, x) => .halt (wrote o.state) r x o.rows 0 (o.rows != 0)
  | none, none =>
    match o.state.queueWrite q cl.job d.dest (exportHeader d P T? epoch o.rows (!o.full)) with
    | .ok t =>
      if o.full then .halt (wrote t) 0x04 (64 + o.bytes) o.rows 0 true
      else sliceDone q ((wrote t).modClause c.seq fun y => { y with next := max y.next (c.idx + 1) }) o.rows
    | .fail r x => .halt (wrote o.state) r x o.rows 0 (o.rows != 0)
    | .far n a l => .stay fun s => s.fetchFar cl.job n a l
    | .wait => .wait

/-- Runs EXPORT: the stream is written once, when every slice has reached the command; the other slices then pass it. A resumed EXPORT
writes its stream from the start, as the working copies have not changed. What the memory controller meets strikes the stream's
header. -/
def runExport (s : State) (c : QCmd) (cl : Clause) (a : MemAccess) : Run :=
  let w := c.word
  let j := cl.job
  let p := cb w 4 1
  let q : QueueId := ⟨.update, cl.unit⟩
  Run.resumed c <| decoded s [(reservedSet w [(0, 8), (32, 8), (128, 64), (192, 32)], 0x02, 0)]
    (if cl.next > c.idx then .done s
     else
     onAcc s j (s.exportOf j p (cb w 16 8)) fun d =>
     onAcc s j (if d.sparse then accBind (s.tableOf j d.table) fun T => .ok (some T) else .ok none) fun T? =>
     onAcc s j (s.psetOf j p (match T? with | some T => T.dim | none => 256) !d.sparse) fun P =>
     if (T?.any fun T => T.pset != p) then Run.refuse s 0x13 (badPset p)
     else
     let t? := cl.step.bind fun n => s.stepOf j n
     if t?.any beforeResult then .wait
     else if t?.any (fun t => t.state == .ellipsis) then .done s
     else if s.exportReady cl.unit c = false then .wait
     else if d.cap < 64 then Run.refuse s 0x04 d.cap
     else
       sliceAccess s j d.dest 64 a fun s =>
         exportDone q c cl d P T? (s.reg (K.agreedEpoch j))
           (State.exportRows q j d P T? (s.exportRange j d P T?)
             { state := s, bytes := 0, rows := 0, full := false, stop := none, need := none }))

/-- EXPORT (R267). -/
def execExportRows (sl : Nat) (a : MemAccess) (s : State) : Host.Outcome State Fault Refusal :=
  finish s (s.issue ⟨.update, sl⟩ (isOp 0x62) none fun s c cl _ => runExport s c { cl with unit := sl } a)

/-- What a slice's command sent elsewhere has all been acknowledged: it completes. -/
def State.sliceGoOn (s : State) (sl : Nat) : State :=
  let q : QueueId := ⟨.update, sl⟩
  match s.queue q with
  | some Q => match Q.infl with
    | some _ => if s.asks q then s else s.completeCmd q none
    | none => s
  | none => s

end Sys2Proof.Machine
end

