-- ==== Sys2Proof/Machine/Remote.lean ====
section
/-! DEFINITION. Fabric commands: participant groups and the relay tree (R329, R330), atomics (R326), the transfers of
REMOTE and the SIGNALs that follow them (R326 to R328). -/

namespace Sys2Proof.Machine

/-! ### Groups (R329, R330) -/

/-- The halt of R329 for group `g`. -/
def badGroup (g : Nat) : Nat := 5 + 256 * (g % 256)

/-- The member array of a group, checked. -/
def State.groupOf (s : State) (j g : Nat) : Acc (List Nat) :=
  if g ≥ s.reg (K.groupCount j) then .fail 0x13 (badGroup g)
  else
    accBind (s.readVa j (s.reg (K.groupList j) + 16 * g) 16) fun e =>
      let m := nb e 8 2
      if nb e 10 6 ≠ 0 ∨ m = 0 ∨ m > 16384 then .fail 0x13 (badGroup g)
      else
        accBind (s.readVa j (nb e 0 8) (2 * m)) fun b =>
          let l := (List.range m).map fun i => nb b (2 * i) 2
          if (l.zip (l.drop 1)).all (fun p => p.1 < p.2) && l.contains s.actingNode then .ok l
          else .fail 0x13 (badGroup g)

/-- The position of a node in a group. -/
def rankOf (l : List Nat) (n : Nat) : Nat := l.idxOf n

/-- The ranks to which rank `k` of a group of `m` relays (R330). -/
def treeChildren (m k : Nat) : List Nat :=
  (if k ≤ 128 then (List.range 128).map fun i => 128 * k + 1 + i else []).filter (· < m)

/-- The root of a group: rank 0. -/
def rootOf (l : List Nat) : Nat := l.headD 0

/-- Sends a frame down the relay tree from this module (R330). -/
def State.relay (s : State) (j op g : Nat) (l : List Nat) (payload : List Byte) : State :=
  (treeChildren l.length (rankOf l s.actingNode)).foldl (fun s k =>
    let n := l.getD k 0
    s.sendFrame op n (s.keyOf j) 0 1 (2 ^ 48 * n) g 0 payload) s

/-! ### Commands of a fabric queue -/

/-- The head command of a fabric queue that is in execution. -/
def State.fabRun (s : State) (q : Nat) : Option (QCmd × Clause × InFlight) :=
  match s.queue ⟨.fabric, q⟩ with
  | none => none
  | some Q => match Q.cmds, Q.infl with
    | c :: _, some f => (s.clause c.seq).map fun cl => (c, cl, f)
    | _, _ => none

/-- op subcode. -/
def fabOp (w : Nat) : Nat := cb w 4 1
/-- fmt. -/
def fabFmt (w : Nat) : Nat := bits w 40 4
/-- red_op. -/
def fabRed (w : Nat) : Nat := bits w 44 4
/-- group. -/
def fabGroup (w : Nat) : Nat := cb w 6 2
/-- local. -/
def fabLocal (w : Nat) : Nat := cb w 8 8
/-- desc. -/
def fabDesc (w : Nat) : Nat := cb w 16 8
/-- arg. -/
def fabArg (w : Nat) : Nat := cb w 24 8

/-- Whether a command word has an opcode and a subcode. -/
def isFab (op sub : Nat) (w : Nat) : Bool := cb w 0 1 == op && fabOp w == sub

/-! ### Atomics (R326) -/

/-- The new value of an element and whether it is a NaN or an infinity: fetch-add, swap, compare-swap, fetch-max,
fetch-min. -/
def atomicNew (f op old a b : Nat) : Nat × Bool :=
  match op with
  | 0 => let r := msaAdd f old a; (r.1, r.2.2)
  | 1 => (a, false)
  | 2 => (if old = a then b else old, false)
  | _ =>
    if f = fmF32 then
      let x := decodeNum f old
      let y := decodeNum f a
      ((near f (if op = 3 then x.max y else x.min y)).code, false)
    else
      let x := toSigned (fmtBits f) old
      let y := toSigned (fmtBits f) a
      (ofSigned (fmtBits f) (if op = 3 then max x y else min x y), false)

/-- Bytes of an element of an atomic. -/
def atomicBytes (f : Nat) : Nat := fmtBits f / 8

/-- One atomic at an address of job `j`: made in tier 0 alone; a first write allocates (R283, R301, R326). The old value and
NONFINITE. -/
def State.atomicVa (s : State) (j addr f op a b : Nat) : Acc (State × Nat × Bool) :=
  let off := addr % 2 ^ 48
  let n := atomicBytes f
  if s.inStash j off then .fail 0x21 addr
  else match s.leafOf j off with
  | none => .fail 0x20 addr
  | some l =>
    if l.write = false then .fail 0x21 addr
    else accBind (if l.allocated then .ok s else s.allocate l) fun s =>
    match (s.leafOf j off).bind fun l => s.home l off with
    | none => .fail 0x20 addr
    | some (h, _) =>
      if h.tier ≠ 0 then s.awayAcc h
      else
        let old := match s.physOf j addr with | some p => leNat (readRun s.mem.bytes p n) | none => 0
        match (s.physOf j addr).bind fun p => s.poisonIn p n with
        | some _ => .fail 0x30 addr
        | none =>
          let r := atomicNew f op old (a % 2 ^ fmtBits f) (b % 2 ^ fmtBits f)
          accBind (s.writeVa j addr (leBytes n r.1)) fun t => .ok (t, old, r.2)

/-! ### Arrival counters (R327) -/

/-- A SIGNAL's increment reaches an arrival counter of a job. -/
def State.signal (s : State) (j c n : Nat) : State :=
  (s.setReg (K.arrivalCounter j c) ((s.reg (K.arrivalCounter j c) + n) % 2 ^ 64)).wakeCore j

/-! ### REMOTE (R326) -/

/-- Bytes that a REMOTE's transfer moves: one unit for ATOMIC and SIGNAL. -/
def remoteBytes (w : Nat) : Nat := if fabOp w ≤ 2 then packedBytes (fabFmt w) (fabArg w) else 1

/-- Bytes of the piece at offset `off`: a frame's payload, or the part of one sector for an add. -/
def remotePiece (w off : Nat) : Nat :=
  let u := if fabOp w = 2 then 64 else 512
  if fabOp w ≤ 2 then min (u - (fabDesc w + off) % u) (remoteBytes w - off) else 1

/-- Elements that `n` bytes hold. -/
def remoteElems (w n : Nat) : Nat := if fabOp w ≤ 2 then n * 8 / fmtBits (fabFmt w) else n

/-- How one piece goes: it has taken effect, a request for it is outstanding, it fails, or it must wait, with the address it writes. -/
inductive Piece
  | ok (s : State)
  | out (s : State)
  | stop (reason detail : Nat)
  | hold (s : State) (at' : Option Nat)

/-- The state in which part of a fabric command's work is done; a request's part is done once it is acknowledged. -/
def State.began (s : State) (seq : Nat) : State := s.modClause seq fun c => { c with wrote := true, begun := true }

/-- Whether part of the work of a clause's fabric command in execution is done (R100). -/
def State.hasBegun (s : State) (seq : Nat) : Bool := (s.clause seq).any (·.begun)

/-- A write of bytes at this module for a fabric command; bytes that rest with a lender leave as a request. -/
def State.landPiece (s : State) (q : QueueId) (cl : Clause) (off addr : Nat) (bs : List Byte) : Piece :=
  let send (s : State) (n a : Nat) (b : List Byte) : State :=
    let real := if n ≥ 2 ^ 16 then n - 2 ^ 16 else n
    s.request 0x03 cl.job q off n (2 ^ 48 * real + a) b.length 0 b
  match State.writeEach send .unit cl.job (bs.length / 65536 + 2) addr bs (s.translate .fabric cl.job addr bs.length) with
  | .ok t => if t.fab.reqs.length = s.fab.reqs.length then .ok (t.began cl.seq) else .out t
  | .fail r d => .stop r d
  | .far _ _ _ => .hold s none
  | .wait => .hold s (some addr)

/-- The flags of a memory-side add go to the clause (R62): NONFINITE alone. -/
def State.addFlags (s : State) (seq : Nat) (nf : Bool) : State := s.raise seq false nf

/-- One piece of a REMOTE at offset `off`. -/
def State.remoteStep (s : State) (q : QueueId) (c : QCmd) (cl : Clause) (off : Nat) : Piece :=
  let w := c.word
  let n := remotePiece w off
  let la := fabLocal w + off
  let ra := fabDesc w + off
  let node := fabDesc w / 2 ^ 48
  let mine := s.isMe node
  match fabOp w with
  | 0 =>
    match s.unitRead cl.job ra n with
    | .ok bs => ((s.translate .fabric cl.job ra n).didRead cl.job ra n).landPiece q cl off la bs
    | .fail r d => .stop r d
    | .far nd a l =>
      let real := if nd ≥ 2 ^ 16 then nd - 2 ^ 16 else nd
      .out (s.request 0x01 cl.job q off nd (2 ^ 48 * real + a) l la [])
    | .wait => .hold s none
  | 1 | 2 =>
    match s.unitRead cl.job la n with
    | .fail r d => .stop r d
    | .far nd a l => .hold (s.fetchFar cl.job nd a l) none
    | .wait => .hold s none
    | .ok bs =>
      let s := (s.translate .fabric cl.job la n).didRead cl.job la n
      if mine then
        if fabOp w = 1 then s.landPiece q cl off ra bs
        else match s.addVa cl.job ra (fabFmt w) bs with
          | .ok (t, _, nf) => .ok ((t.addFlags cl.seq nf).began cl.seq)
          | .fail r d => .stop r d
          | .wait => .hold (s.askPage cl.job (ra % 2 ^ 48)) (some ra)
          | .far _ _ _ => .hold (s.askPage cl.job (ra % 2 ^ 48)) (some ra)
      else if fabOp w = 1 then .out (s.request 0x03 cl.job q off node ra n 0 bs)
      else
        let f := fabFmt w
        .out (s.request 0x05 cl.job q off node (ra / 64 * 64) (f + 16 * 64) 0 (addPayload f ra bs))
  | 3 =>
    match s.unitRead cl.job la 16 with
    | .fail r d => .stop r d
    | .far nd a l => .hold (s.fetchFar cl.job nd a l) none
    | .wait => .hold s none
    | .ok bs =>
      let f := fabFmt w
      if mine then
        match s.atomicVa cl.job ra f (fabRed w) (nb bs 0 8) (nb bs 8 8) with
        | .ok (t, old, nf) => (t.addFlags cl.seq nf).landPiece q cl off (la + 16) (leBytes (atomicBytes f) old)
        | .fail r d => .stop r d
        | .wait => .hold (s.askPage cl.job (ra % 2 ^ 48)) (some ra)
        | .far _ _ _ => .hold (s.askPage cl.job (ra % 2 ^ 48)) (some ra)
      else .out (s.request 0x06 cl.job q off node ra (f + 16 * fabRed w) (la + 16) bs)
  | _ =>
    if s.fab.reqs.any fun r => r.owner == q && r.node == node && (r.what == 0x03 || r.what == 0x05 || r.what == 0x06) then
      .hold s none
    else if mine then .ok ((s.signal cl.job (bits (fabDesc w) 0 4) (fabArg w)).began cl.seq)
    else .out (s.request 0x08 cl.job q off node (fabDesc w) (bits (fabDesc w) 0 4) 0 (padTo 16 (leBytes 8 (fabArg w))))

/-- How a run of pieces ends: the offset reached, the reason and detail of a halt, and the address of a write that waits. -/
structure RemoteOut where
  state : State
  pos   : Nat
  stop  : Option (Nat × Nat)
  at'   : Option Nat

/-- Runs pieces from an offset while fewer than 4,096 requests are outstanding. -/
def State.remoteRun (s : State) (q : QueueId) (c : QCmd) (cl : Clause) : Nat → Nat → RemoteOut
  | 0, pos => { state := s, pos := pos, stop := none, at' := none }
  | fuel + 1, pos =>
    if pos ≥ remoteBytes c.word ∨ (s.reqsOf q).length ≥ 4096 then { state := s, pos := pos, stop := none, at' := none }
    else match s.remoteStep q c cl pos with
      | .ok t => t.remoteRun q c cl fuel (pos + remotePiece c.word pos)
      | .out t => t.remoteRun q c cl fuel (pos + remotePiece c.word pos)
      | .stop r d => { state := s, pos := pos, stop := some (r, d), at' := none }
      | .hold t x => { state := t, pos := pos, stop := none, at' := x }

/-- Elements done when the pieces up to `pos` have been issued: those of pieces still outstanding are not. -/
def State.remoteDone (s : State) (q : QueueId) (w pos : Nat) : Nat :=
  remoteElems w pos - (((s.reqsOf q).map (·.xid)).eraseDups.map fun x => remoteElems w (remotePiece w x)).sum

/-- The outcome of a run of a REMOTE's pieces: it completes when no request is outstanding; a wait on a page move is counted once (R297,
R311). -/
def remoteEnd (q : QueueId) (w seq j : Nat) (waited : Bool) (o : RemoteOut) : Run :=
  let p := o.state.remoteDone q w o.pos
  let x := match o.at' with | some a => o.state.countWait j a waited | none => (o.state, false)
  match o.stop with
  | some (r, d) => .halt o.state r d p o.pos (o.state.hasBegun seq)
  | none =>
    if o.pos ≥ remoteBytes w ∧ o.state.reqsOf q = [] then .done o.state
    else .busy x.1 { progress := p, pos := o.pos, waits := [], waited := x.2 }

/-- The decode checks of a REMOTE (R37, R75, R84, R326): a reserved format code is FORMAT_UNSUPPORTED, any other value outside the
operation's row COUNT_OUT_OF_RANGE (DEDUCED, log 28). -/
def State.remoteChecks (s : State) (w : Nat) : List (Bool × Nat × Nat) :=
  let op := fabOp w
  let f := fabFmt w
  [ (reservedSet w [(0, 8), (32, 8), (40, 8), (64, 64), (128, 64), (192, 64)], 0x02, 0),
    (op = 4 && bits (fabDesc w) 4 44 != 0, 0x02, 0),
    (f > 10, 0x03, f),
    ((op = 2 && !isMsa f) || (op = 3 && f != 0 && f != 8 && f != 9) || (op = 4 && f != 0), 0x04, f),
    (op != 3 && fabRed w != 0, 0x04, fabRed w),
    (op = 3 && (fabRed w > 4 || (f = 0 && (fabRed w = 1 || fabRed w = 2))), 0x04, fabRed w),
    (decide (op ≤ 2) && (fabArg w = 0 || fabArg w > 2 ^ 36), 0x04, fabArg w),
    (op = 3 && fabArg w != 1, 0x04, fabArg w),
    (op = 4 && (fabArg w = 0 || fabArg w > 2 ^ 32), 0x04, fabArg w),
    (op != 4 && fabLocal w % alignOf f != 0, 0x09, fabLocal w),
    (op != 4 && fabDesc w % alignOf f != 0, 0x09, fabDesc w),
    (op != 4 && fabLocal w / 2 ^ 48 > 16383, 0x20, fabLocal w),
    (!s.isMe (fabLocal w / 2 ^ 48), 0x21, fabLocal w),
    (fabDesc w / 2 ^ 48 > 16383, 0x20, fabDesc w) ]

/-- Pieces a run may take: one frame each. -/
def remoteFuel (w : Nat) : Nat := remoteBytes w + 1

/-- The op under which a request is kept once its response is here but not yet written (0x02, 0x07, 0x13). -/
def arrived (what : Nat) : Bool := what == 0x02 || what == 0x07 || what == 0x13

/-- A response's bytes are written at their place: at once, or when a page that moves has moved. A write that halts keeps
the bytes for the command's resumption. -/
def State.landReq (s : State) (q : QueueId) (cl : Clause) (r : Req) (bs : List Byte) : Option (Nat × Nat) × State :=
  let keep (s : State) : State := s.modReq r.tag fun x => { x with what := (answerOp x.what).getD x.what, data := bs }
  match (s.dropReq r.tag).landPiece q cl r.xid r.dst bs with
  | .ok t => (none, t)
  | .out t => (none, t)
  | .stop x d => (some (x, d), keep s)
  | .hold _ _ => (none, keep s)

/-- Every response kept for a queue's command is written; the first failure is the halt. -/
def State.landAll (s : State) (q : QueueId) (cl : Clause) : Option (Nat × Nat) × State :=
  ((s.reqsOf q).filter fun r => arrived r.what).foldl (fun (a : Option (Nat × Nat) × State) r =>
    match a.1 with
    | some _ => a
    | none => a.2.landReq q cl r r.data) (none, s)

/-- A REMOTE goes on from an offset. -/
def State.remoteFrom (s : State) (q : QueueId) (c : QCmd) (cl : Clause) (pos : Nat) (waited : Bool) : Run :=
  let r := s.landAll q cl
  match r.1 with
  | some (x, d) => .halt r.2 x d (r.2.remoteDone q c.word pos) pos (r.2.hasBegun cl.seq)
  | none => remoteEnd q c.word cl.seq cl.job waited (r.2.remoteRun q c cl (remoteFuel c.word) pos)

/-- Runs REMOTE. -/
def runRemote (s : State) (c : QCmd) (cl : Clause) (_ : Option HwFault) : Run :=
  let q : QueueId := ⟨.fabric, cl.unit⟩
  decoded s (s.remoteChecks c.word)
    (if c.again then (s.resend q).remoteFrom q c cl c.pos false else s.remoteFrom q c cl 0 false)

/-- REMOTE_GET (R326). -/
def execRemoteGet (q : Nat) (s : State) : Host.Outcome State Fault Refusal :=
  finish s (s.issue ⟨.fabric, q⟩ (isFab 0x74 0) none runRemote)

/-- REMOTE_PUT (R326). -/
def execRemotePut (q : Nat) (s : State) : Host.Outcome State Fault Refusal :=
  finish s (s.issue ⟨.fabric, q⟩ (isFab 0x74 1) none runRemote)

/-- REMOTE_ADD (R326). -/
def execRemoteAdd (q : Nat) (s : State) : Host.Outcome State Fault Refusal :=
  finish s (s.issue ⟨.fabric, q⟩ (isFab 0x74 2) none runRemote)

/-- REMOTE_ATOMIC (R326). -/
def execRemoteAtomic (q : Nat) (s : State) : Host.Outcome State Fault Refusal :=
  finish s (s.issue ⟨.fabric, q⟩ (isFab 0x74 3) none runRemote)

/-- REMOTE_SIGNAL (R327). -/
def execRemoteSignal (q : Nat) (s : State) : Host.Outcome State Fault Refusal :=
  finish s (s.issue ⟨.fabric, q⟩ (isFab 0x74 4) none runRemote)

/-- The state after an outcome of a fabric command that is in execution. -/
def State.fabSettle (s : State) (q : Nat) (c : QCmd) (cl : Clause) (r : Run) : State := s.settleRun ⟨.fabric, q⟩ c cl r

/-- A REMOTE in execution goes on. -/
def State.remoteGoOn (s : State) (q : Nat) : State :=
  match s.fabRun q with
  | none => s
  | some (c, cl, f) =>
    if cb c.word 0 1 ≠ 0x74 then s else s.fabSettle q c cl (s.remoteFrom ⟨.fabric, q⟩ c cl f.pos f.waited)

end Sys2Proof.Machine
end

