-- ==== Sys2Proof/Machine/Agree.lean ====
section
/-! DEFINITION. Agreement (R234 to R236, R247 to R254): the inserted flush, AGREE, contributions, the root's decision, the
result at a participant, queries; and the release of a step (R339). -/

namespace Sys2Proof.Machine

/-! ### Inbound frames of a job (R325) -/

/-- A frame of an op arrives whole and carries the key of a resident job; a request with another key is refused with
PROTECTION (R325). -/
def State.inbound (s : State) (op : Nat) (f : Frame) : Option (Nat × Frame) × State :=
  match s.arrive op f with
  | (none, s) => (none, s)
  | (some g, s) =>
    match s.jobByKey g.key with
    | some j => (some (j, g), s)
    | none =>
      let s := s.bump K.fabRefusedInbound 1
      (none, match answerOp op with
        | some a => if bit g.flags 1 then s else s.reply g a 0 0x21 (leBytes 8 g.addr)
        | none => s)

/-! ### Requests that wait for memory -/

/-- A header that no frame of the Ryeve link brought. -/
def TxHdr.none : TxHdr where
  job := 0
  tag := 0
  addr := 0
  bytes := 0
  session := 0

/-- The least number above those of the requests that wait for memory. -/
def State.freshPend (s : State) : Nat := (s.fab.pendReads.map (·.id)).foldl (fun a i => max a (i + 1)) 0

/-- A request or read that is answered when its memory has been read. -/
def State.pend (s : State) (op : Nat) (f : Frame) (data : List Byte) : State :=
  s.modFab fun F => { F with pendReads := F.pendReads ++
    [{ id := s.freshPend, vc0 := false, op := op, frame := f, hdr := TxHdr.none, data := data }] }

/-- The state without a pending read. -/
def State.unpend (s : State) (id : Nat) : State :=
  s.modFab fun F => { F with pendReads := F.pendReads.filter (·.id != id) }

/-! ### Steps -/

/-- The halt of an AGREE or STEP_RELEASE that names no open step (R103). -/
def badStep (n : Nat) : Nat := 6 + 256 * (n % 256)

/-- The decode checks of AGREE and STEP_RELEASE (R84). -/
def stepChecks (w : Nat) : List (Bool × Nat × Nat) :=
  [(reservedSet w [(0, 8), (32, 8), (48, 16), (192, 64)], 0x02, 0)]

/-- Whether an earlier-admitted clause of a step has not ended, whatever it holds (R235; log 29). -/
def State.earlierOpen (s : State) (cl : Clause) (n : Nat) : Bool :=
  s.clauses.any fun c => c.job == cl.job && c.step == some n && c.seq < cl.seq

/-- Whether the inserted flush of a step has ended with a halt that core 2 did not resume (R154). -/
def flushEnded (h : Halt) : Bool := h.decided && !h.resumable

/-- Whether the inserted flush of a step is over. -/
def State.flushOver (s : State) (t : Step) : Bool :=
  match t.agreeSeq with
  | none => true
  | some q => !s.insertedLeft t.job (t.epoch % 2 ^ 32) q && t.flushHalts.all flushEnded

/-- A contribution's payload (R247; layout log 30). -/
def contribPayload (step flags scale clean : Nat) : List Byte :=
  leBytes 8 step ++ leBytes 1 flags ++ zeros 3 ++ leBytes 4 scale ++ leBytes 4 clean ++ zeros 12

/-- The flag word of a step on this module: the flags of its clauses that have ended, those of the AGREE's own clause so far under its
class, among them what the partials of the inserted flush raised on it, and FAILED (R154, R247). -/
def flagWord (t : Step) (cl : Clause) : Nat :=
  (if t.nonfinite || (cl.nonfinite && bit t.nfClasses (clsCode cl.cls)) then 1 else 0) +
  (if t.overflow || (cl.overflow && bit t.ovfClasses (clsCode cl.cls)) then 2 else 0) + (if t.failed then 4 else 0)

/-- A contribution reaches the root's list, once for each node. -/
def State.addContrib (s : State) (x : Contrib) : State :=
  if s.fab.contribs.any fun y => y.job == x.job && y.group == x.group && y.step == x.step && y.node == x.node then s
  else s.modFab fun F => { F with contribs := F.contribs ++ [x] }

/-! ### The result (R236, R249, R250, R254) -/

/-- A result record (R249). -/
def resultRecord (step epoch result cause missing first scale clean : Nat) : List Byte :=
  leBytes 8 step ++ leBytes 8 epoch ++ leBytes 1 result ++ leBytes 1 cause ++ leBytes 2 missing ++ leBytes 2 first ++
    zeros 2 ++ leBytes 4 scale ++ leBytes 4 clean

/-- A job's last 16 result records, newest first (R249). -/
def State.lastRecords (s : State) (j : Nat) : List (List Byte) :=
  (List.range 16).map fun i => leBytes 32 (bits (s.reg (K.lastResults j)) (256 * i) 256)

/-- The record of a step that this module holds (R251). -/
def State.recordOf (s : State) (j n : Nat) : Option (List Byte) :=
  (s.lastRecords j).find? fun r => nb r 0 8 == n && nb r 8 8 != 0

/-- The scale word of R254: scale, inverse, epoch. -/
def scaleWordBytes (scale epoch : Nat) : List Byte :=
  leBytes 4 scale ++ leBytes 4 (near fmF32 (oneNum.div (decodeNum fmF32 scale))).code ++ leBytes 8 epoch

/-- The module writes a job's scale word (R254); a place that cannot be written keeps what it holds (log 31). -/
def State.writeScale (s : State) (j scale epoch : Nat) : State :=
  (s.ownWrite j (s.reg (K.scaleWord j)) (scaleWordBytes scale epoch)).getD s

/-- The fabric queue whose AGREE of a step is in execution. -/
def State.agreeQueue (s : State) (j n : Nat) : Option Nat :=
  (List.range 16).find? fun q => match s.fabRun q with
    | some (c, cl, _) => cl.job == j && cb c.word 0 1 == 0x71 && fabArg c.word == n
    | none => false

/-- The record with which an AGREE's clause completes: that of an inserted flush that ended, the first to halt where it ended on several
EEs (DESIGN CHOICE, log 24), else the timeout's (R154, R250, R417). -/
def State.agreeNote (s : State) (q : Nat) (c : QCmd) (cl : Clause) (t : Step) (timeout : Bool) : State :=
  match t.flushHalts.find? flushEnded with
  | some h =>
    s.modClause cl.seq fun x => { x with noted := some (haltRecord h.cmd.addr h.reason (clsCode .embed)
      (isResumable h.reason) true h.pos 0xFF cl.job 0x52 h.cmd.idx h.detail cl.seq 0) }
  | none =>
    if timeout then
      s.modClause cl.seq fun x => { x with noted := some (completeRecord { x with unit := q } 0x42 (cb c.word 0 1) t.number) }
    else s

/-- A result reaches a participant whose step is AGREEING (R236): it is recorded, the agreed epoch moves, the stash is
released, an ellipsis zeroes the step's blocks, the scale is adopted, and the AGREE completes. At any other time it is
left: a late contribution is answered with the stored result (R248; DEDUCED, log 32). -/
def State.applyResult (s : State) (j : Nat) (rec : List Byte) : State :=
  match s.stepOf j (nb rec 0 8) with
  | none => s
  | some t =>
    if t.state ≠ .agreeing then s
    else
      let commit := nb rec 16 1 == 0
      let timeout := bit (nb rec 17 1) 3
      let scale := nb rec 24 4
      let s := s.setReg (K.lastResults j) (leNat (rec.take 32) + s.reg (K.lastResults j) % 2 ^ 3840 * 2 ^ 256)
      let s := s.setReg (K.agreedEpoch j) t.epoch
      let s := s.bump (if commit then K.commits j else K.ellipses j) 1
      let s := if timeout then (s.bump (K.timeouts j) 1).postJob j 0x04 (rec.take 32) else s
      let old := s.reg (K.lossScale j)
      let s := s.modStep j t.number fun t => { t with scale := old, state := if commit then .committing else .ellipsis }
      let s := (s.setReg (K.lossScale j) scale).setReg (K.cleanSteps j) (nb rec 28 4)
      let s := s.freeStash j t.number
      let s := if commit then s else (s.zeroBlocks j t.epoch).endPins j t.epoch
      let s := (s.evictRemote j).writeScale j scale t.epoch
      let s := s.modFab fun F => { F with reqs := F.reqs.filter fun r =>
        !((r.what == 0x0E || r.what == 0x17) && r.job == j && nb r.data 0 8 == t.number) }
      match s.agreeQueue j t.number with
      | none => s
      | some q => match s.fabRun q with
        | none => s
        | some (c, cl, _) => (s.agreeNote q c cl t timeout).completeCmd ⟨.fabric, q⟩ none

/-! ### The root's decision (R248, R253) -/

/-- The scale and clean count that every participant adopts (R253). -/
def State.nextScale (s : State) (j cause : Nat) : Nat × Nat :=
  let scale := s.reg (K.lossScale j)
  let clean := s.reg (K.cleanSteps j)
  let x := decodeNum fmF32 scale
  let half : Num := .fin false 1 (-1)
  let two : Num := .fin false 2 0
  if bit cause 0 || bit cause 1 then
    ((near fmF32 ((decodeNum fmF32 (s.reg (K.scaleMin j))).max (roundTo fmF32 false (x.mul half)))).code, 0)
  else if cause ≠ 0 then (scale, clean)
  else if clean + 1 = s.reg (K.growthInterval j) then
    ((near fmF32 ((decodeNum fmF32 (s.reg (K.scaleMax j))).min (roundTo fmF32 false (x.mul two)))).code, 0)
  else (scale, (clean + 1) % 2 ^ 32)

/-- Contributions of a step that the root holds. -/
def State.contribsOf (s : State) (j g n : Nat) : List Contrib :=
  s.fab.contribs.filter fun x => x.job == j && x.group == g && x.step == n

/-- The record that the root decides for a step, from the members and their contributions; the epoch of a step that the root
has not opened is a free value (log 2). -/
def State.decision (s : State) (j g n : Nat) (l : List Nat) : List Byte :=
  let cs := s.contribsOf j g n
  let missing := l.filter fun m => !cs.any fun x => x.node == m
  let flags := cs.foldl (fun a x => a ||| x.flags % 8) 0
  let mism := cs.any fun x => x.scale != s.reg (K.lossScale j) || x.clean != s.reg (K.cleanSteps j)
  let cause := flags + (if missing ≠ [] then 8 else 0) + (if mism then 16 else 0)
  let sc := if missing = [] then s.nextScale j cause else (s.reg (K.lossScale j), s.reg (K.cleanSteps j))
  let epoch := match s.stepOf j n with | some t => t.epoch | none => s.freeVal 0 % 2 ^ 64
  resultRecord n epoch (if cause = 0 then 0 else 1) cause (min missing.length 65535) (missing.headD 0xFFFF) sc.1 sc.2

/-- The stored result of a group's step (R248). -/
def State.resultAt (s : State) (j g n : Nat) : Option (List Byte) :=
  (s.fab.results.find? fun r => r.job == j && r.group == g && nb r.body 0 8 == n).map (·.body)

/-- Keeps the last 16 results of a group. -/
def keepResults (j g : Nat) (l : List AgreeRec) : List AgreeRec :=
  let mine (r : AgreeRec) : Bool := r.job == j && r.group == g
  (l.filter mine).take 16 ++ l.filter fun r => !mine r

/-- The root decides a step: the result is kept, sent down the tree and taken by the root itself. -/
def State.decide' (s : State) (j g n : Nat) (l : List Nat) : State :=
  let rec' := s.decision j g n l
  let s := s.modFab fun F => { F with
    contribs := F.contribs.filter fun x => !(x.job == j && x.group == g && x.step == n)
    results := keepResults j g ({ job := j, group := g, body := rec' } :: F.results) }
  (s.relay j 0x0F g l rec').applyResult j rec'

/-- The root decides once every participant has contributed (R248). -/
def State.tryDecide (s : State) (j g n : Nat) : State :=
  match s.groupOf j g with
  | .ok l =>
    if s.isMe (rootOf l) && (s.contribsOf j g n) != [] && l.all fun m => (s.contribsOf j g n).any fun x => x.node == m then
      s.decide' j g n l
    else s
  | _ => s

/-- A contribution reaches this module as the root: it joins the others, or, after the decision, the stored result is sent
to its sender (R248). -/
def State.takeContrib (s : State) (x : Contrib) : State :=
  match s.resultAt x.job x.group x.step with
  | some r =>
    if s.isMe x.node then s.applyResult x.job r
    else s.sendFrame 0x0F x.node (s.keyOf x.job) 0 1 (2 ^ 48 * x.node) x.group 0 r
  | none => (s.addContrib x).tryDecide x.job x.group x.step

/-- Decisions and stored results that a contribution of this module's own AGREE in queue `q` leads to. -/
def State.agreeGoOn (s : State) (q : Nat) : State :=
  match s.fabRun q with
  | none => s
  | some (c, cl, _) =>
    if cb c.word 0 1 ≠ 0x71 then s
    else
      let g := fabGroup c.word
      let n := fabArg c.word
      match s.resultAt cl.job g n with
      | some r => s.applyResult cl.job r
      | none => s.tryDecide cl.job g n

/-! ### AGREE (R234, R235, R252) -/

/-- The contribution departs: the step is AGREEING (R234). -/
def State.contribute (s : State) (q : Nat) (c : QCmd) (cl : Clause) (t : Step) (l : List Nat) : State :=
  let g := fabGroup c.word
  let j := cl.job
  let flags := flagWord t cl
  let scale := s.reg (K.lossScale j)
  let clean := s.reg (K.cleanSteps j)
  let s := (s.modStep j t.number fun t => { t with state := .agreeing }).began cl.seq
  let root := rootOf l
  if s.isMe root then
    if (s.resultAt j g t.number).isSome then s
    else s.addContrib { job := j, group := g, step := t.number, node := s.actingNode, flags := flags, scale := scale, clean := clean }
  else
    s.request 0x0E j ⟨.fabric, q⟩ 0 root (2 ^ 48 * root) g 0 (contribPayload t.number flags scale clean)

/-- Runs AGREE: it issues once its step's earlier clauses have ended and the inserted flush is over. -/
def runAgree (s : State) (c : QCmd) (cl : Clause) (_ : Option HwFault) : Run :=
  let n := fabArg c.word
  decoded s (stepChecks c.word)
    (match s.stepOf cl.job n with
     | none => Run.refuse s 0x13 (badStep n)
     | some t =>
       if s.earlierOpen cl n then .wait
       else onAcc s cl.job (s.groupOf cl.job (fabGroup c.word)) fun l =>
         match t.state with
         | .opened => .wait
         | .flushing => if s.flushOver t then .busy (s.contribute cl.unit c cl t l) { progress := 0, pos := 2 * rootOf l, waits := [] } else .wait
         | .abandoned => .busy (s.contribute cl.unit c cl t l) { progress := 0, pos := 2 * rootOf l, waits := [] }
         | _ => Run.refuse s 0x13 (badStep n))

/-- AGREE (R252). -/
def execAgree (q : Nat) (s : State) : Host.Outcome State Fault Refusal :=
  finish s ((s.issue ⟨.fabric, q⟩ (isFab 0x71 0) none runAgree).agreeGoOn q)

/-- The step whose AGREE stands at the head of a fabric queue, with its earlier clauses ended. -/
def State.agreeAhead (s : State) (q : Nat) : Option (Clause × Step) :=
  match s.headOf ⟨.fabric, q⟩ with
  | none => none
  | some (c, cl) =>
    if isFab 0x71 0 c.word && c.bad.isNone && !reservedSet c.word [(0, 8), (32, 8), (48, 16), (192, 64)] then
      match s.stepOf cl.job (fabArg c.word), s.groupOf cl.job (fabGroup c.word) with
      | some t, .ok _ => if s.earlierOpen cl t.number then none else some (cl, t)
      | _, _ => none
    else none

/-- The scheduler inserts the flush of the step's epoch as its AGREE reaches issue: FLUSHING (R154, R234). -/
def insertedFlush (q : Nat) (s : State) : State :=
  match s.agreeAhead q with
  | some (cl, t) =>
    if t.state ≠ .opened then s
    else
      (s.modStep cl.job t.number fun t => { t with state := .flushing, agreeSeq := some cl.seq }).insertedSends cl.job
        (t.epoch % 2 ^ 32) cl.seq
  | none => s

/-- INSERTED_FLUSH (R154). -/
def execInsertedFlush (q : Nat) (s : State) : Host.Outcome State Fault Refusal := finish s (insertedFlush q s)

/-- The inserted flush is over, and the AGREE issues (R234). -/
def insertedFlushDone (q : Nat) (s : State) : State :=
  match s.agreeAhead q with
  | some (_, t) =>
    if t.state = .flushing ∧ s.flushOver t then (s.issue ⟨.fabric, q⟩ (isFab 0x71 0) none runAgree).agreeGoOn q else s
  | none => s

/-- INSERTED_FLUSH_DONE (R234). -/
def execInsertedFlushDone (q : Nat) (s : State) : Host.Outcome State Fault Refusal := finish s (insertedFlushDone q s)

/-! ### Release floors (R339) -/

/-- A release floor of a group, which never falls. -/
def State.setFloor (s : State) (j g n : Nat) : State :=
  let n := max n ((s.floorOf j g).getD 0)
  s.modFab fun F => { F with floors := F.floors.filter (fun x => !(x.1 == j && x.2.1 == g)) ++ [(j, g, n)] }

/-- The floor of a step goes down the tree once every member has released it (R339). -/
def State.tryFloor (s : State) (j g n : Nat) : State :=
  match s.groupOf j g with
  | .ok l =>
    if s.isMe (rootOf l) && l.all fun m => s.fab.releases.any fun r => r == (j, g, m, n) then
      let s := s.modFab fun F => { F with releases := F.releases.filter fun r => !(r.1 == j && r.2.1 == g && r.2.2.2 == n) }
      (s.relay j 0x11 g l (padTo 16 (leBytes 8 n))).setFloor j g n
    else s
  | _ => s

/-- A member's release of a step reaches the root. -/
def State.takeRelease (s : State) (j g m n : Nat) : State :=
  (if s.fab.releases.contains (j, g, m, n) then s
   else s.modFab fun F => { F with releases := F.releases ++ [(j, g, m, n)] }).tryFloor j g n

/-! ### Frames of agreement and release -/

/-- What a frame of agreement or release does with the list of the group that it names, none where no such group is defined: a
contribution or a release reaches the root, and a module that is not the group's root leaves a contribution; a result or a floor is relayed
and taken (R236, R248, R330, R339). -/
def State.groupFrame (s : State) (j op : Nat) (g : Frame) (l : Option (List Nat)) : State :=
  let relay (s : State) : State := match l with | some l => s.relay j op g.arg l g.payload | none => s
  match op with
  | 0x0E => match l with
    | some l =>
      if s.isMe (rootOf l) && l.contains g.acting then
        s.takeContrib { job := j, group := g.arg, step := nb g.payload 0 8, node := g.acting, flags := nb g.payload 8 1
                        scale := nb g.payload 12 4, clean := nb g.payload 16 4 }
      else s
    | none => s
  | 0x0F => (relay s).applyResult j g.payload
  | 0x10 => s.takeRelease j g.arg g.acting (nb g.payload 0 8)
  | _ =>
    let n := nb g.payload 0 8
    let s := (relay s).modFab fun F => { F with reqs := F.reqs.filter fun r =>
      !(r.what == 0x10 && r.job == j && r.arg == g.arg && nb r.data 0 8 ≤ n) }
    s.setFloor j g.arg n

/-- A frame that names a group: done once the group's list can be read; meanwhile it is pending, under the number `id` if it is already
(R273). -/
def State.groupIn (s : State) (j op : Nat) (g : Frame) (id : Option Nat) : State :=
  let off (s : State) : State := match id with | some i => s.unpend i | none => s
  let keep (s : State) : State := if id.isSome then s else s.pend op g []
  match s.groupOf j g.arg with
  | .ok l => (off s).groupFrame j op g (some l)
  | .fail _ _ => (off s).groupFrame j op g none
  | .far n a m => keep (s.fetchFar j n a m)
  | .wait => keep s

/-- A contribution arrives at the root (R248). -/
def agreeContrib (f : Frame) (s : State) : State :=
  match s.inbound 0x0E f with
  | (none, s) => s
  | (some (j, g), s) => s.groupIn j 0x0E g none

/-- AGREE_CONTRIB (R248). -/
def execAgreeContrib (f : Frame) (s : State) : Host.Outcome State Fault Refusal := finish s (agreeContrib f s)

/-- Whether every query of a step has been answered in vain, and its root is unreachable (R251). -/
def State.agreeLost (s : State) (j n root : Nat) : Bool :=
  s.unreachable root && !s.isMe root && !s.fab.reqs.any fun r => r.what == 0x17 && r.job == j && nb r.data 0 8 == n

/-- An AGREE that no participant can tell a result of halts: AGREEMENT_LOST, and the job is parked (R251). An AGREE in execution keeps
twice its root as position, and 1 more once it has queried. -/
def State.loseAgree (s : State) (j n : Nat) : State :=
  match s.agreeQueue j n with
  | none => s
  | some q => match s.fabRun q with
    | none => s
    | some (c, cl, f) =>
      if f.pos % 2 = 1 ∧ s.agreeLost j n (f.pos / 2) then
        let s := s.modFab fun F => { F with reqs := F.reqs.filter fun r => !(r.what == 0x0E && r.job == j && nb r.data 0 8 == n) }
        ((s.haltCmd ⟨.fabric, q⟩ c cl 0x41 (f.pos / 2) 0 f.pos true).postJob j 0x05 (leBytes 8 n)).park j 0x01
      else s

/-- A result arrives: from the root, relayed down the tree and taken; or in answer to a query, empty where the participant
holds none (R248, R251, R330). -/
def agreeResult (f : Frame) (s : State) : State :=
  match s.inbound 0x0F f with
  | (none, s) => s
  | (some (j, g), s) =>
    if bit g.flags 1 then
      match s.reqOf g.tag with
      | some r =>
        if r.what = 0x0E ∧ bit g.flags 2 then
          let s := s.dropReq g.tag
          match s.fabRun r.owner.unit with
          | some (c, cl, _) => s.haltCmd r.owner c cl (g.status % 256) (nb g.payload 0 8) 0 0 cl.begun
          | none => s
        else if r.what ≠ 0x17 then s
        else
          let s := s.dropReq g.tag
          if g.payload = [] ∨ bit g.flags 2 then s.loseAgree j (nb r.data 0 8) else s.applyResult j g.payload
      | none => s
    else s.groupIn j 0x0F g none

/-- AGREE_RESULT (R236). -/
def execAgreeResult (f : Frame) (s : State) : Host.Outcome State Fault Refusal := finish s (agreeResult f s)

/-- A participant answers a query with the result it holds, or with none (R251). -/
def agreeQuery (f : Frame) (s : State) : State :=
  match s.inbound 0x17 f with
  | (none, s) => s
  | (some (j, g), s) =>
    let n := nb g.payload 0 8
    match s.recordOf j n, s.resultAt j g.arg n with
    | some r, _ => s.reply g 0x0F g.arg 0 r
    | none, some r => s.reply g 0x0F g.arg 0 r
    | none, none => s.reply g 0x0F g.arg 0 []

/-- AGREE_QUERY (R251). -/
def execAgreeQuery (f : Frame) (s : State) : Host.Outcome State Fault Refusal := finish s (agreeQuery f s)

/-- The root's agree_timeout expires after the first contribution of a step: it decides without those missing (R248). -/
def agreeTimeout (j g n : Nat) (s : State) : State :=
  match s.groupOf j g with
  | .ok l => if s.isMe (rootOf l) && (s.contribsOf j g n) != [] then s.decide' j g n l else s
  | .far d a m => (s.fetchFar j d a m).modFab fun F => { F with due := F.due ++ [(0, j, g, n)] }
  | _ => s

/-- AGREE_TIMEOUT (R248). -/
def execAgreeTimeout (j g step : Nat) (s : State) : Host.Outcome State Fault Refusal := finish s (agreeTimeout j g step s)

/-- A module without a result, agree_timeout + 5 s after its contribution, queries the other participants in ascending
order; with every query in vain and the root unreachable it gives the step up (R251). -/
def agreeResultQueryTimer (j n : Nat) (s : State) : State :=
  match s.agreeQueue j n with
  | none => s
  | some q => match s.fabRun q with
    | none => s
    | some (c, _, f) =>
      match s.groupOf j (fabGroup c.word) with
      | .ok l =>
        if f.pos % 2 = 1 then s.loseAgree j n
        else
          let s := s.modQueue ⟨.fabric, q⟩ fun Q => { Q with infl := Q.infl.map fun f => { f with pos := f.pos + 1 } }
          let s := (l.filter fun m => !s.isMe m).foldl (fun s m =>
            s.request 0x17 j ⟨.fabric, q⟩ 0 m (2 ^ 48 * m) (fabGroup c.word) 0 (padTo 16 (leBytes 8 n))) s
          s.loseAgree j n
      | .far d a m => (s.fetchFar j d a m).modFab fun F => { F with due := F.due ++ [(1, j, 0, n)] }
      | _ => s

/-- AGREE_RESULT_QUERY_TIMER (R251). -/
def execAgreeResultQueryTimer (j step : Nat) (s : State) : Host.Outcome State Fault Refusal :=
  finish s (agreeResultQueryTimer j step s)

/-! ### Release of a step (R339) -/

/-- A STEP_RELEASE whose frame has departed closes its step and completes (R234, R339). -/
def State.releaseGoOn (s : State) (q : Nat) : State :=
  match s.fabRun q with
  | none => s
  | some (c, cl, _) =>
    if cb c.word 0 1 ≠ 0x73 ∨ (s.reqsOf ⟨.fabric, q⟩).any (fun r => r.what == 0x10 && !r.sent) then s
    else
      let closed (s : State) (root : Bool) : State :=
        let s := s.modFab fun F => { F with reqs := F.reqs.map fun r =>
          if r.owner == ⟨.fabric, q⟩ && r.what == 0x10 then { r with xid := noXfer } else r }
        let s := s.closeStep cl.job (fabArg c.word)
        let s := if root then s.takeRelease cl.job (fabGroup c.word) s.actingNode (fabArg c.word) else s
        s.completeCmd ⟨.fabric, q⟩ none
      match s.groupOf cl.job (fabGroup c.word) with
      | .ok l => closed s (s.isMe (rootOf l))
      | .fail _ _ => closed s false
      | .far n a m => s.fetchFar cl.job n a m
      | .wait => s

/-- Runs STEP_RELEASE: it issues once the step's result has come and every COMMIT and EXPORT of the step has completed; the gradients of
a step whose COMMIT failed its last replay stay held (R265, R339; DEDUCED, log 86). -/
def runStepRelease (s : State) (c : QCmd) (cl : Clause) (_ : Option HwFault) : Run :=
  let n := fabArg c.word
  decoded s (stepChecks c.word)
    (match s.stepOf cl.job n with
     | none => Run.refuse s 0x13 (badStep n)
     | some t =>
       onAcc s cl.job (s.groupOf cl.job (fabGroup c.word)) fun l =>
         let open' := s.clauses.any fun e => e.job == cl.job && e.step == some n && e.cls == .update && e.keeps
         if beforeResult t ∨ open' ∨ t.stuck then .wait
         else
           let s := s.began cl.seq
           let root := rootOf l
           .busy (if s.isMe root then s
                  else s.request 0x10 cl.job ⟨.fabric, cl.unit⟩ 0 root (2 ^ 48 * root) (fabGroup c.word) 0 (padTo 16 (leBytes 8 n)))
             { progress := 0, pos := 0, waits := [] })

/-- STEP_RELEASE (R339). -/
def execStepRelease (q : Nat) (s : State) : Host.Outcome State Fault Refusal :=
  finish s ((s.issue ⟨.fabric, q⟩ (isFab 0x73 0) none runStepRelease).releaseGoOn q)

/-- A member's RELEASE arrives at the root (R339). -/
def releaseFrame (f : Frame) (s : State) : State :=
  match s.inbound 0x10 f with
  | (none, s) => s
  | (some (j, g), s) => s.groupIn j 0x10 g none

/-- RELEASE (R339). -/
def execRelease (f : Frame) (s : State) : Host.Outcome State Fault Refusal := finish s (releaseFrame f s)

/-- A member records the group's release floor and relays it (R330, R339). -/
def releaseFloor (f : Frame) (s : State) : State :=
  match s.inbound 0x11 f with
  | (none, s) => s
  | (some (j, g), s) => s.groupIn j 0x11 g none

/-- RELEASE_FLOOR (R339). -/
def execReleaseFloor (f : Frame) (s : State) : Host.Outcome State Fault Refusal := finish s (releaseFloor f s)

/-- The wait of a COMMIT for a release floor has lasted release_timeout: the previous versions it waited for are discarded
(R340). -/
def releaseTimeout (sl : Nat) (s : State) : State :=
  match s.headOf ⟨.update, sl⟩ with
  | none => s
  | some (c, cl) =>
    if cb c.word 0 1 ≠ 0x60 then s
    else (s.fab.shards.filter fun x => x.job == cl.job && x.pset == cb c.word 4 1 && x.waiting).foldl (fun s x =>
      (s.bump (K.retainDrops x.job) 1).modShard x fun y => { y with prev := none, waiting := false }) s

/-- RELEASE_TIMEOUT (R340). -/
def execReleaseTimeout (sl : Nat) (s : State) : Host.Outcome State Fault Refusal := finish s (releaseTimeout sl s)

end Sys2Proof.Machine
end

