-- ==== Sys2Proof/Machine/Collect.lean ====
section
/-! DEFINITION. Collectives (R331 to R335): ragged-count tables, the exchange of declarations, contributions, reductions
formed on one member each, and the placing of results. The kinds of COLL_DATA frames are log 33. -/

namespace Sys2Proof.Machine

/-! ### Ragged-count tables (R332) -/

/-- A table's fields: where results go, the root's rank, total, the entries' offsets and counts, and for ALL_TO_ALL the
receiving side's. -/
structure Ragged where
  dst   : Nat
  root  : Nat
  total : Nat
  offs  : List Nat
  cnts  : List Nat
  roffs : List Nat
  rcnts : List Nat
  deriving DecidableEq, Repr

/-- The elements in a row that an offset or a count must be a whole number of (R331). -/
def raggedUnit (f : Nat) : Nat := if f = fmBit then 8 else if f = fmI4 then 2 else 1

/-- The first entry whose offset is not the sum of the counts before it. -/
def gapIn : Nat → List (Nat × Nat) → Option Nat
  | _, [] => none
  | at', (o, n) :: t => if o ≠ at' then some o else gapIn (at' + n) t

/-- The first value of a table that breaks R332. -/
def raggedBad (op f arg m : Nat) (h : List Byte) (T : Ragged) : Option Nat :=
  if nb h 8 2 ≠ m then some (nb h 8 2)
  else if T.root ≥ m then some T.root
  else match (h.drop 12).zipIdx.find? fun x => x.1 != 0 && !(4 ≤ x.2 && x.2 < 12) with
    | some x => some x.1.toNat
    | none =>
      match (T.offs ++ T.cnts ++ T.roffs ++ T.rcnts).find? fun v => v % raggedUnit f != 0 with
      | some v => some v
      | none =>
        if op = 1 ∨ op = 2 then
          match gapIn 0 (T.offs.zip T.cnts) with
          | some o => some o
          | none => if T.cnts.sum ≠ T.total then some T.total else if op = 1 ∧ arg ≠ T.total then some arg else none
        else none

/-- The table of a collective; an ALL_REDUCE without one works in place. -/
def State.raggedOf (s : State) (j w m : Nat) : Acc Ragged :=
  let op := fabOp w
  if op = 0 ∧ fabDesc w = 0 then
    .ok { dst := fabLocal w, root := 0, total := 0, offs := [], cnts := [], roffs := [], rcnts := [] }
  else
    let e := if op = 5 then 32 else 16
    accBind (s.readVa j (fabDesc w) 64) fun h =>
    accBind (s.readVa j (fabDesc w + 64) (e * m)) fun b =>
      let col (k : Nat) : List Nat := (List.range m).map fun i => nb b (e * i + 8 * k) 8
      let T : Ragged := { dst := nb h 0 8, root := nb h 10 2, total := nb h 16 8, offs := col 0, cnts := col 1
                          roffs := if op = 5 then col 2 else [], rcnts := if op = 5 then col 3 else [] }
      match raggedBad op (fabFmt w) (fabArg w) m h T with
      | some v => .fail 0x04 v
      | none => .ok T

/-! ### Who forms and who receives what -/

/-- Elements that rank `r` of `m` forms of a reduction: first and count. An ALL_REDUCE is split evenly. -/
def formedBy (op arg m : Nat) (T : Ragged) (r : Nat) : Nat × Nat :=
  match op with
  | 0 => (r * (arg / m) + min r (arg % m), arg / m + (if r < arg % m then 1 else 0))
  | 1 => (T.offs.getD r 0, T.cnts.getD r 0)
  | 4 => (0, if r = T.root then arg else 0)
  | _ => (0, 0)

/-- Elements of its source that rank `me` sends unreduced to rank `r`: first and count. -/
def sentTo (op arg : Nat) (T : Ragged) (me r : Nat) : Nat × Nat :=
  match op with
  | 2 => (0, T.cnts.getD me 0)
  | 3 => (0, if me = T.root then arg else 0)
  | 5 => (T.offs.getD r 0, T.cnts.getD r 0)
  | _ => (0, 0)

/-- Elements that rank `me` receives from rank `r` for its destination: the first element's place there and the count. -/
def placedFrom (op arg m : Nat) (T : Ragged) (me r : Nat) : Nat × Nat :=
  match op with
  | 0 => formedBy 0 arg m T r
  | 1 => (0, if r = me then T.cnts.getD me 0 else 0)
  | 2 => (T.offs.getD r 0, T.cnts.getD r 0)
  | 3 => (0, if r = T.root then arg else 0)
  | 4 => (0, if r = me ∧ me = T.root then arg else 0)
  | _ => (T.roffs.getD r 0, T.rcnts.getD r 0)

/-- One reduced element of every member's element (R61, R334): its code, OVERFLOW and NONFINITE. -/
def reduceElem (f red seed i : Nat) (cs : List Nat) : Nat × Bool × Bool :=
  if f = fmI32 ∨ f = fmI64 then
    let xs := cs.map (toSigned (fmtBits f))
    let v := match red with
      | 0 => xs.foldl (· + ·) 0
      | 1 => xs.foldl max (xs.headD 0)
      | _ => xs.foldl min (xs.headD 0)
    (ofSigned (fmtBits f) v, false, false)
  else
    let xs := cs.map (decodeNum f)
    match red with
    | 0 =>
      let r := sumTerms f false seed i xs
      let c := near f r.1
      (c.code, r.2, nonfinite f c.code)
    | 1 => let c := near f (xs.foldl Num.max (xs.headD zeroNum)); (c.code, false, nonfinite f c.code)
    | _ => let c := near f (xs.foldl Num.min (xs.headD zeroNum)); (c.code, false, nonfinite f c.code)

/-- A reduction of `n` elements over the members' runs: bytes, OVERFLOW, NONFINITE. -/
def reduceRun (f red seed n : Nat) (parts : List (List Byte)) : List Byte × Bool × Bool :=
  let r := (List.range n).map fun i => reduceElem f red seed i (parts.map fun p => elemAt f p i)
  (packElems f (r.map (·.1)), r.any (·.2.1), r.any (·.2.2))

/-! ### The exchange (R333) -/

/-- What a member declares: op, fmt, red_op, arg, total and its count entries. -/
def declOf (w : Nat) (T : Ragged) : List Nat :=
  [fabOp w, fabFmt w, fabRed w, fabArg w, T.total] ++ T.cnts ++ T.rcnts

/-- Whether two members' declarations agree; for ALL_TO_ALL the counts between each pair do. `a` and `b` are ranks. -/
def declsAgree (m a b : Nat) (x y : List Nat) : Bool :=
  if x.headD 9 = 5 ∧ y.headD 9 = 5 then
    x.take 5 == y.take 5 && x.length == y.length &&
      (x.getD (5 + b) 0 == y.getD (5 + m + a) 0) && (y.getD (5 + a) 0 == x.getD (5 + m + b) 0)
  else x == y

/-- A declaration's bytes. -/
def declBytes (l : List Nat) : List Byte := leBytes 8 l.length ++ l.flatMap (leBytes 8)

/-- A declaration read back. -/
def declRead (b : List Byte) : List Nat := (List.range (nb b 0 8)).map fun i => nb b (8 + 8 * i) 8

/-- The entry of a node for a group's collective. -/
def State.collOf (s : State) (j g seq node : Nat) : Option CollIn :=
  s.fab.coll.find? fun x => x.job == j && x.group == g && x.seq == seq && x.node == node

/-- The state with a node's entry changed. -/
def State.modColl (s : State) (j g seq node : Nat) (f : CollIn → CollIn) : State :=
  let mine (x : CollIn) : Bool := x.job == j && x.group == g && x.seq == seq && x.node == node
  s.modFab fun F =>
    let l := if F.coll.any mine then F.coll.map fun x => if mine x then f x else x
      else F.coll ++ [f { job := j, group := g, seq := seq, node := node, decl := none, part := none, final := none }]
    { F with coll := l }

/-- Sends COLL_DATA of a kind (0 declaration, 1 contribution, 2 result) to a member. -/
def State.sendColl (s : State) (q j g seq node kind : Nat) (bs : List Byte) : State :=
  (if kind = 0 then s else s.count 0x51 0x14 (ceilDiv bs.length 64) (some j)).request 0x0D j ⟨.fabric, q⟩ 0 node (2 ^ 48 * node + kind * 65536 + g) seq 0 bs

/-- What a collective in execution works with: its group's members, its table and its number in the group. -/
structure Coll where
  j   : Nat
  w   : Nat
  l   : List Nat
  T   : Ragged
  seq : Nat

/-- This module's rank. -/
def State.collRank (s : State) (C : Coll) : Nat := rankOf C.l s.actingNode

/-- The declared list of rank `r`, this module's own included. -/
def State.declAt (s : State) (C : Coll) (r : Nat) : Option (List Nat) :=
  if r = s.collRank C then some (declOf C.w C.T)
  else (s.collOf C.j (fabGroup C.w) C.seq (C.l.getD r 0)).bind (·.decl)

/-- Whether the declarations that have come disagree. -/
def State.collMismatch (s : State) (C : Coll) : Bool :=
  let ds := (List.range C.l.length).filterMap fun r => (s.declAt C r).map fun d => (r, d)
  ds.any fun x => ds.any fun y => !declsAgree C.l.length x.1 y.1 x.2 y.2

/-- Bytes of `n` elements from element `i`. -/
def elemRun (f i n : Nat) : Nat × Nat := (i * fmtBits f / 8, packedBytes f n)

/-- A run of this member's source. -/
def State.collSource (s : State) (C : Coll) (i n : Nat) : Acc (List Byte) :=
  let r := elemRun (fabFmt C.w) i n
  s.unitRead C.j (fabLocal C.w + r.1) r.2

/-- Contributions depart: to each rank the elements it forms, or the elements it receives unreduced (R331). -/
def State.collSend (s : State) (q : Nat) (C : Coll) : List Nat → Acc State
  | [] => .ok s
  | r :: rs =>
    let me := s.collRank C
    let m := C.l.length
    let g := fabGroup C.w
    let node := C.l.getD r 0
    let op := fabOp C.w
    let a := formedBy op (fabArg C.w) m C.T r
    let b := sentTo op (fabArg C.w) C.T me r
    let red := op = 0 ∨ op = 1 ∨ op = 4
    let x := if red then a else b
    if x.2 = 0 then s.collSend q C rs
    else
      accBind (s.collSource C x.1 x.2) fun bs =>
        let s := s.didRead C.j (fabLocal C.w + (elemRun (fabFmt C.w) x.1 x.2).1) bs.length
        let s := if r = me then
            s.modColl C.j g C.seq node fun y => if red then { y with part := some bs } else { y with final := some bs }
          else s.sendColl q C.j g C.seq node (if red then 1 else 2) bs
        s.collSend q C rs

/-- Forms this member's elements once every contribution is here, and sends them to every member that receives them
(R334). None while one is missing. -/
def State.collForm (s : State) (q : Nat) (cl : Clause) (C : Coll) : Option State :=
  let me := s.collRank C
  let m := C.l.length
  let g := fabGroup C.w
  let f := fabFmt C.w
  let x := formedBy (fabOp C.w) (fabArg C.w) m C.T me
  if x.2 = 0 then some s
  else
    let parts := C.l.map fun n => (s.collOf C.j g C.seq n).bind (·.part)
    if parts.any (·.isNone) then none
    else
      let r := reduceRun f (fabRed C.w) s.free x.2 (parts.map fun p => p.getD [])
      let s := s.raise cl.seq r.2.1 r.2.2
      let s := s.modColl C.j g C.seq (C.l.getD me 0) fun y => { y with final := some r.1 }
      some (if fabOp C.w = 0 then
        (C.l.filter fun n => n != C.l.getD me 0).foldl (fun s n => s.sendColl q C.j g C.seq n 2 r.1) s
      else s)

/-- Whether every result this member receives is here. -/
def State.collHere (s : State) (C : Coll) : Bool :=
  let me := s.collRank C
  let m := C.l.length
  (List.range m).all fun r =>
    (placedFrom (fabOp C.w) (fabArg C.w) m C.T me r).2 == 0 ||
      ((s.collOf C.j (fabGroup C.w) C.seq (C.l.getD r 0)).bind (·.final)).isSome

/-- Results placed at dst. -/
def State.collPlace (s : State) (q : QueueId) (cl : Clause) (C : Coll) : List Nat → Piece
  | [] => .ok s
  | r :: rs =>
    let me := s.collRank C
    let x := placedFrom (fabOp C.w) (fabArg C.w) C.l.length C.T me r
    if x.2 = 0 then s.collPlace q cl C rs
    else
      let e := elemRun (fabFmt C.w) x.1 x.2
      let bs := ((s.collOf C.j (fabGroup C.w) C.seq (C.l.getD r 0)).bind (·.final)).getD []
      match s.landPiece q cl 0 (C.T.dst + e.1) (padTo e.2 bs) with
      | .ok t => t.collPlace q cl C rs
      | .out t => t.collPlace q cl C rs
      | .stop a d => .stop a d
      | .hold t x => .hold t x

/-- The entries of a collective that is over leave. -/
def State.collDrop (s : State) (j g seq : Nat) : State :=
  s.modFab fun F => { F with coll := F.coll.filter fun x => !(x.job == j && x.group == g && x.seq == seq) }

/-- The last phase: results are placed, and the command completes when nothing it sent is outstanding. -/
def State.collEnd (s : State) (q : Nat) (c : QCmd) (cl : Clause) (C : Coll) (placed waited : Bool) : State :=
  let qq : QueueId := ⟨.fabric, q⟩
  let fin (s : State) : State :=
    if s.reqsOf qq = [] then (s.collDrop C.j (fabGroup C.w) C.seq).completeCmd qq none
    else s.modQueue qq fun Q => { Q with infl := some { progress := 0, pos := 4 * C.seq + 3, waits := [] } }
  if placed then fin s
  else if s.collHere C then
    match s.collPlace qq cl C (List.range C.l.length) with
    | .ok t => fin t
    | .out t => fin t
    | .stop r d => s.haltCmd qq c cl r d 0 (4 * C.seq + 2) cl.begun
    | .hold t x =>
      let y := match x with | some a => t.countWait C.j a waited | none => (t, waited)
      y.1.modQueue qq fun Q => { Q with infl := some { progress := 0, pos := 4 * C.seq + 2, waits := [], waited := y.2 } }
  else s

/-- A collective in execution goes on: a mismatch halts it; once every member has declared, its contributions depart, its
elements are formed, and results are placed (R331 to R334). Phases: 0 declared, 1 contributed, 2 formed, 3 placed. -/
def State.collGoOn (s : State) (q : Nat) : State :=
  match s.fabRun q with
  | none => s
  | some (c, cl, f) =>
    if cb c.word 0 1 ≠ 0x70 then s
    else
      let qq : QueueId := ⟨.fabric, q⟩
      let g := fabGroup c.word
      let seq := f.pos / 4
      match s.groupOf cl.job g with
      | .ok l => match s.raggedOf cl.job c.word l.length with
        | .ok T =>
          let C : Coll := { j := cl.job, w := c.word, l := l, T := T, seq := seq }
          let phase (s : State) (p : Nat) : State :=
            s.modQueue qq fun Q => { Q with infl := some { f with pos := 4 * seq + p } }
          let form (s : State) : State :=
            match s.collForm q cl C with
            | none => phase s 1
            | some t => (phase t 2).collEnd q c cl C false false
          if f.pos % 4 = 0 then
            if s.collMismatch C then (s.collDrop cl.job g seq).haltCmd qq c cl 0x43 g 0 f.pos false
            else if (List.range l.length).all fun r => (s.declAt C r).isSome then
              match s.collSend q C (List.range l.length) with
              | .ok t => form t
              | .fail r d => (s.collDrop cl.job g seq).haltCmd qq c cl r d 0 f.pos false
              | .far n a x => s.fetchFar cl.job n a x
              | .wait => s
            else s
          else if f.pos % 4 = 1 then form s
          else s.collEnd q c cl C (f.pos % 4 == 3) f.waited
        | .fail r d => (s.collDrop cl.job g seq).haltCmd qq c cl r d 0 f.pos cl.begun
        | .far n a x => s.fetchFar cl.job n a x
        | .wait => s
      | .fail r d => (s.collDrop cl.job g seq).haltCmd qq c cl r d 0 f.pos cl.begun
      | .far n a x => s.fetchFar cl.job n a x
      | .wait => s

/-! ### Issue -/

/-- Whether a reduction operator goes with an op and a format (R334). -/
def redOk (op f red : Nat) : Bool :=
  if op = 0 ∨ op = 1 ∨ op = 4 then
    (red == 0 && (f == fmF32 || f == fmW48 || f == fmI32 || f == fmI64)) ||
      ((red == 1 || red == 2) && (isWide f || f == fmI32 || f == fmI64))
  else red == 0 && f ≤ 10

/-- The decode checks of COLLECTIVE. -/
def collChecks (w : Nat) : List (Bool × Nat × Nat) :=
  [ (reservedSet w [(0, 8), (32, 8), (40, 8), (48, 16), (64, 64), (128, 64), (192, 64)], 0x02, 0),
    (!redOk (fabOp w) (fabFmt w) (fabRed w), 0x03, fabFmt w),
    (fabArg w % raggedUnit (fabFmt w) != 0, 0x04, fabArg w),
    (fabLocal w % alignOf (fabFmt w) != 0, 0x09, fabLocal w) ]

/-- Joins a collective: the nth of its group (R331). -/
def runCollective (s : State) (c : QCmd) (cl : Clause) (_ : Option HwFault) : Run :=
  let g := fabGroup c.word
  let j := cl.job
  decoded s (collChecks c.word)
    (onAcc s j (s.groupOf j g) fun l =>
     onAcc s j (s.raggedOf j c.word l.length) fun T =>
     if T.dst % alignOf (fabFmt c.word) ≠ 0 then Run.refuse s 0x09 T.dst
     else if c.again then .busy s { progress := 0, pos := c.pos, waits := [] }
     else
       let seq := cellGet 0 g (s.job j).collSeq
       let s := s.modJob j fun x => { x with collSeq := cellPut 0 g (seq + 1) x.collSeq }
       let s := (l.filter fun n => !s.isMe n).foldl (fun s n => s.sendColl cl.unit j g seq n 0 (declBytes (declOf c.word T))) s
       .busy s { progress := 0, pos := 4 * seq, waits := [] })

/-- ALL_REDUCE (R331). -/
def execAllReduce (q : Nat) (s : State) : Host.Outcome State Fault Refusal :=
  finish s ((s.issue ⟨.fabric, q⟩ (isFab 0x70 0) none runCollective).collGoOn q)

/-- REDUCE_SCATTER (R331). -/
def execReduceScatter (q : Nat) (s : State) : Host.Outcome State Fault Refusal :=
  finish s ((s.issue ⟨.fabric, q⟩ (isFab 0x70 1) none runCollective).collGoOn q)

/-- ALL_GATHER (R331). -/
def execAllGather (q : Nat) (s : State) : Host.Outcome State Fault Refusal :=
  finish s ((s.issue ⟨.fabric, q⟩ (isFab 0x70 2) none runCollective).collGoOn q)

/-- BROADCAST (R331). -/
def execBroadcast (q : Nat) (s : State) : Host.Outcome State Fault Refusal :=
  finish s ((s.issue ⟨.fabric, q⟩ (isFab 0x70 3) none runCollective).collGoOn q)

/-- REDUCE (R331). -/
def execReduce (q : Nat) (s : State) : Host.Outcome State Fault Refusal :=
  finish s ((s.issue ⟨.fabric, q⟩ (isFab 0x70 4) none runCollective).collGoOn q)

/-- ALL_TO_ALL (R331). -/
def execAllToAll (q : Nat) (s : State) : Host.Outcome State Fault Refusal :=
  finish s ((s.issue ⟨.fabric, q⟩ (isFab 0x70 5) none runCollective).collGoOn q)

/-! ### COLL_DATA and the timeout -/

/-- Elements or a declaration of a member arrive and are acknowledged (R334); those of a collective that has ended here are
only acknowledged. -/
def collData (f : Frame) (s : State) : State :=
  match s.inbound 0x0D f with
  | (none, s) => s
  | (some (j, g), s) =>
    let grp := g.addr % 65536
    let kind := bits g.addr 16 2
    let seq := g.arg
    let s := s.reply g 0x04 0 0 []
    let here := (List.range 16).find? fun q => match s.fabRun q with
      | some (c, cl, x) => cl.job == j && cb c.word 0 1 == 0x70 && fabGroup c.word == grp && x.pos / 4 == seq
      | none => false
    if here.isNone && seq < cellGet 0 grp (s.job j).collSeq then s
    else
      let s := s.modColl j grp seq g.acting fun y => match kind with
        | 0 => { y with decl := some (declRead g.payload) }
        | 1 => { y with part := some g.payload }
        | _ => { y with final := some g.payload }
      match here with
      | some q => s.collGoOn q
      | none => s

/-- COLL_DATA (R334). -/
def execCollData (f : Frame) (s : State) : Host.Outcome State Fault Refusal := finish s (collData f s)

/-- A member has not joined within coll_timeout: the joined member halts with the lowest missing node (R335). -/
def collTimeout (q : Nat) (s : State) : State :=
  match s.fabRun q with
  | none => s
  | some (c, cl, f) =>
    if cb c.word 0 1 ≠ 0x70 ∨ f.pos % 4 ≠ 0 then s
    else
      let g := fabGroup c.word
      match s.groupOf cl.job g with
      | .ok l =>
        match l.find? fun n => !s.isMe n && ((s.collOf cl.job g (f.pos / 4) n).bind (·.decl)).isNone with
        | some n => (s.collDrop cl.job g (f.pos / 4)).haltCmd ⟨.fabric, q⟩ c cl 0x41 n 0 f.pos false
        | none => s
      | _ => s

/-- COLL_TIMEOUT (R335). -/
def execCollTimeout (q : Nat) (s : State) : Host.Outcome State Fault Refusal := finish s (collTimeout q s)

end Sys2Proof.Machine
end

