-- ==== Sys2Proof/Machine/Gather.lean ====
section
/-! DEFINITION. Shards and the two-version rule (R336 to R341): SHARD_GATHER at the reader, GATHER_REQ at the owner. -/

namespace Sys2Proof.Machine

/-! ### Gather descriptors (R336) -/

/-- A shard entry of a gather descriptor. -/
structure GShard where
  first  : Nat
  elems  : Nat
  owner  : Nat
  shard  : Nat
  retain : Nat
  deriving DecidableEq, Repr

/-- A gather descriptor. -/
structure Gather where
  pset   : Nat
  fmt    : Nat
  group  : Nat
  ver    : Nat
  shards : List GShard
  deriving DecidableEq, Repr

/-- The first fault of a list of shard entries: an entry that is not contiguous, empty, or not at a multiple of 256. -/
def gatherBad : Option Nat → List GShard → Option Nat
  | _, [] => none
  | at', e :: t =>
    if e.first % 256 ≠ 0 ∨ at'.getD e.first ≠ e.first then some e.first
    else if e.elems = 0 then some 0
    else gatherBad (some (e.first + e.elems)) t

/-- A gather descriptor, checked: reserved bytes are RESERVED_NONZERO, a format that is no work_fmt FORMAT_UNSUPPORTED (R37, R255), any
other breach COUNT_OUT_OF_RANGE (DEDUCED, log 34). -/
def State.gatherOf (s : State) (j addr arg : Nat) : Acc Gather :=
  accBind (s.readVa j addr 64) fun h =>
    let n := nb h 0 4
    let fmt := nb h 5 1 % 16
    if nb h 5 1 / 16 ≠ 0 ∨ nb h 16 48 ≠ 0 then .fail 0x02 0
    else if n = 0 ∨ n > 16384 then .fail 0x04 n
    else if fmt > 2 then .fail 0x03 fmt
    else
      accBind (s.readVa j (addr + 64) (64 * n)) fun b =>
        let es := (List.range n).map fun i =>
          ({ first := nb b (64 * i) 8, elems := nb b (64 * i + 8) 8, owner := nb b (64 * i + 16) 2
             shard := nb b (64 * i + 20) 4, retain := nb b (64 * i + 24) 8 } : GShard)
        if (List.range n).any fun i => nb b (64 * i + 18) 2 != 0 || nb b (64 * i + 32) 32 != 0 then .fail 0x02 0
        else match gatherBad none es with
          | some v => .fail 0x04 v
          | none =>
            if (es.map (·.elems)).sum ≠ arg then .fail 0x04 arg
            else .ok { pset := nb h 4 1, fmt := fmt, group := nb h 6 2, ver := nb h 8 8, shards := es }

/-! ### The owner (R337, R338) -/

/-- What a reader asks of an owner: the op, its step and the epoch of the step before, the version wanted, and the shard as
the reader's descriptor gives it (log 35). -/
structure GAsk where
  job    : Nat
  op     : Nat
  step   : Nat
  prior  : Nat
  want   : Nat
  pset   : Nat
  fmt    : Nat
  group  : Nat
  sh     : GShard
  deriving DecidableEq, Repr

/-- Bytes of `n` elements of a format. -/
def gBytes (f n : Nat) : Nat := packedBytes f n

/-- The version of a shard that has not been served or committed here since reset: the epoch of its first row's record
(R337). -/
def State.firstVersion (s : State) (a : GAsk) : Acc Nat :=
  accBind (s.psetOf a.job a.pset 256 true) fun P =>
  accBind (s.readVa a.job (P.recAddr (a.sh.first / 256)) 8) fun b => .ok (leNat b)

/-- The shard of an ask. -/
def State.shardFor (s : State) (a : GAsk) : Option Shard :=
  s.fab.shards.find? fun x => x.job == a.job && x.pset == a.pset && x.shard == a.sh.shard

/-- The shard an ask names, known to its owner from now on as the latest ask describes it (log 35). -/
def State.knowShard (s : State) (a : GAsk) : Acc State :=
  match s.shardFor a with
  | some x => .ok (s.modShard x fun y => { y with
      first := a.sh.first, elems := a.sh.elems, retain := a.sh.retain, group := a.group, fmt := a.fmt
      prev := if a.sh.retain = y.retain then y.prev else none })
  | none =>
    accBind (s.firstVersion a) fun v =>
      let x : Shard := { job := a.job, pset := a.pset, shard := a.sh.shard, first := a.sh.first, elems := a.sh.elems
                         retain := a.sh.retain, group := a.group, fmt := a.fmt, current := v, prev := none, waiting := false }
      .ok (s.modFab fun F => { F with shards := F.shards ++ [x] })

/-- Whether a COMMIT command covers rows of elements of a set; one whose row-set descriptor cannot be read counts as covering them. -/
def State.commitCovers (s : State) (j p first elems : Nat) (c : QCmd) : Bool :=
  match s.rowSetOf j p (cb c.word 24 4) (cb c.word 16 8) with
  | .ok r => !r.sparse && overlap first elems (256 * r.first) (256 * cb c.word 24 4)
  | _ => true

/-- Whether a COMMIT of a set that covers some elements runs on this module: one that has its result and has not completed on every
slice. -/
def State.commitRunning (s : State) (j p first elems : Nat) : Bool :=
  s.slices.any fun x => x.queue.cmds.any fun c =>
    cb c.word 0 1 == 0x60 && cb c.word 4 1 == p && (match s.clause c.seq with
      | some cl => cl.job == j && (s.steps.any fun t => t.job == j && t.epoch == cb c.word 8 8 && t.state == .committing)
      | none => false) && s.commitCovers j p first elems c

/-- Whether an ask may be served now: a REFETCH always, a GATHER once the agreed epoch has reached the prior epoch and no
COMMIT of the set runs (R338). -/
def State.askReady (s : State) (a : GAsk) : Bool :=
  a.op == 1 || (a.prior ≤ s.reg (K.agreedEpoch a.job) && !s.commitRunning a.job a.pset a.sh.first a.sh.elems)

/-- The version served: what is asked for where the owner holds it, else the current one. -/
def versionFor (a : GAsk) (x : Shard) : Nat := if a.op = 1 ∧ x.prev = some a.want then a.want else x.current

/-- Records the highest step that a version was served to (R338). -/
def State.recordServed (s : State) (a : GAsk) (v : Nat) : State :=
  let mine (r : Served) : Bool := r.job == a.job && r.pset == a.pset && r.shard == a.sh.shard && r.version == v
  let old := ((s.fab.served.find? mine).map (·.highest)).getD 0
  s.modFab fun F => { F with served := F.served.filter (fun r => !mine r) ++
    [{ job := a.job, pset := a.pset, shard := a.sh.shard, version := v, highest := max old a.step, group := a.group }] }

/-- The bytes of the version an ask of a known shard is served: the working copy for the current version, the retain area for the
previous. A retain area with an uncorrectable error holds no previous version (R341). -/
def State.serveShard (s : State) (a : GAsk) : Acc (State × Nat × List Byte) :=
  match s.shardFor a with
  | none => .wait
  | some x =>
    if s.askReady a = false then .wait
    else
      accBind (s.psetOf a.job a.pset 256 true) fun P =>
        let n := gBytes a.fmt a.sh.elems
        let give (s : State) (v src : Nat) : Acc (State × Nat × List Byte) :=
          accBind (s.unitRead a.job src n) fun b => .ok (((s.translate .fabric a.job src n).didRead a.job src n).recordServed a v, v, b)
        let now (s : State) : Acc (State × Nat × List Byte) := give s x.current (P.work + gBytes a.fmt a.sh.first)
        let v := versionFor a x
        if v = x.current then now s
        else match give s v x.retain with
          | .fail 0x30 _ => now (s.modShard x fun y => { y with prev := none })
          | r => r

/-! ### The reader (R336, R338, R341) -/

/-- The epoch of the step before step `n` of a job: of the older open step, or of the last result before it. -/
def State.priorEpoch (s : State) (j n : Nat) : Nat :=
  match s.steps.find? fun t => t.job == j && t.number < n with
  | some t => t.epoch
  | none =>
    let mine := match s.stepOf j n with | some t => t.epoch | none => 2 ^ 64
    ((s.lastRecords j).map fun r => nb r 8 8).foldl (fun a e => if e < mine then max a e else a) 0

/-- The ask for shard `i` of a gather. -/
def State.askFor (s : State) (c : QCmd) (cl : Clause) (G : Gather) (e : GShard) (want : Nat) : GAsk where
  job := cl.job
  op := fabOp c.word
  step := cl.step.getD 0
  prior := s.priorEpoch cl.job (cl.step.getD 0)
  want := want
  pset := G.pset
  fmt := G.fmt
  group := G.group
  sh := e

/-- The payload of a GATHER_REQ. -/
def askBytes (a : GAsk) : List Byte :=
  leBytes 8 a.step ++ leBytes 8 a.prior ++ leBytes 8 a.want ++ leBytes 8 a.sh.first ++ leBytes 8 a.sh.elems ++
    leBytes 8 a.sh.retain ++ leBytes 1 a.pset ++ leBytes 1 a.fmt ++ leBytes 2 a.group ++ leBytes 1 a.op ++ zeros 11

/-- The ask in a GATHER_REQ. -/
def askRead (j shard owner : Nat) (b : List Byte) : GAsk where
  job := j
  op := nb b 52 1
  step := nb b 0 8
  prior := nb b 8 8
  want := nb b 16 8
  pset := nb b 48 1
  fmt := nb b 49 1
  group := nb b 50 2
  sh := { first := nb b 24 8, elems := nb b 32 8, owner := owner, shard := shard, retain := nb b 40 8 }

/-- A shard served to this reader: its bytes, then its version, are written; a REFETCH that found no such version halts, or
goes on with the version served, as skew_policy says (R341). -/
def State.takeShard (s : State) (q : QueueId) (c : QCmd) (cl : Clause) (G : Gather) (i want v : Nat) (b : List Byte) : Piece :=
  let e := G.shards.getD i { first := 0, elems := 0, owner := 0, shard := 0, retain := 0 }
  let skew := fabOp c.word = 1 ∧ v ≠ want
  if skew ∧ s.reg (K.skewPolicy cl.job) = 0 then .stop 0x40 e.shard
  else
    let first := (G.shards.headD e).first
    match s.landPiece q cl i (fabLocal c.word + gBytes G.fmt (e.first - first)) (padTo (gBytes G.fmt e.elems) b) with
    | .stop r d => .stop r d
    | .hold t x => .hold t x
    | .ok t | .out t =>
      match t.landPiece q cl i (G.ver + 8 * i) (leBytes 8 v) with
      | .stop r d => .stop r d
      | .hold _ x => .hold s x
      | .ok u | .out u =>
        if skew then .ok ((u.bump (K.versionSkews cl.job) 1).postJob cl.job 0x06 (leBytes 4 e.shard ++ zeros 4 ++ leBytes 8 want ++ leBytes 8 v)) else .ok u

/-- The version a REFETCH asks for shard `i`, read from ver_base. -/
def State.wanted (s : State) (c : QCmd) (cl : Clause) (G : Gather) (i : Nat) : Acc Nat :=
  if fabOp c.word = 1 then accBind (s.readVa cl.job (G.ver + 8 * i) 8) fun b => .ok (leNat b) else .ok 0

/-- How a run over the shards ends: the set of shards done as a bit mask, a halt, and the address of a write that waits. -/
structure GatherOut where
  state : State
  mask  : Nat
  stop  : Option (Nat × Nat)
  at'   : Option Nat

/-- Asks for shard `i`, or serves it where this module owns it. -/
def State.gatherOne (s : State) (q : QueueId) (c : QCmd) (cl : Clause) (G : Gather) (o : GatherOut) (i : Nat) : GatherOut :=
  let e := G.shards.getD i { first := 0, elems := 0, owner := 0, shard := 0, retain := 0 }
  if o.stop.isSome || bit o.mask i || (s.reqsOf q).any (fun r => r.xid == i) then o
  else match s.wanted c cl G i with
    | .fail r d => { o with stop := some (r, d) }
    | .far n a l => { o with state := s.fetchFar cl.job n a l }
    | .wait => o
    | .ok w =>
      let a := s.askFor c cl G e w
      if s.isMe e.owner then
        match s.knowShard a with
        | .ok s => match s.serveShard a with
          | .ok (t, v, b) => match t.takeShard q c cl G i w v b with
            | .ok u | .out u => { o with state := u, mask := setBit o.mask i true }
            | .stop r d => { o with state := t, stop := some (r, d) }
            | .hold _ x => { o with at' := x }
          | .fail r d => { o with stop := some (r, d) }
          | .far n x l => { o with state := s.fetchFar cl.job n x l }
          | .wait => { o with state := s }
        | .fail r d => { o with stop := some (r, d) }
        | .far n x l => { o with state := s.fetchFar cl.job n x l }
        | .wait => o
      else
        { o with state := s.request 0x12 cl.job q i e.owner (2 ^ 48 * e.owner) e.shard 0 (askBytes a) }

/-- The reason and detail of a refused response. -/
def refusalOf (r : Req) (f : Frame) : Nat × Nat :=
  (f.status % 256, if f.payload.length ≥ 8 then nb f.payload 0 8 else r.addr)

/-- Shards whose responses have come are taken. -/
def State.gatherLand (s : State) (q : QueueId) (c : QCmd) (cl : Clause) (G : Gather) (o : GatherOut) : GatherOut :=
  ((s.reqsOf q).filter fun r => r.what == 0x13).foldl (fun (o : GatherOut) r =>
    if o.stop.isSome then o
    else match (o.state.dropReq r.tag).takeShard q c cl G r.xid (nb r.data 8 8) (nb r.data 0 8) (r.data.drop 16) with
      | .ok u | .out u => { o with state := u, mask := setBit o.mask r.xid true }
      | .stop a d => { o with state := o.state.dropReq r.tag, stop := some (a, d) }
      | .hold _ x => { o with at' := x }) o

/-- Elements of the shards done. -/
def gatherDone (G : Gather) (mask : Nat) : Nat :=
  ((G.shards.zipIdx.filter fun x => bit mask x.2).map fun x => x.1.elems).sum

/-- A run over every shard of a gather. -/
def State.gatherRun (s : State) (q : QueueId) (c : QCmd) (cl : Clause) (G : Gather) (mask : Nat) (waited : Bool) : Run :=
  let o := s.gatherLand q c cl G { state := s, mask := mask, stop := none, at' := none }
  let o := (List.range G.shards.length).foldl (fun (o : GatherOut) i => o.state.gatherOne q c cl G o i) o
  match o.stop with
  | some (r, d) => .halt (if r = 0x40 then o.state.bump (K.versionSkews cl.job) 1 else o.state) r d (gatherDone G o.mask) o.mask (o.mask != 0 || cl.begun)
  | none =>
    if o.mask = 2 ^ G.shards.length - 1 ∧ o.state.reqsOf q = [] then .done o.state
    else
      let x := match o.at' with | some a => o.state.countWait cl.job a waited | none => (o.state, false)
      .busy x.1 { progress := gatherDone G o.mask, pos := o.mask, waits := [], waited := x.2 }

/-- The decode checks of SHARD_GATHER. -/
def gatherChecks (w : Nat) : List (Bool × Nat × Nat) :=
  [(reservedSet w [(0, 8), (32, 8), (48, 16), (64, 64), (128, 64), (192, 64)], 0x02, 0)]

/-- Runs SHARD_GATHER. A resumed command asks again for the shards that are not done. -/
def runGather (s : State) (c : QCmd) (cl : Clause) (_ : Option HwFault) : Run :=
  let q : QueueId := ⟨.fabric, cl.unit⟩
  let w := c.word
  decoded s (gatherChecks w)
    (onAcc s cl.job (s.groupOf cl.job (fabGroup w)) fun _ =>
     onAcc s cl.job (s.gatherOf cl.job (fabDesc w) (fabArg w)) fun G =>
     if fabLocal w % alignOf G.fmt ≠ 0 then Run.refuse s 0x09 (fabLocal w)
     else s.gatherRun q c cl G (if c.again then c.pos else 0) false)

/-- GATHER (R338). -/
def execGather (q : Nat) (s : State) : Host.Outcome State Fault Refusal :=
  finish s (s.issue ⟨.fabric, q⟩ (isFab 0x72 0) none runGather)

/-- REFETCH (R338). -/
def execRefetch (q : Nat) (s : State) : Host.Outcome State Fault Refusal :=
  finish s (s.issue ⟨.fabric, q⟩ (isFab 0x72 1) none runGather)

/-- A SHARD_GATHER in execution goes on. -/
def State.gatherGoOn (s : State) (q : Nat) : State :=
  match s.fabRun q with
  | none => s
  | some (c, cl, f) =>
    if cb c.word 0 1 ≠ 0x72 then s
    else match s.gatherOf cl.job (fabDesc c.word) (fabArg c.word) with
      | .ok G => s.fabSettle q c cl (s.gatherRun ⟨.fabric, q⟩ c cl G f.pos f.waited)
      | .far n a l => s.fetchFar cl.job n a l
      | .fail r d => s.fabSettle q c cl (.halt s r d f.progress f.pos (f.pos != 0 || cl.begun))
      | .wait => s

/-- Every SHARD_GATHER of this module goes on: one that waited for a COMMIT of this module may be served (R338). -/
def State.gathersGoOn (s : State) : State := (List.range 16).foldl (fun s q => s.gatherGoOn q) s

/-- COMMIT (R263). -/
def execCommit (sl : Nat) (m : SliceMet) (s : State) : Host.Outcome State Fault Refusal :=
  finish s (s.issue ⟨.update, sl⟩ (isOp 0x60) m.fault fun s c cl f =>
    runCommit (if c.again then s.resend ⟨.update, sl⟩ else s) c { cl with unit := sl } m.access f).gathersGoOn

/-- Whatever a fabric queue has in execution goes on. -/
def State.fabGoOn (s : State) (q : Nat) : State :=
  ((((s.remoteGoOn q).collGoOn q).gatherGoOn q).agreeGoOn q).releaseGoOn q

end Sys2Proof.Machine
end

