-- ==== Sys2Proof/Machine/Migration.lean ====
section
/-! DEFINITION. Migration of rows between the levels of a table: free slots (R176), row moves (R177 to R180), promotion from
the candidate queues (R174) and demotion by the sweep (R175). -/

namespace Sys2Proof.Machine

/-! ### Energy (R173, R296) -/

/-- Charges a job: the window's credit falls, and whole mJ are counted (R376, R384). -/
def State.chargeJob (s : State) (j n : Nat) : State :=
  let total := (s.job j).chargedNj + n
  let s := { s with gov := { s.gov with credit := s.gov.credit - n, charged := s.gov.charged + n } }
  (s.modJob j fun c => { c with chargedNj := total % 1000000 }).bump (K.chargedMj j) (total / 1000000)

/-- Whether a job's clauses wait for credits: migration for it waits behind them (R173, R296). -/
def State.creditsWanted (s : State) (j : Nat) : Bool := s.waiting.any (·.job == j)

/-- Whether the pool covers a move for a job after every clause that the job has waiting, as it covers a clause: of a row (kind 0) or
of a page (1) (R173, R296; log 87). -/
def State.drawsMove (s : State) (j kind : Nat) : Bool :=
  !s.creditsWanted j && (s.clauses == [] || decide ((Config.migrationNj kind : Int) ≤ s.gov.credit))

/-! ### Free slots (R176) -/

/-- The key of the descriptor of the table whose row a move moves. -/
def State.moveKey (s : State) (m : RowMove) : Nat := s.descKey m.job (s.reg (K.tableList m.job) + 64 * m.table)

/-- The slots of a level area that no valid map entry names and no row move holds; an entry that cannot be read names none
(DESIGN CHOICE, log 83). -/
def State.buildSlots (s : State) (j : Nat) (t : Table) (e : ShardE) (lv : Nat) : Acc (List Nat) :=
  let moves := s.mem.rowMoves.filter fun m => s.moveKey m == t.key
  let held := (moves.filter (·.level == lv)).map (·.slot) ++ (moves.filter (·.newLevel == lv)).map (·.newSlot)
  let named : Acc (List Nat) := (List.range e.rows).foldr (fun i acc =>
    match s.readVa j (e.map + 8 * i) 8, acc with
    | _, .far n a l => .far n a l
    | _, .wait => .wait
    | .ok b, .ok l => .ok (if mapOk t e (leNat b) && mapLevel (leNat b) == lv then mapSlot (leNat b) :: l else l)
    | .fail _ _, x => x
    | .far n a l, _ => .far n a l
    | .wait, _ => .wait
    | .ok _, .fail r d => .fail r d) (.ok held)
  accBind named fun l => .ok ((List.range (e.slots.getD lv 0)).filter fun x => !l.contains x)

/-- Whether a free-slot list is the one of a level area. -/
def isSlots (t : Table) (e : ShardE) (lv : Nat) (f : FreeSlots) : Bool := f.key == t.key && f.first == e.first && f.level == lv

/-- The free slots of a level area: its list, built now if it is not there yet. -/
def State.slotsOf (s : State) (j : Nat) (t : Table) (e : ShardE) (lv : Nat) : Acc (List Nat) :=
  match s.mem.freeSlots.find? (isSlots t e lv) with
  | some f => .ok f.slots
  | none => s.buildSlots j t e lv

/-- The state with a level area's free slots set. -/
def State.setSlots (s : State) (t : Table) (e : ShardE) (lv : Nat) (l : List Nat) : State :=
  s.modMem fun m => { m with freeSlots := m.freeSlots.filter (fun f => !isSlots t e lv f) ++
    [{ key := t.key, first := e.first, level := lv, slots := l }] }

/-- The free-slot lists of a descriptor forgotten; they are built again when a move needs them. -/
def State.dropSlots (s : State) (key : Nat) : State :=
  s.modMem fun m => { m with freeSlots := m.freeSlots.filter (·.key != key) }

/-- The free-slot lists of every table that a job's list names forgotten. -/
def State.dropListSlots (s : State) (j : Nat) : State :=
  (List.range (s.reg (K.tableCount j))).foldl (fun s n => s.dropSlots (s.descKey j (s.reg (K.tableList j) + 64 * n))) s

/-- Row migration waits for bytes of a run that rest elsewhere. -/
def State.wantRows (s : State) (j addr n : Nat) : State := (s.fetchRun j addr n).modMem fun m => { m with rowWant := true }

/-- The part of a run from an address that lies in its page. -/
def pagePart (addr n : Nat) : Nat := min n (65536 - addr % 65536)

/-- The free-slot lists of a table's own shards built, where they are not there yet (R176). -/
def State.listSlots (s : State) (j : Nat) (t : Table) : State :=
  if t.placement = 2 then s
  else (List.range t.shards).foldl (fun s i => match s.shardAt j t i with
    | .ok e => if s.owns t e then ([0, 1, 2].filter t.enabled).foldl (fun s lv =>
        if s.mem.freeSlots.any (isSlots t e lv) then s
        else match s.buildSlots j t e lv with
          | .ok l => s.setSlots t e lv l
          | .far _ _ _ => s.fetchRun j e.map (8 * e.rows)
          | _ => s) s
      else s
    | _ => s) s

/-! ### One row move (R177) -/

/-- The table of a job whose descriptor address has given low 32 bits. -/
def State.tableByAddr (s : State) (j a : Nat) : Option Nat :=
  (List.range (s.reg (K.tableCount j))).find? fun n => (s.reg (K.tableList j) + 64 * n) % 2 ^ 32 == a

/-- The fetches of the module in flight that name a slot of a row: those of the EEs, and, under number 16, those of the row server
(R121, R177 step 6). -/
def State.namingSlot (s : State) (t : Table) (row lv slot addr : Nat) : List (Nat × Nat) :=
  ((List.range 16).flatMap fun k => ((s.ee k).fetches.filter fun f =>
    f.stage = .row && f.desc == t.key && f.row == row && f.addr == addr).map fun f => (k, f.id)) ++
  (s.fab.pendReads.filter fun p => !p.vc0 && p.op == 0x09 && p.data != [] && nb p.frame.payload 0 8 == row &&
    mapLevel (leNat p.data) == lv && mapSlot (leNat p.data) == slot && match s.jobByKey p.frame.key with
      | some j => (match s.tableByAddr j p.frame.arg with
        | some n => s.descKey j (s.reg (K.tableList j) + 64 * n) == t.key
        | none => false)
      | none => false).map fun p => (16, p.id)

/-- The journal with a move's record changed. -/
def State.modRowMove (s : State) (m : RowMove) (f : RowMove → RowMove) : State :=
  s.modMem fun x => { x with rowMoves := x.rowMoves.map fun y => if y == m then f y else y }

/-- A slot given back to the list of its level area. -/
def State.freeSlot (s : State) (t : Table) (e : ShardE) (lv slot : Nat) : State :=
  s.modMem fun x => { x with freeSlots := x.freeSlots.map fun f => if isSlots t e lv f then { f with slots := f.slots ++ [slot] } else f }

/-- A move undone: the map entry with migrating 0 and its old level and slot, the new slot given back, the record removed (R179). -/
def State.undoRow (s : State) (m : RowMove) : State :=
  let s := match s.tableOf m.job m.table with
    | .ok t => (match s.shardOf m.job t m.row with
      | .ok (some e) =>
        let age := match s.readVa m.job (mapAddr e m.row) 8 with | .ok b => mapAge (leNat b) | _ => 0
        let s := match s.writeOutAs .core m.job (mapAddr e m.row) (leBytes 8 (mapEntry m.level false age m.gen m.slot)) with
          | .ok s => s
          | _ => s
        s.freeSlot t e m.newLevel m.newSlot
      | _ => s)
    | _ => s
  s.modMem fun x => { x with rowMoves := x.rowMoves.filter (· != m) }

/-- Steps 3 to 7 of a move: the master's encoding into the new slot, the map entry in one write, the caches (R177). Where memory cannot
be accessed now the move stays between steps 2 and 3; where a write is refused it is undone (DESIGN CHOICE, log 83). -/
def State.finishRow (s : State) (m : RowMove) : State :=
  match s.tableOf m.job m.table with
  | .far n a l => s.fetchFar m.job n a l
  | .ok t => match s.shardOf m.job t m.row, s.psetOf m.job t.pset t.dim false with
    | .ok (some e), .ok P =>
      let a := P.recAddr m.row
      match s.unitRead m.job (a + 16) (4 * t.dim) with
      | .ok b =>
        let xs := (elemsOf fmF32 b t.dim).map (decodeNum fmF32)
        let w := encodeRow (t.fmt m.newLevel) xs (s.sliceCv m.slice m.job P.rnd)
        let slot := slotAddr t e m.newLevel m.newSlot
        let s1 := (((s.translate (.slice m.slice) m.job (a + 16) (4 * t.dim)).didRead m.job (a + 16) (4 * t.dim)).translate
          (.slice m.slice) m.job slot w.1.length)
        match accBind (s1.writeOut m.job slot w.1) fun u =>
            u.writeOut m.job (mapAddr e m.row) (leBytes 8 (mapEntry m.newLevel false 0 ((m.gen + 1) % 256) m.newSlot)) with
        | .ok u =>
          let u := u.saveSliceCv m.slice m.job w.2
          let fetches := u.namingSlot t m.row m.level m.slot (slotAddr t e m.level m.slot)
          let u := (u.evictRow t.key m.row).modRowMove m fun y => { y with done := true, fetches := fetches }
          (u.count (0x30 + m.slice) 0x13 1 (some m.job)).bump (if m.newLevel < m.level then K.promotions else K.demotions) 1
        | .fail _ _ => s.undoRow m
        | _ => s
      | .fail _ _ => s.undoRow m
      | _ => s
    | _, _ => s
  | _ => s

/-- Moves between their steps 2 and 3 go on. -/
def State.rowMovesGoOn (s : State) : State := (s.mem.rowMoves.filter fun m => !m.done).foldl (fun s m => s.finishRow m) s

/-- Whether a row move holds the page of its row's master in tier 0 (R180). -/
def State.rowPinned (s : State) (j va : Nat) : Bool :=
  s.mem.rowMoves.any fun m => !m.done && m.job == j && va ≤ m.master && m.master < va + 65536

/-- Moves that a fault or a restart met are repaired from the journal: one that its map entry does not show is undone and counted, of any
other the row leaves the caches again (R179). -/
def State.repairRows (s : State) (hit : RowMove → Bool) : State :=
  (s.mem.rowMoves.filter hit).foldl (fun s m =>
    if m.done then match s.tableOf m.job m.table with | .ok t => s.evictRow t.key m.row | _ => s
    else (s.undoRow m).bump K.movesRepaired 1) s

/-- How an attempted move ends: begun; skipped for want of a slot or of the master in tier 0; impossible; or not now. -/
inductive Moved
  | made (s : State)
  | short
  | unable
  | later (s : State)

/-- Room left in this window for moves of a slice (R173). -/
def State.rowRoom (s : State) (sl : Nat) : Nat := s.reg K.rowMigrateBudget - cellGet 0 sl s.mem.rowsMoved

/-- Whether a slice may move a row now; one in Nap is not woken (R173). -/
def State.sliceAwake (s : State) (sl : Nat) : Bool := decide (s.powerOf (.slice sl) < 2) && s.sliceUp sl

/-- Steps 1 and 2 of a move of a row to a level: a free slot taken, the move journalled and drawn from the pool, the map entry with migrating
1; then what follows as far as memory lets it (R173, R177). -/
def State.moveRow (s : State) (j : Nat) (t : Table) (e : ShardE) (row v lv : Nat) : Moved :=
  match s.psetOf j t.pset t.dim false with
  | .far n a l => .later ((s.fetchFar j n a l).modMem fun m => { m with rowWant := true })
  | .wait => .later s
  | .fail _ _ => .unable
  | .ok P =>
    let a := P.recAddr row
    match s.rowSlice j a with
    | none => .short
    | some sl =>
      if s.rowRoom sl = 0 ∨ s.sliceAwake sl = false ∨ s.drawsMove j 0 = false then .later s
      else match s.slotsOf j t e lv with
        | .far _ _ _ => .later (s.wantRows j e.map (8 * e.rows))
        | .ok (slot :: rest) =>
          let s1 := match s.leafOf j (a % 2 ^ 48) with
            | some l => s.keepInTier0 l.job l.va
            | none => s
          let m : RowMove := { job := j, table := t.num, row := row, level := mapLevel v, slot := mapSlot v, newLevel := lv, newSlot := slot,
                               gen := mapGen v, slice := sl, master := a % 2 ^ 48, done := false, fetches := [] }
          match s1.writeOut j (mapAddr e row) (leBytes 8 (mapEntry (mapLevel v) true (mapAge v) (mapGen v) (mapSlot v))) with
          | .ok u =>
            let u := (u.setSlots t e lv rest).chargeJob j (Config.migrationNj 0)
            .made ((u.modMem fun x => { x with
              rowMoves := x.rowMoves ++ [m]
              rowsMoved := cellPut 0 sl (cellGet 0 sl x.rowsMoved + 1) x.rowsMoved }).finishRow m)
          | .fail _ _ => .unable
          | _ => .later s
        | .ok [] => .short
        | _ => .later s

/-- The age of a row's map entry set, in one write (R174, R175). -/
def State.setAge (s : State) (j : Nat) (e : ShardE) (row v age : Nat) : Acc State :=
  if mapAge v = age then .ok s
  else s.writeOut j (mapAddr e row) (leBytes 8 (mapEntry (mapLevel v) (mapMigrating v) age (mapGen v) (mapSlot v)))

/-! ### Candidate queues (R174) -/

/-- How a record or a row that migration meets ends: dealt with, or left for later. -/
inductive Treated
  | over (s : State)
  | later (s : State)

/-- Treats one candidate record. One that names a row outside the shard, or whose map entry is invalid or cannot be read, is dropped
(DESIGN CHOICE, log 83). -/
def State.treatRecord (s : State) (j : Nat) (t : Table) (e : ShardE) (b : List Byte) : Treated :=
  let row := nb b 0 8
  let target := if bit (nb b 10 1) 0 then lvHot else lvWarm
  if row < e.first ∨ e.first + e.rows ≤ row ∨ row ≥ t.rows then .over s
  else match s.readVa j (mapAddr e row) 8 with
    | .far _ _ _ => .later (s.wantRows j (mapAddr e row) 8)
    | .wait => .later s
    | .fail _ _ => .over s
    | .ok m =>
      let v := leNat m
      if mapOk t e v = false then .over s
      else match (s.didRead j (mapAddr e row) 8).setAge j e row v 0 with
        | .ok u =>
          if t.enabled target = false ∨ mapLevel v ≤ target ∨ mapMigrating v then .over u
          else match u.moveRow j t e row (mapEntry (mapLevel v) false 0 (mapGen v) (mapSlot v)) target with
            | .made u => .over u
            | .short => .over (u.bump K.candidatesSkipped 1)
            | .unable => .over u
            | .later u => .later u
        | .fail _ _ => .over s
        | _ => .later s

/-- Reads a shard's candidate queue in order, advancing consumed (R125, R174). A queue that cannot be read stays as it is (DESIGN CHOICE,
log 83). -/
def State.readCandidates (j : Nat) (t : Table) (e : ShardE) : Nat → State → State
  | 0, s => s
  | fuel + 1, s =>
    match s.readVa j e.cand 16 with
    | .far _ _ _ => s.wantRows j e.cand 16
    | .ok h =>
      let produced := nb h 0 8
      let consumed := nb h 8 8
      if consumed ≥ produced then s.didRead j e.cand 16
      else
        let a := e.cand + 64 + 16 * (consumed % 2 ^ (8 + e.size))
        match s.readVa j a 16 with
        | .far _ _ _ => s.wantRows j a 16
        | .ok b =>
          match s.treatRecord j t e b with
          | .later u => u
          | .over u =>
            match ((u.didRead j e.cand 16).didRead j a 16).writeOutAs .core j (e.cand + 8) (leBytes 8 (consumed + 1)) with
            | .ok u => State.readCandidates j t e fuel u
            | _ => s
        | _ => s
    | _ => s

/-- Whether the pages of a job's list are its own, not views of another's. -/
def State.listHome (s : State) (j n : Nat) : Bool :=
  match s.leafOf j ((s.reg (K.tableList j) + 64 * n) % 2 ^ 48) with
  | some l => l.src.isNone
  | none => false

/-- Whether migration runs for a table under a job: the job's control core runs, and of the resident jobs whose lists name the table it is the
first whose own pages hold the descriptor, or else the first (DESIGN CHOICE, log 56). -/
def State.migrates (s : State) (j : Nat) (t : Table) : Bool :=
  !s.svc.coreDown.contains (j % 2) && !(s.job j).ckpt && t.placement != 2 &&
    !s.residents.any fun k => k != j && (List.range (s.reg (K.tableCount k))).any fun n =>
      s.descKey k (s.reg (K.tableList k) + 64 * n) == t.key &&
        (if s.listHome k n == s.listHome j t.num then decide (k < j) else s.listHome k n)

/-- The own shards of a table that migrates under a job, each by `f`. -/
def State.forShards (s : State) (j : Nat) (t : Table) (f : ShardE → State → State) : State :=
  if s.migrates j t then
    (List.range t.shards).foldl (fun s i => match s.shardAt j t i with
      | .ok e => if s.owns t e then f e s else s
      | .far n a l => (s.fetchFar j n a l).modMem fun m => { m with rowWant := true }
      | _ => s) s
  else s

/-- Every candidate queue of the module's own shards read. -/
def State.readQueues (s : State) : State :=
  s.residents.foldl (fun s j => (List.range (s.reg (K.tableCount j))).foldl (fun s n => match s.tableOf j n with
    | .ok t => s.forShards j t fun e s => State.readCandidates j t e (2 ^ (8 + e.size)) s
    | .far n a l => (s.fetchFar j n a l).modMem fun m => { m with rowWant := true }
    | _ => s) s) s

/-! ### The demotion sweep (R175) -/

/-- The next enabled level below a level. -/
def Table.below (t : Table) (lv : Nat) : Option Nat := [lvWarm, lvCold].find? fun x => lv < x && t.enabled x

/-- The sweep of one map entry; one that cannot be read is passed over (DESIGN CHOICE, log 83), and a row whose slice sleeps stays. -/
def State.sweepRow (s : State) (j : Nat) (t : Table) (e : ShardE) (row : Nat) : Treated :=
  match s.readVa j (mapAddr e row) 8 with
  | .far _ _ _ => .later (s.wantRows j (mapAddr e row) (pagePart (mapAddr e row) (8 * (e.first + e.rows - row))))
  | .wait => .later s
  | .fail _ _ => .over s
  | .ok m =>
    let s := s.didRead j (mapAddr e row) 8
    let v := leNat m
    let age (s : State) : Treated := match s.setAge j e row v (min 3 (mapAge v + 1)) with
      | .ok u => .over u
      | .fail _ _ => .over s
      | _ => .later s
    if mapOk t e v = false ∨ mapMigrating v then .over s
    else match t.below (mapLevel v) with
      | some lv =>
        if t.age ≤ mapAge v then
          let sleeps : Bool := match s.psetOf j t.pset t.dim false with
            | .ok P => (s.rowSlice j (P.recAddr row)).any fun sl => !s.sliceAwake sl
            | _ => false
          if sleeps ∨ s.reg K.rowMigrateBudget = 0 then .over s
          else match s.moveRow j t e row v lv with
            | .made u => .over u
            | .later u => .later u
            | _ => .over s
        else age s
      | none => age s

/-- The sweep of a shard from a row on: the row at which it stops, if any. -/
def State.sweepRows (j : Nat) (t : Table) (e : ShardE) : List Nat → State → Option Nat × State
  | [], s => (none, s)
  | r :: rs, s => match s.sweepRow j t e r with
    | .over u => State.sweepRows j t e rs u
    | .later u => (some r, u)

/-- The sweep of the maps of a table's own shards from a row on, where its demote_age is nonzero: the row at which it stops, if any. -/
def State.sweepFrom (s : State) (j n row : Nat) : Option Nat × State :=
  match s.tableOf j n with
  | .far nd a l => (some row, (s.fetchFar j nd a l).modMem fun m => { m with rowWant := true })
  | .ok t =>
    if t.age = 0 ∨ s.migrates j t = false then (none, s)
    else (List.range t.shards).foldl (fun w i => match w.1 with
      | some _ => w
      | none => match w.2.shardAt j t i with
        | .ok e =>
          if w.2.owns t e then State.sweepRows j t e ((List.range e.rows).filterMap fun r =>
            if row ≤ e.first + r then some (e.first + r) else none) w.2
          else w
        | .far nd a l => (some row, (w.2.fetchFar j nd a l).modMem fun m => { m with rowWant := true })
        | _ => w) (none, s)
  | _ => (none, s)

/-- A table's sweep goes on from a row, and another follows where one is due. -/
def State.sweepOn (s : State) (x : Sweep) : State :=
  let s := s.modMem fun m => { m with sweeps := m.sweeps.filter (· != x) }
  let keep (again : Bool) (w : Option Nat × State) : State := match w.1 with
    | some r => w.2.modMem fun m => { m with sweeps := m.sweeps ++ [{ job := x.job, table := x.table, row := r, again := again }] }
    | none => w.2
  match s.sweepFrom x.job x.table x.row with
  | (some r, t) => keep x.again (some r, t)
  | (none, t) => if x.again then keep false (t.sweepFrom x.job x.table 0) else t

/-- Sweeps that have not finished go on (R175). -/
def State.sweepsGoOn (s : State) : State := s.mem.sweeps.foldl (fun s x => s.sweepOn x) s

/-- A sweep of a table's maps starts, or, where one has not finished, when that one ends (R175). -/
def demotionSweep (j n : Nat) (s : State) : State :=
  if s.powered = false ∨ s.isResident j = false then s
  else if s.mem.sweeps.any fun x => x.job == j && x.table == n then
    s.modMem fun m => { m with sweeps := m.sweeps.map fun x => if x.job == j && x.table == n then { x with again := true } else x }
  else s.sweepOn { job := j, table := n, row := 0, again := false }

/-- DEMOTION_SWEEP (R175). -/
def execDemotionSweep (j t : Nat) (s : State) : Host.Outcome State Fault Refusal := finish s (demotionSweep j t s)

/-! ### A window (R173) -/

/-- What row migration has begun goes on: moves that waited for memory, and queues and sweeps that waited for bytes of a lender. -/
def State.rowsGoOn (s : State) : State :=
  let s := s.rowMovesGoOn
  if s.mem.rowWant then ((s.modMem fun m => { m with rowWant := false }).readQueues).sweepsGoOn else s

/-- A 1 ms window of row migration: every own shard's candidate queue, then the sweeps that have not finished, at most migrate_budget moves
per slice (R173 to R175). -/
def migrationWindow (s : State) : State :=
  if s.powered = false ∨ s.reg K.rowMigrateBudget = 0 then s
  else (((s.modMem fun m => { m with rowsMoved := [], rowWant := false }).rowMovesGoOn).readQueues).sweepsGoOn

/-- MIGRATION_WINDOW (R173). -/
def execMigrationWindow (s : State) : Host.Outcome State Fault Refusal := finish s (migrationWindow s)

/-! ### The end of a row move (R177 step 8) -/

/-- Whether a fetch that a move recorded has not arrived. -/
def State.fetchOut (s : State) (row : Nat) (f : Nat × Nat) : Bool :=
  if f.1 = 16 then s.fab.pendReads.any (·.id == f.2) else (s.ee f.1).fetches.any fun x => x.id == f.2 && x.row == row

/-- The old slot of a row move is free once no fetch recorded at step 6 is outstanding. -/
def rowMoveSlotFree (i : Nat) (s : State) : State :=
  match s.mem.rowMoves[i]? with
  | none => s
  | some m =>
    if m.done = false ∨ m.fetches.any (s.fetchOut m.row) then s
    else
      let s := s.modMem fun x => { x with rowMoves := x.rowMoves.eraseIdx i }
      match s.tableOf m.job m.table with
      | .ok t => (match s.shardOf m.job t m.row with
        | .ok (some e) => s.freeSlot t e m.level m.slot
        | _ => s.dropSlots t.key)
      | _ => s.dropSlots (s.moveKey m)

/-- ROW_MOVE_SLOT_FREE (R177). -/
def execRowMoveSlotFree (i : Nat) (s : State) : Host.Outcome State Fault Refusal := finish s (rowMoveSlotFree i s)

end Sys2Proof.Machine
end

