-- ==== Sys2Proof/Machine/FabricIn.lean ====
section
/-! DEFINITION. The fabric engine toward its peers: requests of other modules and their answers (R317, R325 to R328), the
row server (R121), tier 2 frames lent to others (R291), responses to this module's requests, unreachable nodes (R313,
R328, R344) and the takeover of a node ID (R345, R346). -/

namespace Sys2Proof.Machine

/-! ### Requests that wait for memory -/

/-- The answer to a memory operation of the Ryeve link: READ_DATA or WRITE_DONE (R351, R352). -/
def State.vc0Reply (s : State) (op : Nat) (h : TxHdr) (status : Nat) (data : List Byte) : State :=
  s.rySend 0 (op + 1) status h.job h.tag data

/-- The state with a pending read's data set. -/
def State.pendData (s : State) (id : Nat) (data : List Byte) : State :=
  s.modFab fun F => { F with pendReads := F.pendReads.map fun p => if p.id == id then { p with data := data } else p }

/-- The notes of a write, add or atomic that waits (`PendRead.data`). -/
def State.pendNote (s : State) (id : Option Nat) : Nat :=
  match id.bind fun i => s.fab.pendReads.find? fun p => p.id == i with
  | some p => nb p.data 0 1
  | none => 0

/-- The state in which a write, add or atomic waits, as `f` and with its notes; `id` is the pending request it already is. -/
def State.pendAs (s : State) (op : Nat) (f : Frame) (note : Nat) (id : Option Nat) : State :=
  match id with
  | some i => s.modFab fun F => { F with pendReads := F.pendReads.map fun p =>
      if p.id == i then { p with frame := f, data := leBytes 1 note } else p }
  | none => s.pend op f (leBytes 1 note)

/-- A write, add or atomic of job `j` waits at an address; a wait on a page move is counted once (R297, R311). -/
def State.pendWait (s : State) (j addr op : Nat) (f : Frame) (note : Nat) (id : Option Nat) : State :=
  let x := s.countWait j addr (bit note 0)
  x.1.pendAs op f (note / 2 * 2 + if x.2 then 1 else 0) id

/-- TIER1_FULL is posted where a write found too few chunks (R290). -/
def State.tierFull (s : State) (reason detail : Nat) : State :=
  if reason = 0x22 ∧ bit detail 100 then s.postSession 0x21 0xFF (leBytes 4 s.chunksFree) else s

/-- Refuses a request with a reason and detail (R316, R325). -/
def State.refuse (s : State) (op : Nat) (f : Frame) (reason detail : Nat) : State :=
  let s := (s.toldFailure reason detail).tierFull reason detail
  match answerOp op with
  | some a => s.reply f a f.arg reason (leBytes 8 detail)
  | none => s

/-- A refusal that 0x2701.05 counts: no such key, or no grant (R325, R291). -/
def State.refuseIn (s : State) (op : Nat) (f : Frame) : State :=
  (s.bump K.fabRefusedInbound 1).refuse op f 0x21 f.addr

/-! ### Tier 2 frames of this lender (R291) -/

/-- Whether the export table grants a borrower a frame. -/
def State.granted (s : State) (borrower frame : Nat) : Bool :=
  (List.range 64).any fun i =>
    let v := s.reg (K.exportGrant i)
    bits v 64 32 != 0 && bits v 0 16 == borrower && bits v 32 32 ≤ frame && frame < bits v 32 32 + bits v 64 32

/-- Whether every frame of a run is granted. -/
def State.grantedRun (s : State) (f : Frame) (n : Nat) : Bool :=
  let o := f.addr % 2 ^ 48
  s.isMe (f.addr / 2 ^ 48) && (List.range ((o + n - 1) / 65536 - o / 65536 + 1)).all fun i => s.granted f.acting (o / 65536 + i)

/-- The container of a lent frame. -/
def State.lentOf (s : State) (frame : Nat) : Option Container :=
  s.mem.containers.find? fun c => c.job == 64 && c.page == frame

/-- Bytes of lent frames, which read 0 until they are written. -/
def State.lentRead (s : State) (o n : Nat) : Acc (List Byte) :=
  (List.range ((o + n - 1) / 65536 - o / 65536 + 1)).foldl (fun acc i =>
    let a := max o ((o / 65536 + i) * 65536)
    let m := min (o + n) ((o / 65536 + i + 1) * 65536) - a
    accBind acc fun l =>
      match s.lentOf (a / 65536) with
      | none => .ok (l ++ zeros m)
      | some c =>
        let p := t1Base + c.id * 65536 + a % 65536
        match s.poisonIn p m with
        | some _ => .fail 0x30 (2 ^ 48 * s.ownNode + a)
        | none => .ok (l ++ readRun s.mem.bytes p m)) (.ok [])

/-- A write into one lent frame: its container is made or packed again as R288 says, and export_used is charged. -/
def State.lentWrite (s : State) (o : Nat) (bs : List Byte) : Acc State :=
  let frame := o / 65536
  let full (page : List Byte) : Acc State := .fail 0x22 (quotaDetail 1 frame true (ceilDiv (unitsOf (unitMapOf page)) 64))
  match s.lentOf frame with
  | none =>
    let page := putBytes (zeros 65536) (o % 65536) bs
    if s.reg K.exportUsed + 65536 > s.reg K.exportBytes then .fail 0x22 (1 + 65536 * 256)
    else match s.buildContainer 64 frame page [] with
      | some (_, t) => .ok ((t.charge K.exportUsed 65536).count 0x50 0x11 (ceilDiv bs.length 64) none)
      | none => full page
  | some c =>
    let a := t1Base + c.id * 65536
    match s.poisonPart (a + o % 65536) bs.length with
    | some _ => .fail 0x30 (2 ^ 48 * s.ownNode + o)
    | none =>
      let page := putBytes (s.containerBytes c.id) (o % 65536) bs
      let first := o % 65536 / 128
      let n := (o % 65536 + bs.length + 127) / 128 - first
      let s := (s.cleanse (a + o % 65536) bs.length).count 0x50 0x11 (ceilDiv bs.length 64) none
      if (List.range n).any fun i => bit c.unitMap (first + i) && !Config.blockFits (pageBlock page (first + i)) then
        let poison := (s.mem.poison.filter fun p => a ≤ p && p < a + 65536).map (· - a)
        match s.buildContainer 64 frame page poison with
        | some (_, t) => .ok (((t.freeContainerId c.id).bump K.repacks 1).count 0x50 0x12 1 none)
        | none => full page
      else .ok (s.modMem fun m => { m with bytes := writeRun m.bytes (a + o % 65536) bs })

/-- A write of a borrower's frame, which may cross into the next. -/
def State.lentWrites (s : State) : Nat → Nat → List Byte → Acc State
  | 0, _, _ => .ok s
  | fuel + 1, o, bs =>
    if bs = [] then .ok s
    else
      let m := min bs.length (65536 - o % 65536)
      accBind (s.lentWrite o (bs.take m)) fun s => s.lentWrites fuel (o + m) (bs.drop m)

/-- What the controller meets in an access of `n` bytes of lent frames (R303 to R306): a correction is counted, an uncorrectable unit is
poisoned, and so is that of a write whose fourth try fails. -/
def State.lentMet (s : State) (o n : Nat) (write : Bool) (a : MemAccess) : State :=
  match s.lentOf (o / 65536) with
  | none => s
  | some c =>
    let p := t1Base + c.id * 65536 + o % 65536
    let s := s.correctedAt p a.corrected none
    let s := match a.bad with
      | some x => if x < n then s.poison (p + x) else s
      | none => s
    if write && a.retries > 3 then s.poison p else s

/-! ### Requests of other modules (R317, R325) -/

/-- A request arrives: with job key 0, or for a resident job (R325). -/
def State.inboundAny (s : State) (op : Nat) (f : Frame) : Option (Option Nat × Frame) × State :=
  match s.arrive op f with
  | (none, s) => (none, s)
  | (some g, s) =>
    if g.key = 0 then (some (none, g), s)
    else match s.jobByKey g.key with
      | some j => (some (some j, g), s)
      | none => (none, s.refuseIn op g)

/-- READ: refused at once where the address does not translate, else answered when memory has been read (R274, R323). -/
def readFrame (f : Frame) (s : State) : State :=
  match s.inboundAny 0x01 f with
  | (none, s) => s
  | (some (none, g), s) => if g.arg != 0 && s.grantedRun g g.arg then s.pend 0x01 g [] else s.refuseIn 0x01 g
  | (some (some j, g), s) =>
    if s.isMe (g.addr / 2 ^ 48) = false then s.refuse 0x01 g 0x21 g.addr
    else match s.readVa j g.addr g.arg with
      | .fail r d => s.refuse 0x01 g r d
      | _ => s.pend 0x01 g []

/-- READ (R317). -/
def execRead (f : Frame) (s : State) : Host.Outcome State Fault Refusal := finish s (readFrame f s)

/-- A write of job `j` that another module or the control node asked for: bytes that rest with a lender depart under the number of the
pending request `i` (R273, R291). -/
def State.writeFor (s : State) (via : Via) (j addr : Nat) (bs : List Byte) (i : Nat) : Acc State :=
  State.writeEach (fun s n a b => (List.range (ceilDiv b.length 512)).foldl (fun s k =>
      let real := if n ≥ 2 ^ 16 then n - 2 ^ 16 else n
      let d := (b.drop (512 * k)).take 512
      s.request 0x03 j coreOwner (i + 1) n (2 ^ 48 * real + a + 512 * k) d.length 0 d) s) via j (bs.length / 65536 + 2) addr bs s

/-- A write of another module for job `j`: made and answered, refused, or pending while its page moves. `id` is the pending request it
already is. Bytes that rest with a lender depart, and the answer follows their acknowledgement. -/
def State.serveWrite (s : State) (j : Nat) (g : Frame) (id : Option Nat) : State :=
  let bs := g.payload.take g.arg
  let i := id.getD s.freshPend
  let off (s : State) : State := match id with | some i => s.unpend i | none => s
  match s.writeFor .unit j g.addr bs i with
  | .ok t =>
    if t.fab.reqs.length = s.fab.reqs.length then (off t).reply g 0x04 g.arg 0 [] else t.pendAs 0x03 g 4 id
  | .fail r d => (off s).refuse 0x03 g r d
  | _ => s.pendWait j g.addr 0x03 g (s.pendNote id) id

/-- A request that writes in place, after what its access meets; a fourth failure ends it UNCORRECTABLE (R304). -/
def State.struck (s : State) (j op : Nat) (g : Frame) (n : Nat) (m : MemAccess) (k : State → State) : State :=
  let s := s.translate .fabric j g.addr n
  if s.writeWaits j g.addr then k s
  else
    let s := s.met j g.addr n true m
    if m.retries > 3 then s.refuse op g 0x30 g.addr else k s

/-- WRITE (R317, R291). `m` is what the controller meets. -/
def writeFrame (f : Frame) (m : MemAccess) (s : State) : State :=
  match s.inboundAny 0x03 f with
  | (none, s) => s
  | (some (none, g), s) =>
    if (g.arg != 0 && s.grantedRun g g.arg) = false then s.refuseIn 0x03 g
    else
      let s := s.lentMet (g.addr % 2 ^ 48) g.arg true m
      if m.retries > 3 then s.refuse 0x03 g 0x30 g.addr
      else match s.lentWrites 3 (g.addr % 2 ^ 48) (g.payload.take g.arg) with
        | .ok t => t.reply g 0x04 g.arg 0 []
        | .fail r d => s.refuse 0x03 g r d
        | _ => s
  | (some (some j, g), s) =>
    if s.isMe (g.addr / 2 ^ 48) = false then s.refuse 0x03 g 0x21 g.addr
    else s.struck j 0x03 g g.arg m fun s => s.serveWrite j g none

/-- WRITE (R317). -/
def execWrite (f : MetFrame) (s : State) : Host.Outcome State Fault Refusal := finish s (writeFrame f.frame f.access s)

/-- The first run of set bits of a mask of 64 from bit `i`: its first bit and its length. -/
def maskRun (m : Nat) : Nat → Nat → Option (Nat × Nat)
  | 0, _ => none
  | fuel + 1, i =>
    if i ≥ 64 then none
    else if bit m i then some (i, ((List.range (64 - i)).find? fun k => !bit m (i + k)).getD (64 - i))
    else maskRun m fuel (i + 1)

/-- Adds the elements of a sector that its mask selects (R62, R283). -/
def State.addSector (s : State) (j a f mask : Nat) (bs : List Byte) : Nat → Nat → Bool → Acc (State × Bool)
  | 0, _, nf => .ok (s, nf)
  | fuel + 1, i, nf =>
    match maskRun mask 65 i with
    | none => .ok (s, nf)
    | some (b, n) =>
      let o := b * fmtBits f / 8
      let l := n * fmtBits f / 8
      if o ≥ 64 then .ok (s, nf)
      else accBind (s.addVa j (a + o) f ((bs.drop o).take (min l (64 - o)))) fun r =>
        r.1.addSector j a f mask bs fuel (b + n) (nf || r.2.2)

/-- How an ADD of several sectors ends: all made, a reason and detail, or the sectors that wait for a page. -/
inductive AddOut
  | ok (s : State) (nf : Bool)
  | fail (s : State) (reason detail : Nat)
  | wait (s : State) (left : Nat) (nf : Bool)

/-- Adds the sectors of a frame in turn; each has its mask, 8 zero bytes and 64 bytes of elements. -/
def State.addSectors (s : State) (j f a : Nat) : Nat → Nat → List Byte → Bool → AddOut
  | 0, _, _, nf => .ok s nf
  | fuel + 1, i, p, nf =>
    if p.length < 80 then .ok s nf
    else match s.addSector j (a + 64 * i) f (nb p 0 8) ((p.drop 16).take 64) 65 0 false with
      | .ok r => r.1.addSectors j f a fuel (i + 1) (p.drop 80) (nf || r.2)
      | .fail r d => .fail s r d
      | _ => .wait s i nf

/-- An ADD of another module for job `j`: made, refused, or pending until its pages rest in tier 0 (R283). NONFINITE of the sectors added
before a wait is kept for the answer (R62). -/
def State.serveAdd (s : State) (j : Nat) (g : Frame) (id : Option Nat) : State :=
  let f := g.arg % 16
  let a := g.addr / 64 * 64
  let note := s.pendNote id
  let off (s : State) : State := match id with | some i => s.unpend i | none => s
  match s.addSectors j f a 33 0 g.payload (bit note 1) with
  | .ok t nf => (off t).reply g 0x04 (if nf then 1 else 0) 0 []
  | .fail t r d => (off t).refuse 0x05 g r d
  | .wait t i nf =>
    let left : Frame := { g with addr := a + 64 * i, payload := g.payload.drop (80 * i) }
    (t.askPage j ((a + 64 * i) % 2 ^ 48)).pendWait j (a + 64 * i) 0x05 left
      ((if i = 0 then note % 2 else 0) + if nf then 2 else 0) id

/-- ADD (R317, R326). `m` is what the controller meets. -/
def addFrame (f : Frame) (m : MemAccess) (s : State) : State :=
  match s.inboundAny 0x05 f with
  | (none, s) => s
  | (some (none, g), s) => s.refuseIn 0x05 g
  | (some (some j, g), s) =>
    if s.isMe (g.addr / 2 ^ 48) = false then s.refuse 0x05 g 0x21 g.addr
    else if !isMsa (g.arg % 16) then s.refuse 0x05 g 0x03 (g.arg % 16)
    else s.struck j 0x05 g 64 m fun s => s.serveAdd j g none

/-- ADD (R326). -/
def execAdd (f : MetFrame) (s : State) : Host.Outcome State Fault Refusal := finish s (addFrame f.frame f.access s)

/-- An ATOMIC of another module for job `j` (R326). -/
def State.serveAtomic (s : State) (j : Nat) (g : Frame) (id : Option Nat) : State :=
  let f := g.arg % 16
  let off (s : State) : State := match id with | some i => s.unpend i | none => s
  match s.atomicVa j g.addr f (bits g.arg 4 4) (nb g.payload 0 8) (nb g.payload 8 8) with
  | .ok (t, old, _) => (off t).reply g 0x07 g.arg 0 (padTo 16 (leBytes (atomicBytes f) old))
  | .fail r d => (off s).refuse 0x06 g r d
  | _ => (s.askPage j (g.addr % 2 ^ 48)).pendWait j g.addr 0x06 g (s.pendNote id) id

/-- ATOMIC (R317, R326). `m` is what the controller meets. -/
def atomicFrame (f : Frame) (m : MemAccess) (s : State) : State :=
  match s.inboundAny 0x06 f with
  | (none, s) => s
  | (some (none, g), s) => s.refuseIn 0x06 g
  | (some (some j, g), s) =>
    let t := g.arg % 16
    let op := bits g.arg 4 4
    if s.isMe (g.addr / 2 ^ 48) = false then s.refuse 0x06 g 0x21 g.addr
    else if (t != 0 && t != 8 && t != 9) || op > 4 || (t == 0 && (op == 1 || op == 2)) then s.refuse 0x06 g 0x04 g.arg
    else if g.addr % alignOf t ≠ 0 then s.refuse 0x06 g 0x09 g.addr
    else s.struck j 0x06 g (atomicBytes t) m fun s => s.serveAtomic j g none

/-- ATOMIC (R326). -/
def execAtomic (f : MetFrame) (s : State) : Host.Outcome State Fault Refusal := finish s (atomicFrame f.frame f.access s)

/-- SIGNAL reaches an arrival counter (R327). -/
def signalFrame (f : Frame) (s : State) : State :=
  match s.inboundAny 0x08 f with
  | (none, s) => s
  | (some (none, g), s) => s.refuseIn 0x08 g
  | (some (some j, g), s) =>
    if g.arg > 15 then s.refuse 0x08 g 0x04 g.arg
    else (s.signal j g.arg (nb g.payload 0 8)).reply g 0x04 g.arg 0 []

/-- SIGNAL (R327). -/
def execSignal (f : Frame) (s : State) : Host.Outcome State Fault Refusal := finish s (signalFrame f s)

/-! ### The row server (R121) -/

/-- The table and the shard entry of a ROW_REQ's row at its owner: a row that no descriptor or entry here covers does not translate, and one
of another module is protected (DESIGN CHOICE, log 59). -/
def State.rowAt (s : State) (j : Nat) (g : Frame) : Acc (Table × ShardE) :=
  match s.tableByAddr j g.arg with
  | none => .fail 0x20 g.addr
  | some n =>
    accBind (s.tableOf j n) fun t =>
    accBind (s.shardOf j t (nb g.payload 0 8)) fun e? =>
      match e? with
      | none => .fail 0x20 g.addr
      | some e => if s.owns t e then .ok (t, e) else .fail 0x21 g.addr

/-- Whether rows of a table wait at their owner: a step that has its result is to update them, and its COMMIT has not completed (R27;
DEDUCED, log 59). -/
def State.rowsWait (s : State) (j n : Nat) : Bool :=
  s.steps.any fun t => t.job == j && t.state == .committing && !t.committed.contains n &&
    (t.scattered.contains n || s.mem.touched.contains (j, n, t.epoch % 2 ^ 32))

/-- A ROW_REQ is taken: its map entry, where the row server holds it, goes with it. -/
def State.takeRow (s : State) (j : Nat) (g : Frame) : State :=
  let row := nb g.payload 0 8
  match s.rowAt j g with
  | .fail r d => s.refuse 0x09 g r d
  | .far nd a l => (s.fetchFar j nd a l).pend 0x09 g []
  | .wait => s.pend 0x09 g []
  | .ok (t, _) =>
    if s.rowsWait j t.num then s.pend 0x09 g []
    else match s.fab.rowCache.find? fun m => m.1 == t.key && m.2.1 == row with
      | some m => s.pend 0x09 g (leBytes 8 m.2.2)
      | none => s.pend 0x09 g []

/-- ROW_REQ (R121). -/
def rowReq (f : Frame) (s : State) : State :=
  match s.inboundAny 0x09 f with
  | (none, s) => s
  | (some (none, g), s) => s.refuseIn 0x09 g
  | (some (some j, g), s) => s.takeRow j g

/-- ROW_REQ (R121). -/
def execRowReq (f : Frame) (s : State) : Host.Outcome State Fault Refusal := finish s (rowReq f s)

/-- The row server's memory answers: first the map entry, which is checked, then the row, whose header is checked, and which is sent
(R117, R119, R121). -/
def State.serveRow (s : State) (j : Nat) (p : PendRead) : State :=
  let g := p.frame
  let row := nb g.payload 0 8
  let no (r d : Nat) : State := (s.unpend p.id).refuse 0x09 g r d
  match s.rowAt j g with
  | .fail r d => no r d
  | .far nd a l => s.fetchFar j nd a l
  | .wait => s
  | .ok (t, e) =>
    if s.rowsWait j t.num then s
    else if p.data = [] then
      match s.embGet j (mapAddr e row) 8 with
      | .fail r d => no r d
      | .far nd a l => s.fetchFar j nd a l
      | .wait => s
      | .ok b =>
        if mapOk t e (leNat b) = false then no 0x20 (mapAddr e row)
        else
          let s := (s.translate .rowServer j (mapAddr e row) 8).didRead j (mapAddr e row) 8
          let s := s.modFab fun F => { F with
            rowCache := ((t.key, row, leNat b) :: F.rowCache.filter fun m => !(m.1 == t.key && m.2.1 == row)).take 32768 }
          s.pendData p.id b
    else
      let v := leNat p.data
      let lv := mapLevel v
      let a := slotAddr t e lv (mapSlot v)
      let m := rowStride (t.fmt lv) t.dim
      match s.embGet j a m with
      | .fail r d => no r d
      | .far nd x l => s.fetchFar j nd x l
      | .wait => s
      | .ok b =>
        if rowHeaderBad (t.fmt lv) b then no 0x30 a
        else
          let s := (s.translate .rowServer j a m).didRead j a m
          ((s.unpend p.id).count 0x51 0x13 1 (some j)).reply g 0x0A g.arg 0 (leBytes 1 lv ++ leBytes 1 (mapGen v) ++ zeros 14 ++ b)

/-- A candidate of another module is appended to the owner's queue (R124, R125); it waits where the queue is not here yet, and `id` is then
the pending request it is. One whose table or shard cannot be read is dropped (DESIGN CHOICE, log 83). -/
def State.serveCandidate (s : State) (j : Nat) (g : Frame) (id : Option Nat) : State :=
  let off (s : State) : State := match id with | some i => s.unpend i | none => s
  let keep (s : State) : State := if id.isSome then s else s.pend 0x0C g []
  match accBind (s.tableOf j (g.arg % 256)) fun t => accBind (s.shardOf j t (nb g.payload 0 8)) fun e =>
      match e with
      | some e => if s.owns t e then s.candAppend j e (g.payload.take 16) else .ok (false, s)
      | none => .ok (false, s) with
  | .ok (_, t) => off t
  | .fail _ _ => off s
  | .far n a l => keep (s.fetchFar j n a l)
  | .wait => keep s

/-- CANDIDATE (R124). -/
def candidateFrame (f : Frame) (s : State) : State :=
  match s.inboundAny 0x0C f with
  | (some (some j, g), s) => s.serveCandidate j g none
  | (some (none, g), s) => s.refuseIn 0x0C g
  | (none, s) => s

/-- CANDIDATE (R124). -/
def execCandidate (f : Frame) (s : State) : Host.Outcome State Fault Refusal := finish s (candidateFrame f s)

/-! ### GATHER_REQ (R338, R341) -/

/-- The ask in a pending GATHER_REQ. -/
def State.askOf (s : State) (j : Nat) (g : Frame) : GAsk := askRead j g.arg s.ownNode g.payload

/-- GATHER_REQ (R338). -/
def gatherReq (f : Frame) (s : State) : State :=
  match s.inboundAny 0x12 f with
  | (none, s) => s
  | (some (none, g), s) => s.refuseIn 0x12 g
  | (some (some j, g), s) =>
    match s.knowShard (s.askOf j g) with
    | .ok t => t.pend 0x12 g []
    | .fail r d => s.refuse 0x12 g r d
    | .far n a l => (s.fetchFar j n a l).pend 0x12 g []
    | .wait => s.pend 0x12 g []

/-- GATHER_REQ (R338). -/
def execGatherReq (f : Frame) (s : State) : Host.Outcome State Fault Refusal := finish s (gatherReq f s)

/-- The owner serves a shard once its version may be served. -/
def State.serveGather (s : State) (j : Nat) (p : PendRead) : State :=
  let a := s.askOf j p.frame
  match accBind (if (s.shardFor a).isSome then .ok s else s.knowShard a) fun s => s.serveShard a with
  | .ok (t, v, b) => (t.unpend p.id).reply p.frame 0x13 p.frame.arg 0 (leBytes 8 v ++ leBytes 8 a.want ++ b)
  | .fail r d => (s.unpend p.id).refuse 0x12 p.frame r d
  | .far n x l => s.fetchFar j n x l
  | .wait => s

/-! ### Memory answers a pending request (R323) -/

/-- A READ's memory answers. -/
def State.serveRead (s : State) (j : Option Nat) (p : PendRead) : State :=
  let g := p.frame
  match j with
  | none =>
    match s.lentRead (g.addr % 2 ^ 48) g.arg with
    | .ok b => ((s.unpend p.id).count 0x50 0x10 (ceilDiv g.arg 64) none).reply g 0x02 g.arg 0 b
    | .fail r d => (s.unpend p.id).refuse 0x01 g r d
    | _ => s
  | some j =>
    match s.unitRead j g.addr g.arg with
    | .ok b => (((s.unpend p.id).translate .fabric j g.addr g.arg).didRead j g.addr g.arg).reply g 0x02 g.arg 0 b
    | .fail r d => (s.unpend p.id).refuse 0x01 g r d
    | .far n a l => s.fetchFar j n a l
    | .wait => s

/-- The address and the bytes that a pending request of a job accesses next; none where that is not known yet. -/
def State.pendRun (s : State) (j : Nat) (p : PendRead) : Option (Nat × Nat) :=
  let g := p.frame
  match p.op with
  | 0x03 => some (g.addr, (g.payload.take g.arg).length)
  | 0x05 => some (g.addr, 64)
  | 0x06 => some (g.addr, atomicBytes (g.arg % 16))
  | 0x09 => match s.rowAt j g with
    | .ok (t, e) =>
      let v := leNat p.data
      if p.data = [] then some (mapAddr e (nb g.payload 0 8), 8)
      else some (slotAddr t e (mapLevel v) (mapSlot v), rowStride (t.fmt (mapLevel v)) t.dim)
    | _ => none
  | 0x12 =>
    let a := s.askOf j g
    match s.shardFor a, s.psetOf j a.pset 256 true with
    | some x, .ok P =>
      some (if versionFor a x = x.current then P.work + gBytes a.fmt a.sh.first else x.retain, gBytes a.fmt a.sh.elems)
    | _, _ => none
  | 0x0C | 0x0E | 0x0F | 0x10 | 0x11 => none
  | _ => some (g.addr, g.arg)

/-- Whether an op writes memory. -/
def writesMem (op : Nat) : Bool := op == 0x03 || op == 0x05 || op == 0x06

/-- A pending request of job `j` is served. -/
def State.servePend (s : State) (j : Nat) (p : PendRead) : State :=
  match p.op with
  | 0x03 => if bit (nb p.data 0 1) 2 then s else s.serveWrite j p.frame (some p.id)
  | 0x05 => s.serveAdd j p.frame (some p.id)
  | 0x06 => s.serveAtomic j p.frame (some p.id)
  | 0x09 => s.serveRow j p
  | 0x0C => s.serveCandidate j p.frame (some p.id)
  | 0x0E | 0x0F | 0x10 | 0x11 => s.groupIn j p.op p.frame (some p.id)
  | 0x12 => s.serveGather j p
  | _ => s.serveRead (some j) p

/-- A pending request of the fabric is served, after what its access meets: corrections and retries are counted, an uncorrectable unit is
poisoned and then refuses the request as any poison does, and a fourth failure refuses it UNCORRECTABLE (R303 to R305), for the row server
with the sector's address (R145). The job that the key names must still be resident. -/
def State.serveFabric (s : State) (p : PendRead) (m : MemAccess) : State :=
  let g := p.frame
  if g.key = 0 then
    let s := s.lentMet (g.addr % 2 ^ 48) g.arg false m
    if m.retries > 3 then (s.unpend p.id).refuse p.op g 0x30 g.addr else s.serveRead none p
  else match s.jobByKey g.key with
    | none => (s.unpend p.id).refuseIn p.op g
    | some j =>
      match s.pendRun j p with
      | none => s.servePend j p
      | some (a, n) =>
        if s.heldAt j a || (writesMem p.op && s.movingAt j a) then s
        else
          let s := s.met j a n (writesMem p.op) m
          if m.retries > 3 then (s.unpend p.id).refuse p.op g 0x30 (if p.op = 0x09 then a / 64 * 64 else g.addr)
          else s.servePend j p

/-! ### What goes on when bytes from elsewhere are here -/

/-- An alias entry's 8 bytes as a number. -/
def aliasWord (old new : Nat) (self : Bool) : Nat := old + new * 2 ^ 16 + (if self then 3 else 1) * 2 ^ 32

/-- The state with an alias installed, in the entry of its replaced node or a free one. -/
def State.installAlias (s : State) (old new : Nat) (self : Bool) : Option State :=
  let free := (List.range 64).find? fun i => match s.aliasAt i with | some a => a.1 == old | none => false
  let free := match free with | some i => some i | none => (List.range 64).find? fun i => (s.aliasAt i).isNone
  free.map fun i => s.setReg (K.aliasEntry i) (aliasWord old new self)

/-- A spare that has taken over a node tells every other member of the group, which is that of the lowest resident job which
lists it; a list held by another module or a lender is fetched first (R346). -/
def State.tellTakeover (s : State) (old : Nat) : State :=
  let g := s.reg K.takeoverGroup
  let tell := s.residents.findSome? fun j => match s.groupOf j g with
    | .ok l =>
      let others := l.filter fun n => !s.isMe n
      let t := s.modFab fun F => { F with takeover := others }
      let t := others.foldl (fun t n => t.request 0x14 64 coreOwner 0 n (2 ^ 48 * n) old 0 []) t
      some (t.setReg K.takeoverStatus (if others = [] then 2 else 1))
    | .far d a m =>
      some (((s.fetchFar j d a m).setReg K.takeoverStatus 1).modFab fun F => { F with due := F.due ++ [(2, j, g, old)] })
    | _ => none
  tell.getD (s.setReg K.takeoverStatus 3)

/-- This module becomes the spare for a node: its own entry is installed, and the group is told (R346). -/
def State.takeOver (s : State) (old : Nat) : State :=
  let s := s.setReg K.takeOver old
  let s := s.modFab fun F => { F with takeover := [], due := F.due.filter (·.1 != 2), reqs := F.reqs.filter fun r => r.what != 0x14 }
  match s.installAlias old (s.reg K.nodeId) true with
  | none => s.setReg K.takeoverStatus 3
  | some s => s.tellTakeover old

/-- What an event or a write of take_over asked for while the list of its group was being fetched is done (R248, R251, R346). -/
def State.dueGoOn (s : State) : State :=
  let s := (List.range 16).foldl (fun s q => s.fabGoOn q) s
  let l := s.fab.due
  if l = [] then s
  else l.foldl (fun s d => if d.1 = 0 then agreeTimeout d.2.1 d.2.2.1 d.2.2.2 s
    else if d.1 = 1 then agreeResultQueryTimer d.2.1 d.2.2.2 s else s.tellTakeover d.2.2.2)
    (s.modFab fun F => { F with due := [] })

/-- Every unit that may wait for bytes of a lender or another module, or for a frame to depart, goes on. -/
def State.flowOn (s : State) : State :=
  let s := s.retrySends.rowsGoOn
  let s := (allQueues.foldl (fun s q => s.fill q) s).movesGoOn
  let s := (List.range 16).foldl (fun s k => s.embedGoOn k) s
  s.dueGoOn

/-- Bytes that arrived from a node. -/
def State.putFarData (s : State) (node addr : Nat) (bs : List Byte) : State :=
  s.modFab fun F => { F with farData :=
    (F.farData.filter fun d => !(d.1 == node && addr ≤ d.2.1 && d.2.1 < addr + bs.length)) ++
      (bs.zipIdx.map fun b => (node, addr + b.2, b.1)) }

/-! ### The end of a request that fails -/

/-- The failure of a request of an embedding engine: its look-up halts, or the sender of its partial (R145, R162). -/
def State.failEmbed (s : State) (r : Req) (reason detail : Nat) : State :=
  let k := r.owner.unit
  let s := s.dropReq r.tag
  if r.what = 0x0B then
    match (s.ee k).partials.find? (·.id == r.xid) with
    | some p => s.refusePartial k p reason detail
    | none => s
  else match s.embedding k with
    | some (c, cl, f) => if cb c.word 0 1 = 0x50 then State.lookupEnd k c cl (.halt s f.pos reason detail) else s
    | none => s

/-- A refused request whose command core 2 may resume is kept, to depart again then (R98). -/
def State.keepReq (s : State) (r : Req) (reason : Nat) : State :=
  let s := s.dropReq r.tag
  if isResumable reason && reason != 0x41 then
    s.modFab fun F => { F with reqs := F.reqs ++ [{ r with sent := false, held := false, blocked := false }] }
  else s

/-- The failure of a request of a fabric queue. -/
def State.failFabric (s : State) (r : Req) (reason detail : Nat) : State :=
  let off (s : State) : State := s.keepReq r reason
  if r.xid = noXfer then s.dropReq r.tag
  else match s.fabRun r.owner.unit with
    | none => s.dropReq r.tag
    | some (c, cl, f) =>
      match cb c.word 0 1 with
      | 0x74 =>
        let p := s.remoteDone r.owner c.word f.pos
        (off s).haltCmd r.owner c cl reason detail p f.pos cl.begun
      | 0x70 => ((off s).collDrop cl.job (fabGroup c.word) (f.pos / 4)).haltCmd r.owner c cl reason detail 0 f.pos cl.begun
      | 0x71 =>
        if reason = 0x41 then (s.dropReq r.tag).loseAgree cl.job (fabArg c.word)
        else (s.dropReq r.tag).haltCmd r.owner c cl reason detail 0 f.pos cl.begun
      | _ => (s.dropReq r.tag).haltCmd r.owner c cl reason detail f.progress f.pos (f.pos != 0 || cl.begun)

/-- A request of this module ends without effect: refused, or given up as unreachable (R325, R344). -/
def State.failReq (s : State) (r : Req) (reason detail : Nat) : State :=
  match r.owner.cls with
  | .sched =>
    let s := s.dropReq r.tag
    if r.what = 0x01 ∨ (r.what = 0x03 ∧ r.xid = 0) then
      (s.modFab fun F => { F with farFail := F.farFail ++ [(r.node, r.addr % 2 ^ 48, r.arg, reason, detail)] }).flowOn
    else if r.what = 0x03 then
      match s.fab.pendReads.find? fun p => p.id + 1 == r.xid with
      | some p =>
        if p.vc0 then (s.unpend p.id).vc0Reply 0x03 p.hdr reason []
        else (s.unpend p.id).refuse 0x03 p.frame reason detail
      | none => s
    else s
  | .move =>
    let s := s.dropReq r.tag
    match s.moving r.owner with
    | some (c, cl, f) =>
      let g := moveGeom c.word
      if g.op = 0x45 ∧ r.xid ≠ noXfer then
        (s.keepReq r reason).haltCmd r.owner c cl reason detail (f.pos / 2 ^ 32) f.pos true
      else if f.waits.any (·.id == r.xid) then
        s.haltCmd r.owner c cl reason detail (g.progress f.progress) ((f.waits.map (·.id)).foldl min f.pos) (f.progress != 0)
      else s
    | none => s
  | .embed => s.failEmbed r reason detail
  | .update =>
    let s := s.dropReq r.tag
    match s.queue r.owner with
    | some Q => match Q.cmds, Q.infl with
      | c :: _, some f => match s.clause c.seq with
        | some cl => (if cb c.word 0 1 = 0x60 then s.keepReq r reason else s).haltCmd r.owner c cl reason detail f.progress 0 true
        | none => s
      | _, _ => s
    | none => s
  | .fabric => s.failFabric r reason detail
  | _ => s.dropReq r.tag

/-! ### Responses (R323) -/

/-- A response's node answers: it is reachable, and requests held for it depart (R344). -/
def State.answers (s : State) (node : Nat) : State :=
  if s.fab.dead.contains node then
    let s := s.modFab fun F => { F with
      dead := F.dead.filter (· != node)
      reqs := F.reqs.map fun r => if r.sent && r.held && s.realNode (r.node % 2 ^ 16) == node then { r with held := false } else r }
    s.retrySends
  else s

/-- A response arrives whole: the request its tag names, which must be of an op that it answers. -/
def State.response (s : State) (op : Nat) (f : Frame) : Option (Req × Frame) × State :=
  match s.arrive op f with
  | (none, s) => (none, s)
  | (some g, s) =>
    match s.reqOf g.tag with
    | none => (none, s)
    | some r => if answerOp r.what = some op ∧ r.sent then (some (r, g), s.answers g.src) else (none, s)

/-- READ_RESP: bytes reach the unit that asked for them (R323). -/
def readResp (f : Frame) (s : State) : State :=
  match s.response 0x02 f with
  | (none, s) => s
  | (some (r, g), s) =>
    if bit g.flags 2 then
      let x := refusalOf r g
      s.failReq r x.1 x.2
    else
      let bs := padTo r.arg g.payload
      match r.owner.cls with
      | .fabric =>
        match s.fabRun r.owner.unit with
        | some (c, cl, f) =>
          if cb c.word 0 1 ≠ 0x74 then s.dropReq r.tag
          else match s.landReq r.owner cl r bs with
            | (none, t) => t.fabGoOn r.owner.unit
            | (some (x, d), t) => t.haltCmd r.owner c cl x d (t.remoteDone r.owner c.word f.pos) f.pos (t.hasBegun cl.seq)
        | none => s.dropReq r.tag
      | .move =>
        match s.moving r.owner with
        | some (_, _, f) =>
          if f.waits.any (·.id == r.xid) then
            moveSectorArrival r.owner.unit r.xid MemAccess.clean ((s.dropReq r.tag).putFarData r.node (r.addr % 2 ^ 48) bs)
          else s.dropReq r.tag
        | none => s.dropReq r.tag
      | .embed =>
        let s := (s.dropReq r.tag).putFarData r.node (r.addr % 2 ^ 48) bs
        if s.fab.reqs.any fun x => x.owner == r.owner && x.xid == r.xid && x.what == 0x01 then s
        else rowFetchArrival r.owner.unit r.xid MemAccess.clean s
      | _ => ((s.dropReq r.tag).putFarData r.node (r.addr % 2 ^ 48) bs).flowOn

/-- READ_RESP (R323). -/
def execReadResp (f : Frame) (s : State) : Host.Outcome State Fault Refusal := finish s (readResp f s)

/-- The acknowledgement of a keyed add reaches the EE that sent the partial: NONFINITE goes to its clause (R62, R155). -/
def State.ackPartial (s : State) (r : Req) (nf : Bool) : State :=
  let k := r.owner.unit
  match (s.ee k).partials.find? (·.id == r.xid) with
  | some p =>
    let s := s.raise p.seq false nf
    partialAck k r.xid (s.modEe k fun e => { e with partials := e.partials.map fun q => if q.id == r.xid then { q with landed := true } else q })
  | none => s

/-- WRITE_ACK: a write, add, signal, keyed add or a member's COLL_DATA has taken effect (R323, R327). -/
def writeAck (f : Frame) (s : State) : State :=
  match s.response 0x04 f with
  | (none, s) => s
  | (some (r, g), s) =>
    if bit g.flags 2 then
      let x := refusalOf r g
      s.failReq r x.1 x.2
    else
      let s := s.dropReq r.tag
      let nf := bit g.arg 0
      match r.owner.cls with
      | .move =>
        match s.moving r.owner with
        | some (c, cl, _) =>
          if cb c.word 0 1 = 0x45 then (if r.xid = noXfer then s else s.addFlags cl.seq nf).moveGoOn r.owner.unit
          else memoryWriteAck r.owner r.xid MemAccess.clean s
        | none => s
      | .embed => s.ackPartial r nf
      | .update => (s.sliceGoOn r.owner.unit).gathersGoOn
      | .fabric =>
        let s := match s.fabRun r.owner.unit with
          | some (_, cl, _) =>
            if r.xid = noXfer then s else if r.what = 0x05 then (s.addFlags cl.seq nf).began cl.seq else s.began cl.seq
          | none => s
        s.fabGoOn r.owner.unit
      | _ =>
        if r.xid = 0 ∨ s.fab.reqs.any fun x => x.owner == coreOwner && x.xid == r.xid then s
        else match s.fab.pendReads.find? fun p => p.id + 1 == r.xid with
          | some p =>
            if p.vc0 then (s.unpend p.id).vc0Reply 0x03 p.hdr 0 [] else (s.unpend p.id).reply p.frame 0x04 p.frame.arg 0 []
          | none => s

/-- WRITE_ACK (R323). -/
def execWriteAck (f : Frame) (s : State) : Host.Outcome State Fault Refusal := finish s (writeAck f s)

/-- ATOMIC_RESP: the old value is written at the command's local operand (R326). -/
def atomicResp (f : Frame) (s : State) : State :=
  match s.response 0x07 f with
  | (none, s) => s
  | (some (r, g), s) =>
    if bit g.flags 2 then
      let x := refusalOf r g
      s.failReq r x.1 x.2
    else match s.fabRun r.owner.unit with
      | none => s.dropReq r.tag
      | some (c, cl, f) =>
        if cb c.word 0 1 ≠ 0x74 then s.dropReq r.tag
        else
          let t := r.arg % 16
          let old := nb g.payload 0 (atomicBytes t)
          let new := atomicNew t (bits r.arg 4 4) old (nb r.data 0 8 % 2 ^ fmtBits t) (nb r.data 8 8 % 2 ^ fmtBits t)
          match ((s.addFlags cl.seq new.2).began cl.seq).landReq r.owner cl r (leBytes (atomicBytes t) old) with
          | (none, u) => u.fabGoOn r.owner.unit
          | (some (x, d), u) => u.haltCmd r.owner c cl x d (u.remoteDone r.owner c.word f.pos) f.pos (u.hasBegun cl.seq)

/-- ATOMIC_RESP (R326). -/
def execAtomicResp (f : Frame) (s : State) : Host.Outcome State Fault Refusal := finish s (atomicResp f s)

/-- ROW_RESP: a row of another module is expanded and pooled (R121, R126). -/
def rowResp (f : Frame) (s : State) : State :=
  match s.response 0x0A f with
  | (none, s) => s
  | (some (r, g), s) =>
    if bit g.flags 2 then
      let x := refusalOf r g
      s.failReq r x.1 x.2
    else
      let k := r.owner.unit
      let s := s.dropReq r.tag
      match s.embedding k with
      | none => s
      | some (c, cl, _) =>
        match (s.ee k).fetches.find? (·.id == r.xid) with
        | some x =>
          let lv := nb g.payload 0 1
          s.poolArrival k c cl { x with addr := g.addr } lv (nb g.payload 1 1)
            (padTo (rowStride (x.table.fmt lv) x.table.dim) (g.payload.drop 16))
        | none => s

/-- ROW_RESP (R121). -/
def execRowResp (f : Frame) (s : State) : Host.Outcome State Fault Refusal := finish s (rowResp f s)

/-- GATHER_RESP: a shard's version and bytes are taken (R336, R341). -/
def gatherResp (f : Frame) (s : State) : State :=
  match s.response 0x13 f with
  | (none, s) => s
  | (some (r, g), s) =>
    if bit g.flags 2 then
      let x := refusalOf r g
      s.failReq r x.1 x.2
    else
      (s.modReq r.tag fun x => { x with what := 0x13, data := g.payload }).fabGoOn r.owner.unit

/-- GATHER_RESP (R336). -/
def execGatherResp (f : Frame) (s : State) : Host.Outcome State Fault Refusal := finish s (gatherResp f s)

/-! ### Unreachable nodes (R313, R328, R344) -/

/-- Ops whose response times out (R328): reads, and requests that are never sent twice to one node. An agreement's
contribution and a release await no response of their own. -/
def timedOp (what : Nat) : Bool :=
  what == 0x01 || what == 0x03 || what == 0x05 || what == 0x06 || what == 0x08 || what == 0x09 || what == 0x0B ||
    what == 0x0D || what == 0x12 || what == 0x17

/-- Ops that R328 sends again. -/
def readOp (what : Nat) : Bool := what == 0x01 || what == 0x09 || what == 0x12 || what == 0x17

/-- A held request is given up (R344). -/
def State.giveUp (s : State) (r : Req) : State :=
  if r.what = 0x0E ∨ r.what = 0x17 then (s.dropReq r.tag).loseAgree r.job (nb r.data 0 8)
  else s.failReq r 0x41 (r.node % 2 ^ 16)

/-- Every request held for a node is given up; the next request to it is sent, and shows whether it is reachable again (R344; log 51). -/
def State.giveUpNode (s : State) (node : Nat) : State :=
  (s.fab.reqs.filter fun r => r.held && r.node % 2 ^ 16 == node).foldl (fun s r =>
    match s.reqOf r.tag with | some x => s.giveUp x | none => s)
    (s.modFab fun F => { F with dead := F.dead.filter (· != s.realNode node) })

/-- With a retry_window of 0 held requests are given up at once (R344). -/
def State.noWindow (s : State) : State :=
  if s.reg K.retryWindow = 0 then ((s.fab.reqs.filter (·.held)).map fun r => r.node % 2 ^ 16).eraseDups.foldl (fun s n => s.giveUpNode n) s
  else s

/-- Requests of a node that has no usable port are held. -/
def State.holdCut (s : State) : State :=
  s.modFab fun F => { F with reqs := F.reqs.map fun r =>
    if (s.usablePorts (s.realNode (r.node % 2 ^ 16))).isEmpty then { r with held := true } else r }

/-- A plane reports a node unreachable: the port is not usable toward it, and the request, which was not delivered, is sent
again on another port (R313, R328). -/
def unreachable (f : Frame) (s : State) : State :=
  match s.arrive 0x16 f with
  | (none, s) => s
  | (some g, s) =>
    match s.reqOf g.arg with
    | none => s
    | some r =>
      if r.sent = false then s
      else
        let n := r.phys
        let s := s.modFab fun F => { F with reports := if F.reports.contains (f.port, n) then F.reports else F.reports ++ [(f.port, n)] }
        let s := s.modReq r.tag fun x => { x with sent := false }
        (s.sendReqFrame { r with sent := false }).holdCut.noWindow

/-- UNREACHABLE (R328). -/
def execUnreachable (f : Frame) (s : State) : Host.Outcome State Fault Refusal := finish s (unreachable f s)

/-- A plane's report is 1 s old (R313). -/
def planeReportExpiry (p node : Nat) (s : State) : State :=
  if s.fab.reports.contains (p, node) then
    (s.modFab fun F => { F with reports := F.reports.filter (· != (p, node)) }).flowOn
  else s

/-- PLANE_REPORT_EXPIRY (R313). -/
def execPlaneReportExpiry (p node : Nat) (s : State) : Host.Outcome State Fault Refusal := finish s (planeReportExpiry p node s)

/-- A request's response does not come: its node is unreachable; a read is sent again, anything else waits (R328, R344). A
request whose node an alias has replaced since goes to the replacing node. -/
def requestTimeout (tag : Nat) (s : State) : State :=
  match s.reqOf tag with
  | none => s
  | some r =>
    if timedOp r.what = false ∨ r.sent = false then s
    else if s.realNode (r.node % 2 ^ 16) ≠ r.phys then
      (s.modReq tag fun x => { x with sent := false }).sendReqFrame { r with sent := false }
    else
      let n := r.phys
      let s := s.modFab fun F => { F with dead := if F.dead.contains n then F.dead else F.dead ++ [n] }
      let s := s.modReq tag fun x => { x with held := true }
      (if readOp r.what then s.sendReqNow r else s).noWindow

/-- REQUEST_TIMEOUT (R328). -/
def execRequestTimeout (tag : Nat) (s : State) : Host.Outcome State Fault Refusal := finish s (requestTimeout tag s)

/-- The retry window of a node passes: the commands whose requests are held for it halt (R344). -/
def execRetryWindowExpiry (node : Nat) (s : State) : Host.Outcome State Fault Refusal := finish s (s.giveUpNode node)

/-! ### Takeover of a node ID (R345, R346) -/

/-- A spare announces that it acts as a node: the alias is installed and answered, and held requests for the node go to the
spare (R346). -/
def aliasInstall (f : Frame) (s : State) : State :=
  if s.isMe f.dst = false ∨ s.portUp f.port = false then s
  else
    let s := s.received f
    if frameReserved f ∨ (s.aliases.any fun a => a.1 == f.src) then s.bump K.fabRefusedInbound 1
    else match s.installAlias (f.arg % 65536) f.src false with
      | none => s
      | some s =>
        let s := s.sendPhys 0x15 f.src 0 f.tag 3 f.addr f.arg 0 []
        (s.sendHeld (f.arg % 65536)).flowOn

/-- ALIAS (R346). -/
def execAliasInstall (f : Frame) (s : State) : Host.Outcome State Fault Refusal := finish s (aliasInstall f s)

/-- A member has installed the alias; with the last the switch is complete (R346). -/
def aliasAck (f : Frame) (s : State) : State :=
  match s.response 0x15 f with
  | (none, s) => s
  | (some (r, _), s) =>
    let s := (s.dropReq r.tag).modFab fun F => { F with takeover := F.takeover.filter (· != r.node) }
    if s.fab.takeover = [] then s.setReg K.takeoverStatus 2 else s

/-- ALIAS_ACK (R346). -/
def execAliasAck (f : Frame) (s : State) : Host.Outcome State Fault Refusal := finish s (aliasAck f s)

/-- Members that have not answered within retry_window: the switch is failed, and they are told again (R346). -/
def takeoverRetry (s : State) : State :=
  if s.fab.takeover = [] then s
  else
    let s := s.setReg K.takeoverStatus 3
    (s.fab.reqs.filter fun r => r.what == 0x14).foldl (fun s r => s.sendReqFrame r) s

/-- TAKEOVER_RETRY (R346). -/
def execTakeoverRetry (s : State) : Host.Outcome State Fault Refusal := finish s (takeoverRetry s)

end Sys2Proof.Machine
end

