-- ==== Sys2Proof/Machine/Tiers.lean ====
section
/-! DEFINITION. Map requests (R278), page moves and migration between tiers (R293 to R298), pages that keyed adds wait for
(R170), scrub (R307) and the thermal rate limits of the stacks (R308). -/

namespace Sys2Proof.Machine

/-! ### Map requests (R278) -/

/-- Status codes of a map request (R278). -/
abbrev msDone : Nat := 0x00

/-- Bytes of a map request's page size. -/
def mapSpan (size : Nat) : Nat := match size with | 0 => 2 ^ 16 | 1 => 2 ^ 21 | _ => 2 ^ 30

/-- Whether a leaf overlaps a range of its job. -/
def leafMeets (l : Leaf) (j va n : Nat) : Bool := l.job == j && l.va < va + n && va < l.va + leafSpan l

/-- Whether every page of a range is mapped; a stash page is not (R237). -/
def State.allMapped (s : State) (j va n : Nat) : Bool :=
  (((s.mem.leaves.filter fun l => leafMeets l j va n && l.stash.isNone).map fun l =>
    min (l.va + leafSpan l) (va + n) - max l.va va).sum) == n

/-- Whether a range of a job holds a live code region (R95). -/
def State.liveRange (s : State) (j va n : Nat) : Bool :=
  (List.range 16).any fun i =>
    let b := s.reg (K.codeBase j i)
    let l := s.reg (K.codeLenState j i)
    bits l 24 2 != 0 && s.isMe (b / 2 ^ 48) && b % 2 ^ 48 < va + n && va < b % 2 ^ 48 + bits l 0 24 * 256

/-- A large leaf as the 64 KiB leaves, pinned, that map the same frames. -/
def leafPieces (l : Leaf) : List Leaf :=
  (List.range (leafFrames l)).map fun i => { l with va := l.va + 65536 * i, size := 0, frame := l.frame + i, pinned := true }

/-- Large leaves that a range cuts are split into 64 KiB leaves. -/
def State.splitAt (s : State) (j va n : Nat) : State :=
  let cut (l : Leaf) : Bool := l.size != 0 && leafMeets l j va n && !(va ≤ l.va && l.va + leafSpan l ≤ va + n)
  let s := (s.mem.leaves.filter cut).foldl (fun s l => s.dropWalks l.job l.va) s
  s.modMem fun m => { m with leaves := m.leaves.flatMap fun l => if cut l then leafPieces l else [l] }

/-- A leaf of a map request, not allocated. -/
def newLeaf (j va size : Nat) (r : MapReq) : Leaf where
  job := j
  va := va
  size := size
  read := r.read
  write := r.write
  tier := 0
  pinned := r.pin || size != 0
  allocated := false
  migrating := false
  accessed := false
  policy := r.policy
  src := none
  frame := 0
  node := 0
  pref := r.tier
  idle := 0
  stash := none

/-- The state with a leaf more. -/
def State.addLeaf (s : State) (l : Leaf) : State := s.modMem fun m => { m with leaves := m.leaves ++ [l] }

/-- Zero-filled tier 0 frames `f` to `f + n − 1`. -/
def State.zeroFrames (s : State) (f n : Nat) : State := (List.range n).foldl (fun s i => s.zeroFrame (f + i)) s

/-- A leaf of a large or pinned map with its frames, charged to the tier 0 data quota (R299); none where too few frames
are free. -/
def State.pinnedLeaf (s : State) (l : Leaf) : Option State :=
  let frame := if l.size = 0 then s.freeFrameFor l.job l.va else s.freeFrames (leafFrames l)
  frame.map fun f =>
    let n := leafFrames l
    (((s.zeroFrames f n).gaveFrame (f + n - 1)).addLeaf { l with allocated := true, frame := f }).charge
      (dataUsed 0 l.job) (65536 * n)

/-- Map (R278): leaves over the range; large and pinned ones are allocated at once. -/
def State.mapRange (s : State) (j : Nat) (r : MapReq) : Nat × State :=
  let span := mapSpan r.size
  let vas := (List.range (r.length / span)).map fun i => r.va + span * i
  if s.mem.leaves.any fun l => leafMeets l j r.va r.length then (0x03, s)
  else if r.pin || r.size != 0 then
    if s.quotaFits 0 j r.length = false then (0x05, s)
    else match vas.foldl (fun o va => o.bind fun t => State.pinnedLeaf t (newLeaf j va r.size r)) (some s) with
      | some t => (msDone, t)
      | none => (0x08, s)
  else (msDone, vas.foldl (fun s va => s.addLeaf (newLeaf j va 0 r)) s)

/-- A leaf that a map request made goes: its frames and quota are free (R278, R299). -/
def State.dropLeaf (s : State) (l : Leaf) : State :=
  let s := (s.freePlace l).dropWalks l.job l.va
  let s := if l.src.isNone && l.allocated then s.release (dataUsed l.tier l.job) (leafSpan l) else s
  s.modMem fun m => { m with
    leaves := m.leaves.filter fun x => !(x.job == l.job && x.va == l.va)
    pageReqs := m.pageReqs.filter fun x => !(x.job == l.job && x.va == l.va)
    candidates := m.candidates.filter (· != (l.job, l.va))
    retargets := m.retargets.filter (· != (l.job, l.va))
    touches := m.touches.filter fun x => !(x.job == l.job && x.va == l.va) }

/-- Unmap (R278). -/
def State.unmapRange (s : State) (j : Nat) (r : MapReq) : Nat × State :=
  if (s.clauses.any fun c => c.job == j) || s.mem.moves.any (fun m => m.job == j && r.va ≤ m.va && m.va < r.va + r.length) then
    (0x07, s)
  else if s.allMapped j r.va r.length = false then (0x04, s)
  else if s.liveRange j r.va r.length then (0x09, s)
  else if s.mem.leaves.any (fun l => match l.src with
    | some (k, va) => k == j && r.va ≤ va && va < r.va + r.length
    | none => false) then (0x0A, s)
  else
    let s := s.splitAt j r.va r.length
    (msDone, (s.mem.leaves.filter fun l => leafMeets l j r.va r.length).foldl (fun s l => s.dropLeaf l) s)

/-- Alias (R278): a read-only view of another job's pages, by the job and offset that mapped them first. -/
def State.aliasRange (s : State) (j : Nat) (r : MapReq) : Nat × State :=
  let span := r.length
  let homes : List (Option (Nat × Nat)) := (List.range (span / 65536)).map fun i =>
    let o := r.srcVa + 65536 * i
    match s.leafOf r.srcJob o with
    | some l => if l.stash.isSome then none else match l.src with
      | none => some (r.srcJob, o)
      | some (k, va) => some (k, va + (o - l.va))
    | none => none
  if (s.clauses.any fun c => c.job == j) || s.mem.moves.any (fun m => homes.contains (some (m.job, m.va))) then (0x07, s)
  else if s.mem.leaves.any fun l => leafMeets l j r.va r.length then (0x03, s)
  else if homes.any Option.isNone then (0x04, s)
  else (msDone, (homes.zipIdx).foldl (fun s h =>
    s.addLeaf { newLeaf j (r.va + 65536 * h.2) 0 r with write := false, src := h.1 }) s)

/-- Retarget (R278): the preferred tier and policy of a range; its unpinned pages move within the migration budget, one that is
moving once its move has ended (R298). -/
def State.retargetRange (s : State) (j : Nat) (r : MapReq) : Nat × State :=
  if s.allMapped j r.va r.length = false then (0x04, s)
  else
    let s := s.splitAt j r.va r.length
    let mine := s.mem.leaves.filter fun l => leafMeets l j r.va r.length
    let go := mine.filter fun l => l.src.isNone && !l.pinned && l.allocated && (l.tier != r.tier || (s.moveOf l.job l.va).isSome)
    (msDone, s.modMem fun m => { m with
      leaves := m.leaves.map fun l => if leafMeets l j r.va r.length then { l with pref := r.tier, policy := r.policy } else l
      retargets := m.retargets ++ (go.map fun l => (l.job, l.va)).filter fun x => !m.retargets.contains x })

/-- A map request (R278): the first status that applies, and the state. -/
def State.mapRequest (s : State) (op j : Nat) (r : MapReq) : Nat × State :=
  let span := mapSpan r.size
  if r.reserved ≠ 0 then (0x06, s)
  else if !(1 ≤ op && op ≤ 4) || r.size > 2 || r.tier = 3 || (r.pin && r.size != 0) || (op == 3 && r.write) || r.srcJob > 63 then
    (0x0B, s)
  else if r.va % span ≠ 0 || r.length = 0 || r.length % span ≠ 0 || r.va + r.length > 2 ^ 48 ||
      (op == 3 && (r.srcVa % span != 0 || r.srcVa + r.length > 2 ^ 48)) then (0x02, s)
  else match op with
    | 1 => s.mapRange j r
    | 2 => s.unmapRange j r
    | 3 => s.aliasRange j r
    | _ => s.retargetRange j r

/-- A map request's effect on its job: the mappings and the status entry (R278). -/
def State.doMap (s : State) (op j : Nat) (r : MapReq) : State :=
  let x := s.mapRequest op j r
  x.2.setReg (K.mapStatus j) x.1

/-! ### Starting a move (R297 steps 1 and 2) -/

/-- Poisoned units of a page by offset in it, as another tier covers them. -/
def State.poisonOffsets (s : State) (a : Nat) (unit : Nat) : List Nat :=
  ((s.mem.poison.filter fun p => a ≤ p && p < a + 65536).flatMap fun p =>
    if eccUnit p = 128 ∧ unit = 64 then [p - a, p - a + 64] else [(p - a) / unit * unit]).eraseDups

/-- The bytes of a page that rests in this module. -/
def State.pageHere (s : State) (l : Leaf) : List Byte :=
  match leafPlace l l.va with
  | .phys a => readRun s.mem.bytes a 65536
  | _ => zeros 65536

/-- The poison of a page, in units of `unit` bytes. -/
def State.poisonHere (s : State) (l : Leaf) (unit : Nat) : List Nat :=
  match (leafPlace l l.va).ident with
  | some a => s.poisonOffsets a unit
  | none => []

/-- A page's place as a move names it. -/
def leafCode (l : Leaf) : Nat := if l.tier = 2 then l.node * 2 ^ 32 + l.frame else l.frame

/-- A new place for a page in a tier: its code and the state. -/
def State.newPlace (s : State) (l : Leaf) (tier : Nat) : Option (Nat × State) :=
  match tier with
  | 0 => (s.freeFrameFor l.job l.va).map fun f => (f, s.gaveFrame f)
  | 1 => s.buildContainer l.job (l.va / 65536) (s.pageHere l) []
  | _ => s.freeLent.map fun (n, f) => (n * 2 ^ 32 + f, s.modMem fun m => { m with t2used := m.t2used ++ [(n, f)] })

/-- Whether a leaf's page may begin a move. -/
def State.movable (s : State) (l : Leaf) : Bool :=
  l.size == 0 && l.src.isNone && l.allocated && !l.migrating && (s.moveOf l.job l.va).isNone

/-- Starts a move of a page to a tier: charged and allocated, or not started (R297). A copy from or to a lender sends its
requests. -/
def State.startMove (s : State) (l : Leaf) (tier : Nat) (retire : Bool) : Option State :=
  if s.movable l = false then none
  else if tier ≠ l.tier ∧ s.quotaFits tier l.job 65536 = false then none
  else match s.newPlace l tier with
    | none => none
    | some (dst, s) =>
      let s := if tier = l.tier then s else s.charge (dataUsed tier l.job) 65536
      let m : PageMove := { job := l.job, va := l.va, srcTier := l.tier, src := leafCode l, dstTier := tier, dst := dst,
                            stage := .copying, retire := retire }
      let s := s.modMem fun x => { x with moves := x.moves ++ [m] }
      let s := s.modLeaf l.job l.va fun l => { l with migrating := true }
      let s := if l.tier = 2 then s.fetchFarBy 128 l.job (l.node + 2 ^ 16) (l.frame * 65536) 65536 else s
      some (if tier = 2 then s.putFar l.job (dst / 2 ^ 32 + 2 ^ 16) (dst % 2 ^ 32 * 65536) (s.pageHere l) else s)

/-- Tries a move: whether it started, and the state; a move that its step 1 does not start is counted, and one that starts draws its
energy (R296, R297). -/
def State.tryMove (s : State) (l : Leaf) (tier : Nat) : Bool × State :=
  match s.startMove l tier false with
  | some t => (true, t.chargeJob l.job (Config.migrationNj 1))
  | none => (false, if s.movable l then s.modMem fun m => { m with unmoved := m.unmoved + 1 } else s)

/-! ### The end of the copy (R297 steps 3 to 5) and of the move (step 6) -/

/-- The bytes and poison that a move copies: all here, refused, or not here yet; an uncorrectable block of the lender's is copied as
poisoned (R298). -/
def State.moveBytes (s : State) (m : PageMove) (l : Leaf) : Acc (List Byte × List Nat) :=
  if m.srcTier = 2 then
    let node := l.node + 2 ^ 16
    let known := s.poisonHere l 64
    let chunks := (List.range 512).map fun i =>
      let a := l.frame * 65536 + 128 * i
      match s.farFailed node a 128 with
      | some (r, d) => if r = 0x30 then Acc.ok (zeros 128, [128 * i, 128 * i + 64]) else .fail r d
      | none => accBind (s.farRead node a 128) fun b => .ok (b, [])
    chunks.foldr (fun c acc => match c, acc with
      | .fail r d, _ => .fail r d
      | _, .fail r d => .fail r d
      | .ok x, .ok y => .ok (x.1 ++ y.1, x.2 ++ y.2.filter fun p => !x.2.contains p)
      | _, _ => .wait) (.ok ([], known))
  else .ok (s.pageHere l, s.poisonHere l (if m.dstTier = 0 then 64 else 128))

/-- Whether a WRITE of this module to a lender's frame is outstanding. -/
def State.lentWriting (s : State) (code : Nat) : Bool :=
  s.fab.reqs.any fun r => r.what == 0x03 && r.owner == coreOwner && r.node == code / 2 ^ 32 + 2 ^ 16 &&
    r.addr % 2 ^ 48 / 65536 == code % 2 ^ 32

/-- The copy lands in its new place; none where a container's bytes have changed and no longer fit. -/
def State.putCopy (s : State) (m : PageMove) (bs : List Byte) (poison : List Nat) : Option (Nat × State) :=
  match m.dstTier with
  | 0 =>
    let a := m.dst * 65536
    some (m.dst, (s.zeroFrame m.dst).modMem fun x => { x with
      bytes := writeRun x.bytes a bs, poison := x.poison ++ poison.map (a + ·) })
  | 1 =>
    let a := t1Base + m.dst * 65536
    let poison128 := (poison.map fun p => p / 128 * 128).eraseDups
    if s.containerBytes m.dst = bs then
      some (m.dst, s.modMem fun x => { x with poison := x.poison ++ poison128.map (a + ·) })
    else (s.freeContainerId m.dst).buildContainer m.job (m.va / 65536) bs poison128
  | _ =>
    let a := t2Base + m.dst / 2 ^ 32 * 2 ^ 48 + m.dst % 2 ^ 32 * 65536
    some (m.dst, s.modMem fun x => { x with poison := x.poison ++ (poison.map fun p => a + p / 128 * 128).eraseDups })

/-- The first physical byte of a place that a move names in a tier (R277). -/
def placeBase (tier code : Nat) : Nat :=
  match tier with
  | 0 => code * 65536
  | 1 => t1Base + code * 65536
  | _ => t2Base + code / 2 ^ 32 * 2 ^ 48 + code % 2 ^ 32 * 65536

/-- The descriptors of every job whose physical address leaves with a page drop out of the caches (R126, R432). -/
def State.evictPage (s : State) (m : PageMove) : State :=
  let a := placeBase m.srcTier m.src
  (s.residents.flatMap fun j => (List.range (s.reg (K.tableCount j))).map fun n =>
      s.descKey j (s.reg (K.tableList j) + 64 * n)).foldl
    (fun s k => if a ≤ k ∧ k < a + 65536 then (s.evictDesc k).dropSlots k else s) s

/-- Everything that may wait on a page or a stack goes on. -/
def State.goOn (s : State) : State := s.flowOn

/-- The failure of a page's fetch is kept for those that wait for the page (R172, R302). -/
def State.failPage (s : State) (j va reason detail : Nat) : State :=
  s.modMem fun m => { m with pageReqs := m.pageReqs.map fun r =>
    if r.job == j && r.va == va then { r with failed := some (reason, detail) } else r }

/-- The copy of a move ends: its entry is switched in one write and the waiting writes proceed (R297 steps 4 and 5). -/
def pageMoveCopyDone (i : Nat) (s : State) : State :=
  match s.mem.moves[i]? with
  | none => s
  | some m =>
    if m.stage ≠ .copying ∨ s.lentWriting m.dst && m.dstTier == 2 then s
    else match s.leafOf m.job m.va with
      | none => s.dropMove m
      | some l =>
        if m.dstTier = 2 ∧ (s.farFailed (m.dst / 2 ^ 32 + 2 ^ 16) (m.dst % 2 ^ 32 * 65536) 65536).isSome then
          (s.abandonMove m).goOn
        else match s.moveBytes m l with
          | .fail r d => ((s.abandonMove m).failPage m.job m.va r d).goOn
          | .ok (bs, poison) =>
            match s.putCopy m bs poison with
            | none => (s.abandonMove m).goOn
            | some (dst, s) =>
              let s := if m.srcTier = 2 then s.dropFar (l.node + 2 ^ 16) (l.frame * 65536) 65536 else s
              let s := (s.evictPage m).dropTlb m.job m.va
              let s := s.modLeaf m.job m.va fun l => { l with
                tier := m.dstTier
                frame := if m.dstTier = 2 then dst % 2 ^ 32 else dst
                node := if m.dstTier = 2 then dst / 2 ^ 32 else 0
                migrating := false
                idle := 0 }
              let s := if m.dstTier < m.srcTier then s.bump (K.pagesPromoted m.job) 1
                else if m.srcTier < m.dstTier then s.bump (K.pagesDemoted m.job) 1 else s
              let s := s.modMem fun x => { x with moves := x.moves.map fun y =>
                if y == m then { y with stage := .releasing, dst := dst } else y }
              s.goOn
          | _ => s

/-- PAGE_MOVE_COPY_DONE (R297). -/
def execPageMoveCopyDone (i : Nat) (s : State) : Host.Outcome State Fault Refusal := finish s (pageMoveCopyDone i s)

/-- The old frame of a move is free, and its tier released (R297 step 6). -/
def pageFrameRelease (i : Nat) (s : State) : State :=
  match s.mem.moves[i]? with
  | none => s
  | some m =>
    if m.stage ≠ .releasing then s
    else
      let s := ((s.dropMove m).freeTierPlace m.srcTier m.src).dropLines (placeBase m.srcTier m.src) 65536
      if m.srcTier = m.dstTier then s else s.release (dataUsed m.srcTier m.job) 65536

/-- PAGE_FRAME_RELEASE (R297). -/
def execPageFrameRelease (i : Nat) (s : State) : Host.Outcome State Fault Refusal := finish s (pageFrameRelease i s)

/-! ### Migration (R294 to R296) -/

/-- Frames of tier 0 that no page and no move holds. -/
def State.framesFree (s : State) : Nat :=
  s.reg K.t0FramesInService - s.reg K.t0ReserveFrames -
    (((s.mem.leaves.filter fun l => l.src.isNone && l.allocated && l.tier == 0).map leafFrames).sum +
      (s.mem.moves.filter fun m => m.dstTier == 0 && m.stage == .copying || m.srcTier == 0 && m.stage == .releasing).length)

/-- Whether a page may leave tier 0 by policy: unpinned, small, of a class that demotes, not pinned by an add, not
wanted in tier 0 nor held by a row move (R180), and in no gradient region or pending area. -/
def State.mayDemote (s : State) (l : Leaf) : Bool :=
  s.movable l && l.tier == 0 && !l.pinned && l.stash.isNone && l.policy != 15 && s.reg (K.polDemoteIdle l.policy) != 0 &&
    s.allows l.policy (s.reg (K.polDemoteTo l.policy)) && !s.mem.pins.any (fun p => p.job == l.job && p.va == l.va) &&
    !s.mem.pageReqs.any (fun r => r.job == l.job && r.va == l.va) && !s.regionPage l.job l.va && !s.rowPinned l.job l.va

/-- A demotion candidate (R295). -/
def State.isDemotion (s : State) (l : Leaf) : Bool :=
  s.mayDemote l && s.reg (K.polDemoteIdle l.policy) ≤ l.idle

/-- Pages in the order they are demoted: longest idle first, accessed ones last. -/
def demoteOrder (l : List Leaf) : List Leaf :=
  sortBy (fun a b => decide (2 * b.idle + (if b.accessed then 0 else 1) ≤ 2 * a.idle + (if a.accessed then 0 else 1))) l

/-- Starts the demotion of the first page of a list that can move: whether one did, and the state. -/
def State.demoteFirst : List Leaf → State → Bool × State
  | [], s => (false, s)
  | x :: l, s =>
    if s.drawsMove x.job 1 = false then State.demoteFirst l s
    else
      let t := s.tryMove x (s.reg (K.polDemoteTo x.policy))
      if t.1 then t else State.demoteFirst l t.2

/-- Starts the demotion of a page of a job whose tier 0 quota blocks it: its candidates first, then its least recently
accessed unpinned pages (R295). -/
def State.demoteOf (s : State) (j : Nat) : Bool × State :=
  let mine := s.mem.leaves.filter fun l => l.job == j && s.mayDemote l
  State.demoteFirst (demoteOrder (mine.filter s.isDemotion) ++ demoteOrder (mine.filter fun l => !s.isDemotion l)) s

/-- Whether a page of a job is on its way out of tier 0. -/
def State.leaving (s : State) (j : Nat) : Bool := s.mem.moves.any fun m => m.job == j && m.srcTier == 0 && m.dstTier != 0

/-- One window's work: the moves left in the budget and the state. -/
abbrev Window := Nat × State

/-- A window's work after a try of a move: one move fewer in the budget where it started. -/
def tried (n : Nat) (x : Bool × State) (yes no : State → State) : Window := if x.1 then (n - 1, yes x.2) else (n, no x.2)

/-- Serves one requested fetch into tier 0 (R167, R170, R283); one that the job's quota does not cover demotes first, and
fails where nothing can be demoted (R302). -/
def State.serveFetch (w : Window) (r : PageReq) : Window :=
  let s := w.2
  match s.leafOf r.job r.va with
  | none => (w.1, s.modMem fun m => { m with pageReqs := m.pageReqs.filter (· != r) })
  | some l =>
    if w.1 = 0 ∨ r.failed.isSome ∨ l.allocated = false ∨ l.tier = 0 ∨ s.movable l = false ∨ s.drawsMove r.job 1 = false then w
    else if s.quotaFits 0 r.job 65536 then tried w.1 (s.tryMove l 0) id id
    else tried w.1 (s.demoteOf r.job) id fun t =>
      if t.leaving r.job then t else (t.failPage r.job r.va 0x22 (65536 * 256)).goOn

/-- Serves one promotion candidate (R294, R295). -/
def State.servePromotion (w : Window) (x : Nat × Nat) : Window :=
  let s := w.2
  let out (s : State) : State := s.modMem fun m => { m with candidates := m.candidates.filter (· != x) }
  match s.leafOf x.1 x.2 with
  | none => (w.1, out s)
  | some l =>
    if l.tier = 0 ∨ l.allocated = false ∨ l.pinned ∨ l.policy = 15 ∨ s.allows l.policy 0 = false then (w.1, out s)
    else if w.1 = 0 ∨ s.drawsMove x.1 1 = false ∨ s.movable l = false then w
    else if s.quotaFits 0 x.1 65536 then tried w.1 (s.tryMove l 0) out out
    else tried w.1 (s.demoteOf x.1) id fun t => if t.leaving x.1 then t else out t

/-- Moves one page of a retargeted range to its preferred tier (R278); a page that is moving waits for the move's end (R298). -/
def State.serveRetarget (w : Window) (x : Nat × Nat) : Window :=
  let s := w.2
  let out (s : State) : State := s.modMem fun m => { m with retargets := m.retargets.filter (· != x) }
  match s.leafOf x.1 x.2 with
  | none => (w.1, out s)
  | some l =>
    if (s.moveOf x.1 x.2).isSome then w
    else if l.tier = l.pref ∨ l.allocated = false ∨ l.pinned ∨ l.policy = 15 ∨ s.allows l.policy l.pref = false ∨
        s.mem.pins.any (fun p => p.job == l.job && p.va == l.va) || (l.tier = 0 && s.regionPage l.job l.va) then (w.1, out s)
    else if s.rowPinned x.1 x.2 then w
    else if w.1 = 0 ∨ s.drawsMove x.1 1 = false ∨ s.movable l = false then w
    else tried w.1 (s.tryMove l l.pref) out out

/-- Starts demotions of candidates while free tier 0 frames stay below low_water (R295). -/
def State.demoteLow : Nat → State → State
  | 0, s => s
  | n + 1, s =>
    let out := (s.mem.moves.filter fun m => m.srcTier == 0 && m.dstTier != 0).length
    if (s.framesFree + out) * 100 < s.reg K.pageLowWater * s.reg K.t0FramesInService then
      let t := State.demoteFirst (demoteOrder (s.mem.leaves.filter s.isDemotion)) s
      if t.1 then State.demoteLow n t.2 else t.2
    else s

/-- A 1 ms window of the migration engine: requested fetches, then promotions, then demotions, at most migrate_pages (R296);
0 stops promotion and demotion alone (R309). -/
def pageMigrationWindow (s : State) : State :=
  if s.powered = false then s
  else
    let s := s.modMem fun m => { m with retired := 0 }
    let n := s.reg K.pageMigratePages
    let fetches : Window := s.mem.pageReqs.foldl State.serveFetch (if n = 0 then s.mem.pageReqs.length else n, s)
    if n = 0 then fetches.2
    else
      let w := fetches.2.mem.candidates.foldl State.servePromotion fetches
      let w := w.2.mem.retargets.foldl State.serveRetarget w
      State.demoteLow w.1 w.2

/-- PAGE_MIGRATION_WINDOW (R296). -/
def execPageMigrationWindow (s : State) : Host.Outcome State Fault Refusal := finish s (pageMigrationWindow s)

/-- The sweep of every unpinned tier 0 page (R295). -/
def pageSweep (s : State) : State :=
  s.modMem fun m => { m with leaves := m.leaves.map fun l =>
    if l.src.isNone && l.allocated && l.tier == 0 && !l.pinned then
      { l with idle := if l.accessed then 0 else l.idle + 1, accessed := false }
    else l }

/-- PAGE_SWEEP (R295). -/
def execPageSweep (s : State) : Host.Outcome State Fault Refusal := finish s (if s.powered then pageSweep s else s)

/-! ### Pages that parked gradients wait for (R170) -/

/-- Moves one pending entry that names a page into its table's gradient region, and frees the entry; one whose epoch was skipped is never
read (R165, R170). -/
def State.landParked (s : State) (j page u w : Nat) : State :=
  match s.pendHeader j u w with
  | .ok h =>
    let table := nb h 12 1
    let e := nb h 8 4
    if bit (nb h 13 1) 0 = false ∨ nb h 16 8 ≠ page ∨ s.epochLive j e = false then s
    else match s.tableOf j table, s.gradDesc j table with
      | .ok t, .ok g =>
        match s.readVa j (s.pendAddr j u w + 64) (4 * t.dim) with
        | .ok sums =>
          let s := match s.leafOf j (page % 2 ^ 48) with | some l => s.pinPage l table e | none => s
          match s.keyedFold j g t.dim (nb h 0 8) e sums with
          | .done t _ =>
            (match t.writeVa j (s.pendAddr j u w) (zeros 64) with
              | .ok t => (match t.leafOf j (page % 2 ^ 48) with
                | some l => (t.count (0x30 + frameStack l.frame) 0x14 1 (some j)).markTouched j table e
                | none => t.markTouched j table e)
              | _ => s)
          | _ => s
        | _ => s
      | _, _ => s
  | _ => s

/-- Whether a pending entry whose epoch may still be committed names a page. -/
def State.parkedFor (s : State) (j page u w : Nat) : Bool :=
  match s.pendHeader j u w with
  | .ok h => bit (nb h 13 1) 0 && nb h 16 8 == page && s.epochLive j (nb h 8 4)
  | _ => false

/-- A requested page is in tier 0: it is pinned, its stack's slice wakes (R22), the pending entries that name it move into the gradient
region, and the
request is over (R170). -/
def pendingPageArrival (i : Nat) (s : State) : State :=
  match s.mem.pageReqs[i]? with
  | none => s
  | some r =>
    match s.leafOf r.job r.va with
    | none => s
    | some l =>
      if l.allocated = false ∨ l.tier ≠ 0 ∨ l.migrating then s
      else
        let ended (s : State) : State := (s.modMem fun m => { m with pageReqs := m.pageReqs.filter (· != r) }).goOn
        if r.table = 0x100 then ended s
        else
          let s := if s.epochLive r.job r.epoch then s.pinPage l r.table r.epoch else s
          let s := if s.sliceUp (frameStack l.frame) then s.wake (.slice (frameStack l.frame)) else s
          let bits := s.reg (K.pendBucketBits r.job)
          if bits = 0 then ended s
          else
            let page := 2 ^ 48 * s.ownNode + r.va
            let all := (List.range (2 ^ bits)).flatMap fun u => (List.range 32).map fun w => (u, w)
            let s := all.foldl (fun s x => s.landParked r.job page x.1 x.2) s
            if all.any fun x => s.parkedFor r.job page x.1 x.2 then s else ended s

/-- PENDING_PAGE_ARRIVAL (R170). -/
def execPendingPageArrival (i : Nat) (s : State) : Host.Outcome State Fault Refusal := finish s (pendingPageArrival i s)

/-! ### Scrub (R307, R416) -/

/-- The last sector of tier 0 and the last unit that tier 1 holds. -/
abbrev t0LastSector : Nat := t0Frames * 65536 - 64

/-- Patrol scrub of unit `u` of chunk `c`: an uncorrectable unit poisons the block of the page that it belongs to; in a chunk that no
container holds there is nothing to poison (R287, R305, R307). -/
def State.scrubUnit1 (s : State) (c u : Nat) (r : ScrubResult) : State :=
  if s.chunkOk c = false then s
  else match r with
    | .clean => s
    | .corrected => (s.bump K.t1Corrected 1).corrected 6 (c % 16) 0
    | .uncorrectable =>
      match s.mem.containers.find? (·.chunks.contains c) with
      | none => (s.bump K.t1Uncorrectable 1).detected.handle 0x03 6 (c % 16) none 0xFF 0x30 (t1Base + 4096 * c + 64 * u)
      | some x => match x.blockAt (64 * x.chunks.idxOf c + u) with
        | some b => s.poison (t1Base + 65536 * x.id + 128 * b)
        | none => s

/-- Patrol scrub reads one sector of tier 0, or one unit of tier 1: corrected data is counted, uncorrectable data poisoned.
`addr` is the place of the sector, or `t1Base` and the place of the unit among the chunks. The last sector of tier 0, and the last unit of
tier 1's chunks, end a pass (R307). -/
def patrolScrub (addr : Nat) (r : ScrubResult) (s : State) : State :=
  if s.powered = false then s
  else if addr < t0Frames * 65536 then
    let f := addr / 65536
    let s := if s.channelUp (frameStack f) (frameChannel f) = false then s else match r with
      | .clean => s
      | .corrected => s.correctedAt addr 1 none
      | .uncorrectable => s.poison (addr / 64 * 64)
    if addr / 64 * 64 = t0LastSector then s.bump32 K.scrubPassesT0 1 else s
  else
    let u := (addr - t1Base) / 64
    let s := if u / 64 < s.chunksTotal then s.scrubUnit1 (u / 64) (u % 64) r else s
    if u = 64 * s.chunksTotal - 1 then s.bump32 K.scrubPassesT1 1 else s

/-- PATROL_SCRUB (R307). -/
def execPatrolScrub (addr : Nat) (r : ScrubResult) (s : State) : Host.Outcome State Fault Refusal :=
  finish s (patrolScrub addr r s)

/-- Whether a class and unit of R428 that SECDED scrub covers name a unit in the grade; class 0x0B is the reduction
buffers'. -/
def State.scrubUnit (s : State) (cls unit : Nat) : Bool :=
  match cls with
  | 1 => s.phrasePresent unit
  | 2 => s.eePresent unit
  | 3 => unit < 12
  | 0x0B => unit = 0
  | _ => false

/-- Whether a structure's code (R204, R227 and the codes of the other units) is one of a unit of a class. -/
def scrubCode (cls structure_ : Nat) : Bool :=
  match cls with
  | 1 => 1 ≤ structure_ && structure_ ≤ 0x0D
  | 2 => structure_ == 0x0E || structure_ == 0x0F
  | 3 => structure_ == 0x10
  | _ => structure_ == 0x11

/-- Scrub of word `off` of an SRAM on the die: a correction is written back and counted; a double-bit error is journalled with the
structure's code, and reaches a command that later reads the word (R416). -/
def onDieScrub (cls unit structure_ off : Nat) (r : ScrubResult) (s : State) : State :=
  if s.powered = false ∨ s.scrubUnit cls unit = false ∨ scrubCode cls structure_ = false then s
  else match r with
    | .clean => s
    | .corrected =>
      let s := if cls = 1 ∧ 6 ≤ structure_ ∧ structure_ ≤ 9 then s.bump32 (K.vecTileCorrected unit) 1 else s
      s.corrected cls unit structure_
    | .uncorrectable =>
      let w := (cls, unit, structure_, off)
      let s := { s with svc := { s.svc with badWords := s.svc.badWords.filter (· != w) ++ [w] } }
      s.detected.handle 0x01 cls unit none 0xFF 0x30 (structure_ + 256 * off)

/-- ON_DIE_SCRUB (R416). -/
def execOnDieScrub (cls unit : Nat) (w : SramWord) (r : ScrubResult) (s : State) : Host.Outcome State Fault Refusal :=
  finish s (onDieScrub cls unit w.code w.offset r s)

/-! ### Thermal rate limits of the stacks (R308) -/

/-- The throttle level that a report in 0.001 °C brings a stack at a level to: the highest level whose entry it reaches;
a level left one by one where the report falls below its exit (R308). -/
def throttleLevel (t h : Nat) (milli : Int) : Nat → Nat
  | level =>
    let enter : Nat → Int := fun l => if l = 1 then 1000 * t else if l = 2 then 1000 * t + 4000 else 96000
    let leave : Nat → Int := fun l => if l = 1 then 1000 * t - 1000 * h else if l = 2 then 1000 * t + 4000 - 1000 * h else 93000
    let up := if milli ≥ enter 3 then 3 else if milli ≥ enter 2 then 2 else if milli ≥ enter 1 then 1 else 0
    if up ≥ level then up
    else
      let d := if level = 3 ∧ milli < leave 3 then 2 else level
      let d := if d = 2 ∧ milli < leave 2 then 1 else d
      let d := if d = 1 ∧ milli < leave 1 then 0 else d
      max up d

/-- The time a stack spent at level 1 or above, up to now, added to its throttled_ms; the rest of a millisecond is kept. -/
def State.throttledTime (s : State) (st : Nat) : State :=
  if s.reg (K.hbmThrottleLevel st) = 0 then s
  else
    let since := cellGet 0 st s.gov.hbmTicks
    let ms := (s.tick + 1 - since) / 25000
    let s := s.bump (K.hbmThrottledMs st) (if since = 0 then 0 else ms)
    { s with gov := { s.gov with hbmTicks := cellPut 0 st (if since = 0 then s.tick + 1 else since + 25000 * ms) s.gov.hbmTicks } }

/-- A stack's throttle level set; a change posts HBM_THROTTLE, and what level 3 held goes on (R308, R371). -/
def State.setThrottle (s : State) (st level : Nat) : State :=
  let s := s.throttledTime st
  if s.reg (K.hbmThrottleLevel st) = level then s
  else
    let was := s.reg (K.hbmThrottleLevel st)
    let s := s.setReg (K.hbmThrottleLevel st) level
    let s := if was = 0 ∨ level = 0 then
        { s with gov := { s.gov with hbmTicks := cellPut 0 st (if level = 0 then 0 else s.tick + 1) s.gov.hbmTicks } }
      else s
    let s := s.postSession 0x44 0xFF (leBytes 1 st ++ leBytes 1 level)
    if was = 3 then s.goOn else s

/-- A temperature report of a stack (R308, R310). -/
def hbmTempReport (st : Nat) (milli : Int) (s : State) : State :=
  if s.powered = false ∨ st ≥ 12 then s
  else
    let s := s.setReg (K.hbmTemperature st) (milli % 2 ^ 32).toNat
    s.setThrottle st (throttleLevel (s.reg K.hbmThreshold) (s.reg K.hbmHysteresis) milli (s.reg (K.hbmThrottleLevel st)))

/-- HBM_TEMP_REPORT (R308). -/
def execHbmTempReport (st : Nat) (milli : Int) (s : State) : Host.Outcome State Fault Refusal :=
  finish s (hbmTempReport st milli s)

/-- A stack has stayed at level 3 for 100 ms (R308, R371). -/
def hbmOvertemp (st : Nat) (s : State) : State :=
  if st < 12 ∧ s.reg (K.hbmThrottleLevel st) = 3 then s.postSession 0x45 0xFF (leBytes 1 st) else s

/-- HBM_OVERTEMP (R308). -/
def execHbmOvertemp (st : Nat) (s : State) : Host.Outcome State Fault Refusal := finish s (hbmOvertemp st s)

/-- A missing report holds its stack at level 2 (R412). -/
def hbmReportTimeout (st : Nat) (s : State) : State :=
  if s.powered = false ∨ st ≥ 12 then s else s.setThrottle st 2

/-- HBM_REPORT_TIMEOUT (R412). -/
def execHbmReportTimeout (st : Nat) (s : State) : Host.Outcome State Fault Refusal := finish s (hbmReportTimeout st s)

end Sys2Proof.Machine
end

