-- ==== Sys2Proof/Machine/Scheduler.lean ====
section
/-! DEFINITION. The scheduler: submission entries (R365, R372), clauses as they are read at admission (R86, R94), steps
(R231 to R233), binding and switching of units (R373, R374), charges (R375, R376), SCHED clauses (R68) and code regions
(R93, R94). -/

namespace Sys2Proof.Machine

/-! ### Submission entries (R365) -/

/-- A submission entry. -/
structure SubEntry where
  idx     : Nat
  kind    : Nat
  cls     : Nat
  region  : Nat
  logical : Nat
  offset  : Nat
  flags   : Nat
  counter : Nat
  value   : Nat
  desc    : Nat
  bytes   : List Byte
  deriving DecidableEq, Repr

/-- The fields of an entry's bytes. -/
def subEntryOf (idx : Nat) (b : List Byte) : SubEntry where
  idx := idx
  kind := nb b 0 1
  cls := nb b 1 1 % 16
  region := nb b 2 1
  logical := nb b 3 1
  offset := nb b 4 4
  flags := nb b 8 1
  counter := nb b 9 1 % 16
  value := nb b 16 8
  desc := nb b 24 8
  bytes := b

/-- Whether a reserved bit of an entry is set (R365). -/
def SubEntry.reserved (e : SubEntry) : Bool :=
  nb e.bytes 1 1 / 16 != 0 || e.flags / 8 != 0 || nb e.bytes 9 1 / 16 != 0 || nb e.bytes 10 6 != 0 || nb e.bytes 32 32 != 0 ||
    (e.kind == 1 && e.desc != 0)

/-- Whether the completion is to be notified. -/
def SubEntry.notify (e : SubEntry) : Bool := bit e.flags 2

/-- The number of logical units of a class that a job may name: P, E, or none where the class names no unit (R104). -/
def State.unitLimit (s : State) (j : Nat) (cls : EngineClass) : Option Nat :=
  match cls with
  | .array | .vector | .move => some (s.reg (K.logicalPhrases j))
  | .embed => some (s.reg (K.logicalEes j))
  | _ => none

/-- Why an entry itself is refused: reason and detail (R365, R104); a physical unit that is absent or out of service is found at decode
(R36, R102). -/
def State.entryRefusal (s : State) (j : Nat) (e : SubEntry) : Option (Nat × Nat) :=
  if e.kind ≠ 1 ∧ e.kind ≠ 2 then some (0x08, e.idx)
  else if e.reserved then some (0x02, e.idx)
  else if e.kind = 2 then none
  else match classOf e.cls with
    | none => some (0x08, e.idx)
    | some c =>
      match s.unitLimit j c with
      | some n => if e.logical ≥ n ∧ s.physical = false then some (0x12, e.logical) else none
      | none => if e.logical ≠ 0xFF then some (0x12, e.logical) else none

/-- The scheduler's next entry of a job, where its producer index has passed it. -/
def State.nextEntry (s : State) (j : Nat) : Option (Acc SubEntry) :=
  let idx := s.reg (K.sqConsumed j)
  let n := s.reg (K.sqEntries j)
  if n = 0 ∨ sub32 (s.job j).sqProduced idx = 0 then none
  else some (accBind (s.readVa j (s.reg (K.sqBase j) + 64 * (idx % n)) 64) fun b => .ok (subEntryOf idx b))

/-! ### Clauses as admission reads them (R86, R94) -/

/-- A clause read at admission. -/
structure Draft where
  region  : Nat
  base    : Nat
  open_   : Nat
  count   : Nat
  decls   : Nat
  energy  : Nat
  phrase  : Nat
  fixedR  : Nat
  fixedW  : Nat
  reads   : Nat
  writes  : Nat
  tag     : Nat
  cmds    : List QCmd
  deriving DecidableEq, Repr

/-- Why a clause is refused: reason, detail, address and index of the command, its opcode, its tag. -/
structure Refused where
  reason : Nat
  detail : Nat
  addr   : Nat
  idx    : Nat
  op     : Nat
  tag    : Nat
  deriving DecidableEq, Repr

/-- State bits of a code region: 0 IDLE, 1 ACTIVE, 2 RETIRING (R92). -/
def State.codeState (s : State) (j r : Nat) : Nat := bits (s.reg (K.codeLenState j r)) 24 2

/-- Length of a code region in 256-byte lines. -/
def State.codeLines (s : State) (j r : Nat) : Nat := bits (s.reg (K.codeLenState j r)) 0 24

/-- The region a clause that names `r` fetches from, by the standing redirects (R94). -/
def State.redirected (s : State) (j : Nat) : Nat → Nat → Nat
  | 0, r => r
  | fuel + 1, r =>
    if s.codeState j r = 1 then r
    else match (s.job j).redirects.find? (·.1 == r) with
      | some x => s.redirected j fuel x.2
      | none => r

/-- The masks that a clause's CLAUSE_DECL commands declare for one direction: 256 bits. -/
def declMask (dir : Nat) (l : List Nat) : Nat :=
  l.foldl (fun m w => if bits w 32 1 = dir then m ||| (bits w 128 128 * 2 ^ (128 * bits w 33 1)) else m) 0

/-- The reserved bits of CLAUSE_OPEN and CLAUSE_DECL. -/
def openReserved (w : Nat) : Bool :=
  reservedSet w [(0, 8), (16, 16), (32, 4), (40, 8), (48, 3), (56, 8), (64, 16), (80, 16), (128, 64)]
/-- See `openReserved`. -/
def declReserved (w : Nat) : Bool := reservedSet w [(0, 8), (32, 2), (128, 128)]

/-- Whether decl_phrase breaks R77, or a clause that may declare nothing declares (R68, R77). An EMBED clause declares regions where its
decl_count is not 0, whatever the masks of its CLAUSE_DECLs hold (DESIGN CHOICE, log 88). -/
def badDeclPhrase (cls : EngineClass) (phrase decls : Nat) : Bool :=
  match cls with
  | .embed => (phrase == 0xFF) == (decls != 0)
  | .array | .vector | .move => phrase != 0xFF
  | _ => phrase != 0xFF || decls != 0

/-- The commands `i` to `i + n − 1` of a clause at an address, each with its bytes or why they cannot be read. -/
def State.readCmds (s : State) (j base : Nat) : Nat → Nat → Acc (List QCmd)
  | 0, _ => .ok []
  | n + 1, i =>
    let addr := base + 32 * i
    let c (w : Nat) (bad : Option (Nat × Nat)) : QCmd :=
      { seq := 0, idx := i, addr := addr, word := w, bad := bad, prog := 0, pos := 0, again := false }
    let x : Acc QCmd := match s.readVa j addr 32 with
      | .ok b => .ok (c (leNat b) none)
      | .fail r d => .ok (c 0 (some (r, d)))
      | .far n a l => .far n a l
      | .wait => .wait
    accBind x fun q => accBind (s.readCmds j base n (i + 1)) fun l => .ok (q :: l)

/-- A clause refused at one of its commands with CLAUSE_MALFORMED. -/
def malformed (base k tag op : Nat) : Refused :=
  { reason := 0x08, detail := 0, addr := base + 32 * k, idx := k, op := op, tag := tag }

/-- The checks of R86 that need the CLAUSE_OPEN alone. -/
def openBad (cls : EngineClass) (w room : Nat) : Bool :=
  let n := cb w 2 2
  let d := bits w 48 3
  cb w 0 1 != 0x01 || bits w 32 4 != clsCode cls || n == 0 || n < 1 + d || d ≥ 5 || cb w 5 1 > 15 || room == 0 ||
    (!clsOfPhrase cls && (cb w 8 2 != 0 || cb w 10 2 != 0)) || badDeclPhrase cls (cb w 7 1) d

/-- The place of the first CLAUSE_DECL that breaks R86: one missing, a pair declared twice, or one too many. -/
def declBad (d : Nat) (cmds : List QCmd) : Option Nat :=
  let at' (k : Nat) : Nat := (cmds[k]?.map (·.word)).getD 0
  match (List.range' 1 d).find? fun k =>
    cb (at' k) 0 1 != 0x02 || (List.range' 1 (k - 1)).any fun i => bits (at' i) 32 2 == bits (at' k) 32 2 with
  | some k => some k
  | none => if (cmds[d + 1]?.map fun c => cb c.word 0 1) == some 0x02 then some (d + 1) else none

/-- The clause an entry names: read whole, refused, or bytes to be fetched (R86, R94). -/
def State.readClause (s : State) (j : Nat) (e : SubEntry) (cls : EngineClass) : Acc (Refused ⊕ Draft) :=
  let undefinedRegion (r : Nat) : Acc (Refused ⊕ Draft) :=
    .ok (.inl { reason := 0x13, detail := 1 + 256 * r, addr := 0, idx := 0, op := 0, tag := 0 })
  if e.region > 15 then undefinedRegion e.region
  else
    let r := s.redirected j 16 e.region
    let lines := s.codeLines j r
    if !(s.codeState j r == 1 || (s.codeState j r == 0 && cls == .sched && lines != 0 && r == e.region)) then undefinedRegion r
    else
      let base := s.reg (K.codeBase j r) + 32 * e.offset
      let room := 8 * lines - e.offset
      if room = 0 then .ok (.inl (malformed base 0 0 0))
      else
        accBind (s.readCmds j base 1 0) fun first =>
        match first with
        | [] => .wait
        | o :: _ =>
          let w := o.word
          let tag := cb w 16 8
          match o.bad with
          | some (x, d) => .ok (.inl { reason := x, detail := d, addr := base, idx := 0, op := 0, tag := 0 })
          | none =>
            if openBad cls w room then .ok (.inl (malformed base 0 (if cb w 0 1 = 1 then tag else 0) (cb w 0 1)))
            else
              let n := cb w 2 2
              let d := bits w 48 3
              if n > room then .ok (.inl (malformed base room tag 0))
              else
                accBind (s.readCmds j base n 0) fun cmds =>
                match declBad d cmds with
                | some k => .ok (.inl (malformed base k tag (cb ((cmds[k]?.map (·.word)).getD 0) 0 1)))
                | none =>
                  let ds := (cmds.drop 1).take d
                  if openReserved w then
                    .ok (.inl { reason := 0x02, detail := 0, addr := base, idx := 0, op := 0x01, tag := tag })
                  else match ds.find? fun c => declReserved c.word with
                    | some c => .ok (.inl { reason := 0x02, detail := 0, addr := c.addr, idx := c.idx, op := 0x02, tag := tag })
                    | none =>
                      let p := cb w 7 1
                      let unitBad : Option (Nat × Nat) :=
                        if cls ≠ .embed ∨ p = 0xFF ∨ s.physical then none
                        else if p ≥ s.reg (K.logicalPhrases j) then some (0x12, p) else none
                      match unitBad with
                      | some (x, y) => .ok (.inl { reason := x, detail := y, addr := base, idx := 0, op := 0x01, tag := tag })
                      | none =>
                        let words := ds.map (·.word)
                        .ok (.inr { region := r, base := base, open_ := w, count := n, decls := d, energy := cb w 5 1,
                                    phrase := p, fixedR := cb w 8 2, fixedW := cb w 10 2, reads := declMask 0 words,
                                    writes := declMask 1 words, tag := tag, cmds := cmds })

/-- Whether a command word is an AGREE, COMMIT, EXPORT or STEP_RELEASE (R99). -/
def isKept (w : Nat) : Bool := cb w 0 1 == 0x71 || cb w 0 1 == 0x60 || cb w 0 1 == 0x62 || cb w 0 1 == 0x73

/-- Whether a draft holds a command with an opcode. -/
def Draft.has (d : Draft) (op : Nat) : Bool := d.cmds.any fun c => c.bad.isNone && cb c.word 0 1 == op

/-- The tables that commands of an opcode in a draft name. -/
def Draft.tables (d : Draft) (op : Nat) : List Nat :=
  ((d.cmds.filter fun c => c.bad.isNone && cb c.word 0 1 == op).map fun c => cb c.word 4 1).eraseDups

/-! ### Completion of entries that are not admitted -/

/-- A completion slot beyond the consumer index is free (R368). -/
def State.slotFree (s : State) (j : Nat) : Bool :=
  sub32 (s.reg (K.cqProduced j)) (s.job j).cqConsumed + (s.job j).cqReserved < s.reg (K.cqEntries j)

/-- An entry is consumed. -/
def State.consume (s : State) (j : Nat) : State := s.setReg (K.sqConsumed j) ((s.reg (K.sqConsumed j) + 1) % 2 ^ 32)

/-- A slot reserved. -/
def State.reserveSlot (s : State) (j : Nat) : State := s.modJob j fun c => { c with cqReserved := c.cqReserved + 1 }

/-- An entry completes NOT_STARTED and is consumed (R86, R365). -/
def State.refuseEntry (s : State) (j : Nat) (e : SubEntry) (x : Refused) : State :=
  let seq := s.nextSeq
  let s := ({ s with nextSeq := seq + 1 }).reserveSlot j
  let rec' := haltRecord x.addr x.reason e.cls false false 0xFF e.logical j x.op x.idx x.detail seq 0
  (s.completeEntry j (completionEntry x.tag seq ccNotStarted false false e.cls e.logical rec' s.tick e.idx) e.notify).consume j

/-- A refusal that names no command. -/
def plainRefusal (reason detail : Nat) : Refused := { reason := reason, detail := detail, addr := 0, idx := 0, op := 0, tag := 0 }

/-! ### Binding and switching (R30, R373, R374) -/

/-- Clauses that hold a phrase or an EE: they run on it, or declare on it (R88). -/
def holdsUnit (phrase : Bool) (n : Nat) (c : Clause) : Bool :=
  if phrase then holdsOn c n else c.cls == .embed && c.unit == n

/-- Whether a unit has no admitted, uncompleted clause. -/
def State.unitFree (s : State) (phrase : Bool) (n : Nat) : Bool := !s.clauses.any (holdsUnit phrase n)

/-- The class under which a binding stands. -/
def bindClass (phrase : Bool) : EngineClass := if phrase then .array else .embed

/-- A phrase gets a job's state: the holder's is saved, the newcomer's restored (R374); at a job's first binding its LFSRs are loaded
(R48). R374 saves the defined regions and the fixed state; that the other bytes of the local buffer come back as well is a DESIGN
CHOICE (log 82). -/
def State.switchPhrase (s : State) (n j logical : Nat) : State :=
  match s.phrases[n]? with
  | none => s
  | some p =>
    if p.holder = some (j, logical) then s
    else
      let s := match p.holder with
        | some (k, l) =>
          let s : State := { s with saved := s.saved.filter (fun (x : Nat × Nat × PhraseCtx) => !(x.1 == k && x.2.1 == l)) ++ [(k, l, p.ctx)] }
          s.bump (K.switches j) 1
        | none => s
      let ctx := match s.saved.find? fun x => x.1 == j && x.2.1 == logical with
        | some x => x.2.2
        | none => { PhraseCtx.reset with lfsr := Lanes.load (s.reg (K.laneSeed j)) (512 * n) }
      { s with
        svc := { s.svc with badWords := s.svc.badWords.filter fun m => !(m.1 == 1 && m.2.1 == n) }
        saved := s.saved.filter fun (x : Nat × Nat × PhraseCtx) => !(x.1 == j && x.2.1 == logical)
        phrases := s.phrases.modify n fun p => { p with holder := some (j, logical), ctx := ctx } }

/-- An EE goes to another job or logical EE once its combining table has been flushed and its trackers are empty (R30, R374):
the state, and whether it has gone. -/
def State.switchEe (s : State) (k j logical : Nat) : State × Bool :=
  let x := s.ee k
  if x.holder = some (j, logical) then (s, true)
  else if x.comb ≠ [] then (s.flushSome k noClause (fun _ => true) 4097, false)
  else if x.partials ≠ [] ∨ x.trackers ≠ [] then (s, false)
  else
    let s := if x.holder.isSome then s.bump (K.switches j) 1 else s
    (s.modEe k fun e => { e with holder := some (j, logical) }, true)

/-- A unit changes hands: the binding, and the state on the unit. -/
def State.switchUnit (s : State) (phrase : Bool) (n j logical since : Nat) (wanted : Option (Nat × Nat)) : State × Bool :=
  let r := if phrase then (s.switchPhrase n j logical, true) else s.switchEe n j logical
  if r.2 = false then (r.1, false)
  else
    let cls := bindClass phrase
    let s := r.1
    let s : State := { s with bindings := s.bindings.filter (fun (b : Binding) => !(b.cls == cls && (b.unit == n || (b.job == j && b.logical == logical)))) ++
      [{ job := j, cls := cls, logical := logical, unit := n, since := since, wanted := wanted }] }
    let code := clsCode cls
    if (s.job j).rebound.contains (code, logical) then
      ((s.modJob j fun c => { c with rebound := c.rebound.filter (· != (code, logical)) }).postJob j 0x01
        (leBytes 1 (if phrase then 1 else 2) ++ leBytes 1 logical ++ leBytes 1 n), true)
    else (s, true)

/-- Units of a kind that are in service, ascending. -/
def State.unitsUp (s : State) (phrase : Bool) : List Nat :=
  if phrase then (List.range 8).filter s.phraseUp else (List.range 16).filter s.eeUp

/-- Whether the next clause of a job waits on its arrival counter (R343). -/
def State.counterWait (s : State) (j : Nat) : Bool :=
  match s.nextEntry j with
  | some (.ok e) => e.kind == 1 && (s.entryRefusal j e).isNone && bit e.flags 1 && s.reg (K.arrivalCounter j e.counter) < e.value
  | _ => false

/-- The binding that a job takes over: of a lower priority, or of its own where it runs several logical units on one physical
unit (R31), or of an equal one beyond quantum; the one bound the longest (R373). -/
def State.takeable (s : State) (phrase : Bool) (j : Nat) : Option Binding :=
  let p := s.reg (K.priority j)
  let mine := s.bindings.filter fun b => b.cls == bindClass phrase && b.wanted.isNone &&
    (if phrase then s.phraseUp b.unit else s.eeUp b.unit) &&
    (s.reg (K.priority b.job) < p || (b.job == j && s.unitFree phrase b.unit) ||
      (b.job != j && s.reg (K.priority b.job) == p && s.tick - b.since ≥ 25 * s.reg K.quantum))
  mine.foldl (fun (best : Option Binding) b => match best with
    | none => some b
    | some x => if s.reg (K.priority b.job) < s.reg (K.priority x.job) ∨
        (s.reg (K.priority b.job) = s.reg (K.priority x.job) ∧ b.since < x.since) then some b else some x) none

/-- A unit on which a fillable clause may run: in a bubble, of another job that accepts fillers (R343). -/
def State.bubble (s : State) (phrase : Bool) (j : Nat) : Option Binding :=
  s.bindings.find? fun b => b.cls == bindClass phrase && b.job != j && b.wanted.isNone && s.reg (K.acceptFillers b.job) == 1 &&
    s.unitFree phrase b.unit && s.counterWait b.job && (if phrase then s.phraseUp b.unit else s.eeUp b.unit)

/-- The binding of a unit wanted by another. -/
def State.setWanted (s : State) (b : Binding) (w : Option (Nat × Nat)) : State :=
  { s with bindings := s.bindings.map fun x => if x == b then { x with wanted := w } else x }

/-- Binds a logical unit for a clause: the physical unit, or none yet; the state may have changed either way. The third
part tells a filler. No clause is bound to a unit that leaves service (R105); a physical number of a unit that is not in service stands as
it is, and the clause halts there (R36). -/
def State.bindUnit (s : State) (phrase : Bool) (j logical : Nat) (fillable : Bool) : Option (Nat × Bool) × State :=
  let take (s : State) (n since : Nat) (wanted : Option (Nat × Nat)) (filler : Bool) : Option (Nat × Bool) × State :=
    let r := s.switchUnit phrase n j logical since wanted
    (if r.2 then some (n, filler) else none, r.1)
  let cls := bindClass phrase
  if s.physical then
    let holder := if phrase then (s.phrases[logical]?).bind (·.holder) else (s.ee logical).holder
    if (if phrase then s.phraseUp logical else s.eeUp logical) = false then (some (logical, false), s)
    else if holder = some (j, logical) ∨ s.unitFree phrase logical then take s logical s.tick none false else (none, s)
  else match s.bindings.find? fun b => b.cls == cls && b.job == j && b.logical == logical with
    | some b =>
      if b.wanted.isNone ∧ (if phrase then s.phraseUp b.unit else s.eeUp b.unit) then (some (b.unit, false), s)
      else (none, s)
    | none =>
      match s.bindings.find? fun b => b.cls == cls && b.wanted == some (j, logical) with
      | some b => if s.unitFree phrase b.unit then take s b.unit s.tick none false else (none, s)
      | none =>
        match (s.unitsUp phrase).find? fun n => !s.bindings.any fun b => b.cls == cls && b.unit == n with
        | some n => take s n s.tick none false
        | none =>
          match s.takeable phrase j with
          | some b =>
            if s.unitFree phrase b.unit then take s b.unit s.tick none false
            else (none, s.setWanted b (some (j, logical)))
          | none =>
            if fillable then match s.bubble phrase j with
              | some b => take s b.unit 0 (some (b.job, b.logical)) true
              | none => (none, s)
            else (none, s)

/-! ### Charges (R375, R376) -/

/-- Declared power of an energy class as nJ per 1 ms window and AON tick: 20 nJ a tick is 0.5 W (R375). -/
def energyPower (c : Nat) : Nat :=
  20 * ([0, 1, 2, 4, 8, 12, 16, 24, 32, 48, 64, 96, 128, 256, 512, 1024].getD c 0)

/-- The charge of a class for the rest of the window, in nJ. -/
def State.chargeOf (s : State) (c : Nat) : Nat :=
  energyPower c * (25000 - min 25000 (s.tick - s.gov.windowStart))

/-! ### Admission (R372) -/

/-- Whether anything is admitted now: fast domains on, the job's core and core 0 up, no update pause, no power-fail hold
(R372, R379, R380, R406). -/
def State.admits (s : State) (j : Nat) : Bool :=
  s.powered && !s.svc.coreDown.contains (j % 2) && !s.svc.coreDown.contains 0 && s.trust.updateReq.isNone && !s.gov.gatePfw &&
    s.reg (K.jobState j) == jsRunning && !s.sched.any fun r => r.clause.job == j

/-- The job's current step, as its submission entries go: the last one opened (R231). -/
def State.currentStep (s : State) (j : Nat) : Option Step :=
  match (s.job j).lastStep with
  | some n => s.stepOf j n
  | none => none

/-- Whether look-ups of a table wait for the COMMIT of an earlier step that updates it (R27). -/
def State.lookupsWait (s : State) (j step : Nat) (tables : List Nat) : Bool :=
  s.steps.any fun t => t.job == j && t.number < step && t.state != .ellipsis && t.state != .abandoned &&
    tables.any fun n => !t.committed.contains n &&
      (t.scattered.contains n || s.mem.touched.contains (j, n, t.epoch % 2 ^ 32))

/-- Whether a tier 0 frame is on a channel or a stack that is being retired (R432). -/
def State.frameLeaves (s : State) (f : Nat) : Bool :=
  s.reg (K.channelService (16 * frameStack f + frameChannel f)) == 1 || s.reg (K.stackService (frameStack f)) == 1

/-- Whether a page is to move off its frame: its channel or stack is being retired, or the slice of its stack leaves service and
it holds parameter records (R432). -/
def State.pageLeaves (s : State) (l : Leaf) : Bool :=
  l.allocated && l.src.isNone && l.tier == 0 &&
    ((List.range (leafFrames l)).any (fun i => s.frameLeaves (l.frame + i)) ||
      (s.reg (K.sliceService (frameStack l.frame)) == 1 && s.paramPage l.job l.va))

/-- Whether pages on their way off a stack hold a clause back (R432): a COMMIT while a slice leaves service, and a clause of a code
region that such a page holds. -/
def State.retireWait (s : State) (j : Nat) (commit : Bool) (base bytes : Nat) : Bool :=
  (commit && (List.range 12).any fun k => s.reg (K.sliceService k) == 1) ||
    (s.isMe (base / 2 ^ 48) && (pagesOf (base % 2 ^ 48) bytes).any fun o =>
      match s.leafOf j o with
      | some l => (match s.home l o with | some h => s.pageLeaves h.1 | none => false)
      | none => false)

/-- Clauses that hold declarations on a phrase (R88). -/
def State.boardHeld (s : State) (n : Nat) : Nat := (s.clauses.filter fun c => holdsOn c n).length

/-- Where a clause would run. -/
structure Berth where
  unit     : Nat
  declUnit : Nat
  filler   : Bool
  deriving DecidableEq, Repr

/-- Binds the units of a clause: its phrase or EE, and the phrase whose regions an EMBED clause declares (R67, R66, R373). -/
def State.berth (s : State) (j : Nat) (cls : EngineClass) (e : SubEntry) (d : Draft) : Option Berth × State :=
  let fill := bit e.flags 0
  match cls with
  | .array | .vector | .move =>
    let r := s.bindUnit true j e.logical fill
    (r.1.map fun x => { unit := x.1, declUnit := x.1, filler := x.2 }, r.2)
  | .embed =>
    if d.phrase = 0xFF then
      let r := s.bindUnit false j e.logical fill
      (r.1.map fun x => { unit := x.1, declUnit := 0xFF, filler := x.2 }, r.2)
    else
      match s.bindUnit true j d.phrase false with
      | (none, s) => (none, s)
      | (some p, s) =>
        let r := s.bindUnit false j e.logical fill
        (r.1.map fun x => { unit := x.1, declUnit := p.1, filler := x.2 }, r.2)
  | .update => (if (List.range 12).any s.sliceUp then some { unit := 0xFF, declUnit := 0xFF, filler := false } else none, s)
  | .fabric => (some { unit := j % 16, declUnit := 0xFF, filler := false }, s)
  | .sched => (some { unit := 0xFF, declUnit := 0xFF, filler := false }, s)

/-- The clause as it is admitted. -/
def State.draftClause (s : State) (j : Nat) (cls : EngineClass) (e : SubEntry) (d : Draft) (b : Berth) (step : Option Nat) : Clause where
  seq := s.nextSeq
  job := j
  cls := cls
  unit := b.unit
  logical := e.logical
  region := d.region
  base := d.base
  count := d.count
  energy := d.energy
  declUnit := b.declUnit
  declPhrase := d.phrase
  declCount := d.decls
  fixedR := d.fixedR
  fixedW := d.fixedW
  reads := d.reads
  writes := d.writes
  tag := d.tag
  ringIdx := e.idx
  step := step
  notify := e.notify
  filler := b.filler
  overflow := false
  nonfinite := false
  wrote := false
  begun := false
  charged := true
  held := false
  keeps := d.cmds.any fun c => c.bad.isNone && isKept c.word
  unitsLeft := if cls = .update then (List.range 12).filter s.sliceUp else [b.unit]
  next := 0
  replays := 0
  rows := 0
  noted := none

/-- The queues that take a clause (R67). -/
def clauseQueues (c : Clause) : List QueueId :=
  match c.cls with
  | .update => c.unitsLeft.map fun k => ⟨.update, k⟩
  | .sched => []
  | k => [⟨k, c.unit⟩]

/-- A clause enters a queue: behind the commands of its job that core 2 holds there, if any (R98). The unit wakes (R22). -/
def State.enqueue (s : State) (q : QueueId) (c : Clause) : State :=
  let s := s.modQueue q fun (Q : Queue) =>
    if Q.held.any fun h => h.halt.job == c.job then
      { Q with held := Q.held.map fun (h : HeldJob) => if h.halt.job == c.job then { h with unread := h.unread ++ [(c.seq, 0)] } else h }
    else { Q with unread := Q.unread ++ [(c.seq, 0)] }
  let s := match queuePower q with | some u => s.wake u | none => s
  s.fill q

/-- Tables that a draft's commands name: those of its look-ups and scatters, or those whose parameter set its COMMITs and EXPORTs name
(R176). -/
def State.namedTables (s : State) (j cls : Nat) (d : Draft) : List Nat :=
  if cls = 3 then (d.tables 0x50 ++ d.tables 0x51).eraseDups
  else if cls = 4 then
    let sets := d.tables 0x60 ++ d.tables 0x62
    (List.range (s.reg (K.tableCount j))).filter fun n => match s.tableOf j n with | .ok t => sets.contains t.pset | _ => false
  else []

/-- A clause of a unit that has no queue is over: a physical number that no unit of any grade bears halts it with UNIT_ABSENT (R4, R36). -/
def State.haltAbsent (s : State) (c : Clause) (word : Nat) : State :=
  let q : QueueId := ⟨c.cls, c.unit⟩
  let cmd : QCmd := { seq := c.seq, idx := 0, addr := c.base, word := word, bad := none, prog := 0, pos := 0, again := false }
  let h : Halt := { cmd := cmd, job := c.job, reason := 0x10, resumable := false, begun := false, detail := c.unit, progress := 0, pos := 0,
                    page := 0, decided := true, need := 0 }
  (s.handle (haltKind 0x10) (queueClass q) q.unit none c.job 0x10 c.unit).endHalted q h

/-- A clause is admitted: its slot, its number, its declarations, its charge (R89, R368, R376). -/
def State.admitted (s : State) (j : Nat) (e : SubEntry) (d : Draft) (c : Clause) : State :=
  let s := ((s.reserveSlot j).consume j).bump (K.clausesAdmitted j) 1
  let s := if c.filler then s.bump (K.fillerClauses j) 1 else s
  let s := s.chargeJob j (s.chargeOf d.energy)
  let s := { s with nextSeq := c.seq + 1, clauses := s.clauses ++ [c] }
  let s := match c.step with
    | some n => s.modStep j n fun t => { t with
        scattered := (t.scattered ++ d.tables 0x51).eraseDups
        agreeSeq := if t.agreeSeq.isNone && d.has 0x71 then some c.seq else t.agreeSeq }
    | none => s
  let s := (s.namedTables j e.cls d).foldl (fun s n =>
      match s.tableOf j n with | .ok t => s.listSlots j t | .far n a l => s.fetchFar j n a l | _ => s) s
  let s := if c.cls = .update ∧ d.has 0x60 then ((List.range 12).filter s.sliceUp).foldl (fun s k => s.fillRecipes j k) s else s
  if c.cls = .sched then
    if d.count ≤ 1 then s.finishClause c ccComplete (completeRecord c 0 0x01 0)
    else { s with sched := s.sched ++ [{ clause := c, next := 1, left := d.cmds.drop 1 }] }
  else if s.physical && (clsOfPhrase c.cls && decide (c.unit ≥ 8) || c.cls == .embed && decide (c.unit ≥ 16)) then s.haltAbsent c d.open_
  else (clauseQueues c).foldl (fun s q => s.enqueue q c) s

/-! ### Clauses whose unit has left service (R31, R105) -/

/-- Whether a clause that has been admitted waits for another unit, or an UPDATE clause for the slices that stay (R105). -/
def isHomeless (c : Clause) : Bool :=
  (c.unit == 0xFF && (clsOfPhrase c.cls || c.cls == .embed)) || (c.cls == .update && c.unitsLeft == [0xFF])

/-- Whether a job has a clause that waits for another unit; it admits none meanwhile. -/
def State.homeless (s : State) (j : Nat) : Bool := s.clauses.any fun c => c.job == j && isHomeless c

/-- Queues an UPDATE clause that was taken from a leaving slice on the slices in service, after the job's earlier ones; one that holds a
COMMIT or an EXPORT waits while parameter pages move (R105, R432; DEDUCED, log 86). -/
def State.rehomeUpdate (s : State) (c : Clause) : State :=
  let up := (List.range 12).filter s.sliceUp
  if up = [] ∨ s.retireWait c.job c.keeps c.base (32 * c.count) ∨
      (s.clauses.any fun x => isHomeless x && x.cls == .update && x.job == c.job && decide (x.seq < c.seq)) then s
  else
    let s := s.modClause c.seq fun y => { y with unitsLeft := up }
    up.foldl (fun s k => (s.fillRecipes c.job k).enqueue ⟨.update, k⟩ c) s

/-- Binds a clause that waits for another unit, where one can be had, and queues it there; its commands are fetched again
(R105). -/
def State.rehome (s : State) (c : Clause) : State :=
  if c.cls = .update then s.rehomeUpdate c
  else if clsOfPhrase c.cls then
    match s.bindUnit true c.job c.logical false with
    | (none, s) => s
    | (some x, s) =>
      let s := s.modClause c.seq fun y => { y with unit := x.1, declUnit := x.1, unitsLeft := [x.1] }
      s.enqueue ⟨c.cls, x.1⟩ c
  else
    let r : Option Nat × State :=
      if c.declUnit ≠ 0xFF ∨ c.declPhrase = 0xFF then (some c.declUnit, s)
      else match s.bindUnit true c.job c.declPhrase false with
        | (none, s) => (none, s)
        | (some x, s) => (some x.1, s.modClause c.seq fun y => { y with declUnit := x.1 })
    match r with
    | (none, s) => s
    | (some _, s) =>
      match s.bindUnit false c.job c.logical false with
      | (none, s) => s
      | (some x, s) => (s.modClause c.seq fun y => { y with unit := x.1, unitsLeft := [x.1] }).enqueue ⟨.embed, x.1⟩ c

/-- Every clause that waits for another unit, in the order of admission. -/
def State.rehomeAll (s : State) : State := (s.clauses.filter isHomeless).foldl (fun s c => s.rehome c) s

/-- What an attempt at a job's next entry comes to: nothing; a state in which it was consumed or something under way for it
has changed; or a clause that credits alone hold back, with the state in which its units are bound. -/
inductive Attempt
  | nothing
  | ended (s : State)
  | ready (s : State) (e : SubEntry) (d : Draft) (c : Clause)

/-- Bytes an attempt needs from another module are fetched. -/
def awaitFar {α : Type} (s : State) (j : Nat) (x : Acc α) : Attempt :=
  match x with
  | .far n a l => .ended (s.fetchFar j n a l)
  | _ => .nothing

/-- The attempt to admit a clause whose entry is sound and whose step is `step`. -/
def State.attemptClause (s : State) (j : Nat) (e : SubEntry) (cls : EngineClass) (step : Option Step) : Attempt :=
  if bit e.flags 1 ∧ s.reg (K.arrivalCounter j e.counter) < e.value then .nothing
  else match s.readClause j e cls with
    | .ok (.inl x) => if s.slotFree j then .ended (s.refuseEntry j e x) else .nothing
    | .ok (.inr d) =>
      match step with
      | some t =>
        if t.why ≠ 0 ∧ !(d.cmds.any fun c => c.bad.isNone && isKept c.word) then
          if s.slotFree j then
            .ended (s.refuseEntry j e { reason := 0x51, detail := t.why % 256, addr := d.base, idx := 0, op := 0x01, tag := d.tag })
          else .nothing
        else if s.slotFree j = false ∨ s.lookupsWait j t.number (d.tables 0x50) ∨ s.retireWait j (d.has 0x60) d.base (32 * d.count) ∨ ((s.job j).ckpt ∧ d.has 0x60) then .nothing
        else match s.berth j cls e d with
          | (none, s) => .ended s
          | (some b, u) =>
            if b.declUnit ≠ 0xFF ∧ u.boardHeld b.declUnit ≥ 64 then .ended u
            else .ready u e d (u.draftClause j cls e d b (some t.number))
      | none =>
        if s.slotFree j = false ∨ s.retireWait j (d.has 0x60) d.base (32 * d.count) then .nothing
        else .ready s e d (s.draftClause j cls e d { unit := 0xFF, declUnit := 0xFF, filler := false } none)
    | x => awaitFar s j x

/-- The attempt to admit a job's next entry, if it is a clause or none that can be read. -/
def State.attempt (s : State) (j : Nat) : Attempt :=
  let isOpen := s.reg K.sessionState == ssOpen
  let silent := s.reg K.sessionState == ssSilent
  if s.admits j = false ∨ !(isOpen || silent) ∨ s.homeless j then .nothing
  else match s.nextEntry j with
    | none => .nothing
    | some (.ok e) =>
      if (s.job j).terminated then
        if isOpen ∧ e.kind ≠ 2 ∧ s.slotFree j then .ended (s.refuseEntry j e (plainRefusal 0x50 0)) else .nothing
      else if e.kind = 2 then .nothing
      else match s.entryRefusal j e with
        | some (r, d) => if isOpen ∧ s.slotFree j then .ended (s.refuseEntry j e (plainRefusal r d)) else .nothing
        | none =>
          match classOf e.cls with
          | none => .nothing
          | some .sched => if isOpen then s.attemptClause j e .sched none else .nothing
          | some cls =>
            match (s.job j).refused with
            | some i => if isOpen ∧ s.slotFree j then .ended (s.refuseEntry j e (plainRefusal 0x13 (6 + 256 * (i % 256)))) else .nothing
            | none =>
              match s.currentStep j with
              | some t => s.attemptClause j e cls (some t)
              | none => .nothing
    | some (.fail r _) =>
      let idx := s.reg (K.sqConsumed j)
      let e : SubEntry := { subEntryOf idx [] with idx := idx, logical := 0xFF }
      if isOpen ∧ s.slotFree j then
        .ended ((s.refuseEntry j e (plainRefusal (if (s.job j).terminated then 0x50 else r)
          (if (s.job j).terminated then 0 else idx))).park j 0x05)
      else .nothing
    | some x => awaitFar s j x

/-- Whether the pool covers a clause: it does, or no clause is resident, or the clause is of class 0 (R376). -/
def State.covers (s : State) (energy : Nat) : Bool :=
  energy == 0 || decide ((s.chargeOf energy : Int) ≤ s.gov.credit) || s.clauses == []

/-- The waiting job that comes first: by priority, then by arrival. -/
def State.waitOrder (s : State) : List Waiting :=
  sortBy (fun a b =>
    decide (s.reg (K.priority b.job) < s.reg (K.priority a.job)) ||
      (s.reg (K.priority a.job) == s.reg (K.priority b.job) && decide (a.since ≤ b.since))) s.waiting

/-- A job's wait for credits is over. -/
def State.waitOver (s : State) (w : Waiting) : State :=
  { s with waiting := s.waiting.filter (·.job != w.job) }

/-- admit_waiting (R376): each job's first waiting clause in order; one that has waited 4 windows ends the pass. -/
def State.admitPass (s : State) : List Waiting → State
  | [] => s
  | w :: ws =>
    match s.attempt w.job with
    | .nothing => (s.waitOver w).admitPass ws
    | .ended t => (t.waitOver w).admitPass ws
    | .ready t e d c =>
      if t.covers d.energy then
        let t := (t.waitOver w).bump (K.creditWaitTicks w.job) (t.tick - w.since)
        (t.admitted w.job e d c).admitPass ws
      else if w.windows ≥ 4 then s
      else s.admitPass ws

/-- ADMIT_WAITING (R376). -/
def admitWaiting (s : State) : State :=
  if s.coreOut 0 then s
  else
    let s := s.rehomeAll
    s.admitPass s.waitOrder

/-- ADMIT_WAITING (R376). -/
def execAdmitWaiting (s : State) : Host.Outcome State Fault Refusal := finish s (admitWaiting s)

/-- The scheduler takes a job's next entry: refused, admitted, or waiting for credits behind those that wait already (R372,
R376). -/
def submissionEntry (j : Nat) (s : State) : State :=
  if j ≥ 64 then s
  else match s.attempt j with
    | .nothing => s
    | .ended t => t.wake (.core (j % 2))
    | .ready t e d c =>
      let t := t.wake (.core (j % 2))
      if d.energy = 0 then t.admitted j e d c
      else if t.waiting.any (·.job == j) then admitWaiting s
      else admitWaiting { t with waiting := t.waiting ++ [{ job := j, since := t.tick, windows := 0 }] }

/-- SUBMISSION_ENTRY (R372). -/
def execSubmissionEntry (j : Nat) (s : State) : Host.Outcome State Fault Refusal := finish s (submissionEntry j s)

/-! ### Steps (R231 to R233) -/

/-- A step descriptor is sound: its reserved bits are zero, and its number and epoch follow the job's (R231, R232). -/
def State.stepOk (s : State) (j : Nat) (b : List Byte) : Bool :=
  let c := s.job j
  let epoch := nb b 8 8
  nb b 18 1 / 64 == 0 && nb b 19 1 / 64 == 0 && nb b 20 4 == 0 && nb b 40 24 == 0 &&
    (match c.lastStep with | some n => decide (n < nb b 0 8) | none => true) &&
    (match c.lastEpoch with | some n => decide (n < epoch) | none => true) && epoch % 2 ^ 32 != 0 &&
    (match c.firstEpoch with | some n => decide (epoch < n + 2 ^ 32) | none => true)

/-- Opens a step. -/
def State.openStep (s : State) (j idx : Nat) (b : List Byte) : State :=
  let t : Step := {
    job := j, number := nb b 0 8, epoch := nb b 8 8, group := nb b 16 2, ovfClasses := nb b 18 1, nfClasses := nb b 19 1
    scalars := (List.range 4).map fun i => nb b (24 + 4 * i) 4, ringIdx := idx, scale := s.reg (K.lossScale j), agreeSeq := none
    state := .opened, overflow := false, nonfinite := false, failed := false, flushHalts := [], why := 0, scattered := []
    granted := [], committed := [] }
  let s := { s with steps := s.steps ++ [t] }
  s.modJob j fun c => { c with
    lastStep := some t.number
    lastEpoch := some t.epoch
    firstEpoch := some (c.firstEpoch.getD t.epoch)
    refused := none
    scaled := true }

/-- The step of an entry is refused: its clauses are too (R231). -/
def State.refuseStep (s : State) (j idx : Nat) : State := s.modJob j fun c => { c with refused := some idx }

/-- The step of a descriptor that breaks a check is refused; the descriptor is the job's previous one all the same (R231, R232). -/
def State.refuseDesc (s : State) (j idx : Nat) (b : List Byte) : State :=
  (s.refuseStep j idx).modJob j fun c => { c with lastStep := some (nb b 0 8), lastEpoch := some (max (c.lastEpoch.getD 0) (nb b 8 8)) }

/-- The scheduler takes a job's next entry where it is a STEP entry: the step is opened or refused; a third step waits
(R231, R233, R377). -/
def stepEntry (j : Nat) (s : State) : State :=
  if j ≥ 64 ∨ s.admits j = false ∨ s.reg K.sessionState ≠ ssOpen then s
  else match s.nextEntry j with
    | some (.ok e) =>
      if e.kind ≠ 2 then s
      else if (s.job j).terminated then
        if s.slotFree j then s.refuseEntry j e (plainRefusal 0x50 0) else s
      else if (s.steps.filter (·.job == j)).length ≥ 2 then s
      else if e.reserved then
        if s.slotFree j then (s.refuseEntry j e (plainRefusal 0x02 e.idx)).refuseStep j e.idx else s
      else
        let s := s.wake (.core (j % 2))
        match s.readVa j e.desc 64 with
        | .ok b => ((if s.stepOk j b then s.openStep j e.idx b else s.refuseDesc j e.idx b).didRead j e.desc 64).consume j
        | .fail _ _ => (s.refuseStep j e.idx).consume j
        | .far n a l => s.fetchFar j n a l
        | .wait => s
    | some (.far n a l) => s.fetchFar j n a l
    | _ => s

/-- STEP_ENTRY (R231). -/
def execStepEntry (j : Nat) (s : State) : Host.Outcome State Fault Refusal := finish s (stepEntry j s)

/-! ### SCHED clauses and code regions (R68, R93, R94) -/

/-- A code region's state set. -/
def State.setCode (s : State) (j r v : Nat) : State :=
  let x := s.reg (K.codeLenState j r)
  s.setReg (K.codeLenState j r) (x - bits x 24 2 * 2 ^ 24 + v * 2 ^ 24)

/-- The detail with which a CODE_SWITCH ends its clause, if it does (R94). -/
def State.switchBad (s : State) (j old new : Nat) (redirect : Bool) : Option Nat :=
  if old = 0xFF ∧ new = 0xFF then some 0xFF
  else if new ≠ 0xFF ∧ (new > 15 ∨ s.codeState j new ≠ 0 ∨ s.codeLines j new = 0) then some new
  else if old ≠ 0xFF ∧ (old > 15 ∨ s.codeState j old ≠ 1) then some old
  else if redirect ∧ (old = 0xFF ∨ new = 0xFF) then some 0xFF
  else none

/-- CODE_SWITCH: the new region becomes ACTIVE and no longer redirected, the old one RETIRING, redirected or not (R94). -/
def State.switchCode (s : State) (j old new : Nat) (redirect : Bool) : State :=
  let s := if new = 0xFF then s
    else (s.setCode j new 1).modJob j fun c => { c with redirects := c.redirects.filter (·.1 != new) }
  if old = 0xFF then s
  else (s.setCode j old 2).modJob j fun c => { c with
    redirects := if redirect then c.redirects.filter (·.1 != old) ++ [(old, new)] else c.redirects }

/-- A SCHED clause ends at a command (R68): PARTIAL where an earlier one changed a region's state; under policy 1 its job is
terminated (R99). -/
def State.schedEnds (s : State) (r : SchedRun) (c : QCmd) (reason detail : Nat) : State :=
  let cl := r.clause
  let s := { s with sched := s.sched.filter fun x => x.clause.seq != cl.seq }
  let hr := haltRecord c.addr reason 6 false false 0xFF cl.logical cl.job (cb c.word 0 1) c.idx detail cl.seq 0
  let s := s.finishClause cl (if cl.wrote then ccPartial else ccNotStarted) hr
  if s.reg (K.haltPolicy cl.job) = 1 then s.terminate cl.job else s

/-- The next command of a job's SCHED clause is executed (R68). -/
def codeSwitch (j : Nat) (s : State) : State :=
  match (if s.coreOut (j % 2) then none else s.sched.find? fun r => r.clause.job == j) with
  | none => s
  | some r =>
    match r.left with
    | [] => s
    | c :: rest =>
      let w := c.word
      match c.bad with
      | some (x, d) => s.schedEnds r c x d
      | none =>
        if cb w 0 1 = 0x01 ∨ cb w 0 1 = 0x02 then s.schedEnds r c 0x08 0
        else if cb w 0 1 ≠ 0x10 then s.schedEnds r c 0x01 0
        else if reservedSet w [(0, 8), (32, 8), (40, 8), (48, 1)] then s.schedEnds r c 0x02 0
        else match s.switchBad j (cb w 4 1) (cb w 5 1) (bit w 48) with
          | some n => s.schedEnds r c 0x13 (1 + 256 * n)
          | none =>
            let s := s.switchCode j (cb w 4 1) (cb w 5 1) (bit w 48)
            let cl := { r.clause with wrote := true, next := r.next + 1 }
            let s := { s with clauses := s.clauses.map fun (x : Clause) => if x.seq == cl.seq then cl else x }
            if rest = [] then
              let s := { s with sched := s.sched.filter fun x => x.clause.seq != cl.seq }
              s.finishClause cl ccComplete (completeRecord cl 0 0x10 0)
            else { s with sched := s.sched.map fun x => if x.clause.seq == cl.seq then { clause := cl, next := r.next + 1, left := rest } else x }

/-- CODE_SWITCH (R94). -/
def execCodeSwitch (j : Nat) (s : State) : Host.Outcome State Fault Refusal := finish s (codeSwitch j s)

/-- The lines of a code region leave the command caches (R96). -/
def State.dropRegion (s : State) (j r : Nat) : State :=
  let b := s.reg (K.codeBase j r)
  let n := 256 * s.codeLines j r
  if s.isMe (b / 2 ^ 48) then
    (pagesOf (b % 2 ^ 48) n).foldl (fun s o => match (s.placeOf j o).bind Place.ident with
      | some i => s.dropLines i (min (65536 - o % 65536) (b % 2 ^ 48 + n - o))
      | none => s) s
  else s.dropLines (2 ^ 68 + b) n

/-- A RETIRING region becomes IDLE once no admitted clause fetches from it: no queue holds its lines then, and they leave the command
caches (R93, R96). -/
def codeRegionRetired (j r : Nat) (s : State) : State :=
  if j < 64 ∧ r < 16 ∧ s.coreOut (j % 2) = false ∧ s.codeState j r = 2 ∧ !(s.clauses.any fun c => c.job == j && c.region == r && c.cls != .sched) then
    (s.dropRegion j r).setCode j r 0
  else s

/-- CODE_REGION_RETIRED (R93). -/
def execCodeRegionRetired (j r : Nat) (s : State) : Host.Outcome State Fault Refusal := finish s (codeRegionRetired j r s)

end Sys2Proof.Machine
end

