-- ==== Sys2Proof/Machine/Ports.lean ====
section
/-! DEFINITION. The fabric ports: link acknowledgements and replay (R319), bring-up, flaps and quarantine (R320, R321), lanes
(R322), link keys (R451, R452) and frames that fail a check (R318). -/

namespace Sys2Proof.Machine

/-- The 1-based subindices of two rings of 2^16 sequence numbers: whether `a` is at or before `b`. -/
def seqUpTo (a b : Nat) : Bool := (b + 65536 - a % 65536) % 65536 < 32768

/-- Whether the fast domains run and the module has a node ID: else every port stays DOWN (R312). -/
def State.portsLive (s : State) : Bool := s.powered && s.reg K.nodeId != 0xFFFF

/-! ### Leaving UP (R315, R320, R321) -/

/-- A port's link state forgotten: keys, sequence numbers, buffers, credits (R320, R452). -/
def Port.down (P : Port) : Port := { Port.reset with flapTimes := P.flapTimes, gen := P.gen }

/-- An unacknowledged frame of a port that left UP departs on another usable port, or its request is held (R315, R344). -/
def State.moveFrame (s : State) (t : TxFrame) : State :=
  match s.portFor t.frame.dst t.frame.addr with
  | some p =>
    (s.modPort p fun P => { P with waitTx := P.waitTx ++ [{ t with moved := true, replays := 0, frame := { t.frame with port := p } }] }).portDrain p 1
  | none =>
    if bit t.frame.flags 1 then s
    else s.modReq t.frame.tag fun r => { r with held := true }

/-- Flaps of a port within the last 60 s. -/
def State.recentFlaps (s : State) (p : Nat) : List Nat :=
  ((s.fab.ports[p]?).elim [] (·.flapTimes)).filter fun t => s.tick - t < 60 * 25000000

/-- A port leaves UP: one flap; the 9th within 60 s quarantines it; its frames go on other ports (R315, R321). -/
def State.leaveUp (s : State) (p state : Nat) : State :=
  match s.fab.ports[p]? with
  | none => s
  | some P =>
    let frames := P.replay ++ P.waitTx
    let s := s.bump32 (K.portFlaps p) 1
    let times := s.tick :: s.recentFlaps p
    let state := if times.length ≥ 9 ∧ state = psDown then psQuarantined else state
    let s := s.modPort p fun P => { P.down with flapTimes := times }
    let s := (s.setReg (K.portState p) state).setReg (K.portLanesInService p) 0
    let s := frames.foldl (fun s t => s.moveFrame t) s
    s.holdCut.noWindow.flowOn

/-- A port goes to DOWN, or to another state that carries no traffic, from wherever it is. -/
def State.portDown (s : State) (p state : Nat) : State :=
  if s.reg (K.portState p) = psUp then s.leaveUp p state
  else
    let s := s.modPort p Port.down
    (s.setReg (K.portState p) state).setReg (K.portLanesInService p) 0

/-- A failure takes a port down from TRAINING, KEYING or UP. -/
def State.portFails (s : State) (p : Nat) : State :=
  if p < 16 ∧ (s.reg (K.portState p) = psTraining ∨ s.reg (K.portState p) = psKeying ∨ s.reg (K.portState p) = psUp) then
    s.portDown p psDown
  else s

/-! ### Acknowledgements and replay (R316, R319) -/

/-- Frames up to a sequence number are acknowledged. -/
def State.ackFrames (s : State) (p seq : Nat) : State :=
  s.modPort p fun P =>
    if P.replay.any (·.seq == seq) then
      { P with replay := P.replay.filter fun t => !seqUpTo t.seq seq }
    else P

/-- Frames of a port go on after credits or places came free, and requests that waited on moved frames (R315). -/
def State.portGoesOn (s : State) (p : Nat) : State := (s.portDrain p 1024).flowOn

/-- FABRIC_LINK_ACK (R316). -/
def fabricLinkAck (p seq : Nat) (s : State) : State :=
  if s.portUp p then (s.ackFrames p seq).portGoesOn p else s

/-- FABRIC_LINK_ACK (R316). -/
def execFabricLinkAck (p seq : Nat) (s : State) : Host.Outcome State Fault Refusal := finish s (fabricLinkAck p seq s)

/-- The unacknowledged frames of a port are sent again; the 16th replay in a row of one of them takes it down (R319). -/
def State.replayPort (s : State) (p : Nat) : State :=
  match s.fab.ports[p]? with
  | none => s
  | some P =>
    if P.replay = [] then s
    else
      let s := ((s.bump (K.portLinkReplays p) 1).count 0x51 0x12 1 none).modPort p fun P => { P with replay := P.replay.map fun t => { t with replays := t.replays + 1 } }
      if P.replay.any fun t => t.replays + 1 ≥ 16 then s.portDown p psDown else s

/-- FABRIC_LINK_NAK: what came before is acknowledged, the rest is sent again (R319). -/
def fabricLinkNak (p seq : Nat) (s : State) : State :=
  if s.portUp p then ((s.ackFrames p seq).portGoesOn p).replayPort p else s

/-- FABRIC_LINK_NAK (R319). -/
def execFabricLinkNak (p seq : Nat) (s : State) : Host.Outcome State Fault Refusal := finish s (fabricLinkNak p seq s)

/-- The peer returns receive buffers (R316). -/
def fabricLinkCredit (p n : Nat) (s : State) : State :=
  if s.portUp p then (s.modPort p fun P => { P with credits := P.credits + n }).portGoesOn p else s

/-- FABRIC_LINK_CREDIT (R316). -/
def execFabricLinkCredit (p n : Nat) (s : State) : Host.Outcome State Fault Refusal := finish s (fabricLinkCredit p n s)

/-- An acknowledgement is missing for 2 µs (R319). -/
def fabricReplayTimeout (p : Nat) (s : State) : State := if s.portUp p then s.replayPort p else s

/-- FABRIC_REPLAY_TIMEOUT (R319). -/
def execFabricReplayTimeout (p : Nat) (s : State) : Host.Outcome State Fault Refusal := finish s (fabricReplayTimeout p s)

/-- A data frame fails a check: either way it is nak'ed; a tag failure is counted, and the 64th within 1 s takes the port
down (R318). One that passes both and is of no op, or has a reserved bit set, is received and dropped (R317). -/
def corruptFabricFrame (p : Nat) (e : FrameError) (s : State) : State :=
  if s.portUp p = false then s
  else match e with
    | .crc => s
    | .undefined n => (s.receivedOn p n).bump K.fabRefusedInbound 1
    | .tag =>
      let times := s.tick :: ((s.fab.ports[p]?).elim [] (·.tagFails)).filter fun t => s.tick - t < 25000000
      let s := (s.bump (K.portAuthFailures p) 1).modPort p fun P => { P with tagFails := times }
      if times.length ≥ 64 then s.portDown p psDown else s

/-- CORRUPT_FABRIC_FRAME (R318). -/
def execCorruptFabricFrame (p : Nat) (e : FrameError) (s : State) : Host.Outcome State Fault Refusal :=
  finish s (corruptFabricFrame p e s)

/-! ### Bring-up (R320) -/

/-- The lanes of a mask that are not out of service. -/
def State.laneMask (s : State) (p lanes : Nat) : Nat :=
  (List.range 4).foldl (fun m l => if bit lanes l && s.reg (K.laneService (4 * p + l)) == 0 then m + 2 ^ l else m) 0

/-- Lanes in a mask. -/
def lanesIn (m : Nat) : Nat := countIf 4 (bit m)

/-- Signal on at least 2 lanes of a port that is DOWN starts training. -/
def portSignalDetect (p lanes : Nat) (s : State) : State :=
  if p < 16 ∧ s.portsLive ∧ s.reg (K.portState p) = psDown ∧ lanes ≥ 2 then s.setReg (K.portState p) psTraining else s

/-- PORT_SIGNAL_DETECT (R320). -/
def execPortSignalDetect (p lanes : Nat) (s : State) : Host.Outcome State Fault Refusal := finish s (portSignalDetect p lanes s)

/-- Lanes are locked and FEC aligned: KEYING, or DOWN with fewer than 2 lanes. -/
def portTrainingDone (p lanes : Nat) (s : State) : State :=
  if p < 16 ∧ s.reg (K.portState p) = psTraining then
    let m := s.laneMask p lanes
    if lanesIn m < 2 then s.portDown p psDown
    else
      let s := (s.setReg (K.portState p) psKeying).setReg (K.portLanesInService p) m
      (s.modPort p fun P => { P with lanesUp := m }).startKeying p
  else s

/-- PORT_TRAINING_DONE (R320). -/
def execPortTrainingDone (p lanes : Nat) (s : State) : Host.Outcome State Fault Refusal := finish s (portTrainingDone p lanes s)

/-- Training does not succeed within 20 ms. -/
def portTrainingTimeout (p : Nat) (s : State) : State :=
  if p < 16 ∧ s.reg (K.portState p) = psTraining then s.portDown p psDown else s

/-- PORT_TRAINING_TIMEOUT (R320). -/
def execPortTrainingTimeout (p : Nat) (s : State) : Host.Outcome State Fault Refusal := finish s (portTrainingTimeout p s)

/-- Failed training is tried again after 100 ms. -/
def portTrainingRetry (p : Nat) (s : State) : State := portSignalDetect p 2 s

/-- PORT_TRAINING_RETRY (R320). -/
def execPortTrainingRetry (p : Nat) (s : State) : Host.Outcome State Fault Refusal := finish s (portTrainingRetry p s)

/-- Signal is lost. -/
def execPortLossOfSignal (p : Nat) (s : State) : Host.Outcome State Fault Refusal := finish s (s.portFails p)

/-- A quarantine of 300 s ends: DOWN (R321). -/
def quarantineEnd (p : Nat) (s : State) : State :=
  if p < 16 ∧ s.reg (K.portState p) = psQuarantined then s.setReg (K.portState p) psDown else s

/-- QUARANTINE_END (R321). -/
def execQuarantineEnd (p : Nat) (s : State) : Host.Outcome State Fault Refusal := finish s (quarantineEnd p s)

/-- A write of port_service: 1 takes the port out of service, 0 returns it to DOWN (R320, R348). -/
def State.writePortService (s : State) (p v : Nat) : State :=
  let s := s.setReg (K.portService p) v
  if v = 1 then
    if s.reg (K.portState p) = psOut then s else (s.portDown p psOut).setReg (K.portServiceState p) 2
  else if s.reg (K.portState p) = psOut then (s.setReg (K.portState p) psDown).setReg (K.portServiceState p) 0
  else s

/-! ### Link keys (R451, R452) -/

/-- The bytes of a keying frame that a signature covers; their layout is a DESIGN CHOICE (log 53). -/
def keyingBytes : KeyingMsg → List Byte
  | .hello r k c => leBytes 32 r ++ leBytes 32 k ++ c
  | .sign g => leBytes 64 g
  | .confirm => []

/-- The root key against which a peer's chain is verified (R451). -/
def State.linkRoot (s : State) : Nat := if s.reg K.hallRoot = 0 then s.part.rootKey else s.reg K.hallRoot

/-- A keying exchange fails: counted, and the port goes DOWN (R451, R452). -/
def State.keyingFails (s : State) (p : Nat) : State := (s.bump K.keyingFailures 1).portDown p psDown

/-- The keys of a generation from an exchange: transmit and receive. -/
def linkKeys (secret peer own other gen : Nat) : Nat × Nat :=
  (Config.linkKey secret peer own other gen, Config.linkKey secret peer other own gen)

/-- The exchange of a port in KEYING ends: keys of generation 1, and the port is UP (R451 step 5). The receive buffers that
a peer has at first are a DESIGN CHOICE (log 90). -/
def State.portUpNow (s : State) (p tx rx : Nat) : State :=
  let s := s.modPort p fun P => { P with
    gen := 1, prevGen := none, txKey := tx, rxKey := rx, count := 0, keying := [], secret := 0, rekeying := false
    replay := [], waitTx := [], txSeq := 0, rxSeq := 0, credits := 512 }
  (s.setReg (K.portState p) psUp).flowOn

/-- A rekey ends: the next generation, the previous one accepted for 1 ms more (R452). -/
def State.rekeyed (s : State) (p tx rx : Nat) : State :=
  ((s.modPort p fun P => { P with gen := P.gen + 1, prevGen := some P.gen, txKey := tx, rxKey := rx, count := 0, keying := []
                                  secret := 0, rekeying := false }).bump K.linkRekeys 1).portGoesOn p

/-- A keying frame of the peer: its chain and its signature are verified in turn; a rekey ends with the confirming frame
(R451, R452). -/
def keyingFrame (p : Nat) (m : KeyingMsg) (s : State) : State :=
  match s.fab.ports[p]? with
  | none => s
  | some P =>
    if s.reg (K.portState p) ≠ psKeying ∧ !(s.reg (K.portState p) = psUp ∧ P.rekeying) then s
    else match P.keying, m with
      | [own], .hello r k c =>
        if Config.chainVerify c s.linkRoot then s.modPort p fun P => { P with keying := [own, .hello r k c] } else s.keyingFails p
      | [.hello r0 k0 c0, .hello r k c], .sign g =>
        let digest := Config.sha512 (keyingBytes (.hello r0 k0 c0) ++ keyingBytes (.hello r k c))
        if Config.ed25519Verify (Config.chainKey c) (leBytes 64 digest) g = false then s.keyingFails p
        else if s.reg (K.portState p) = psKeying then
          let ks := linkKeys P.secret k r0 r 1
          s.portUpNow p ks.1 ks.2
        else s.modPort p fun P => { P with keying := P.keying ++ [.sign g] }
      | [.hello r0 _ _, .hello r k _, .sign _], .confirm =>
        let ks := linkKeys P.secret k r0 r (P.gen + 1)
        s.rekeyed p ks.1 ks.2
      | _, _ => s

/-- KEYING_FRAME (R451). -/
def execKeyingFrame (p : Nat) (m : KeyingMsg) (s : State) : Host.Outcome State Fault Refusal := finish s (keyingFrame p m s)

/-- An exchange does not complete within 5 ms: the port goes DOWN and the failure is counted (R451, R452). -/
def keyingTimeout (p : Nat) (s : State) : State :=
  match s.fab.ports[p]? with
  | none => s
  | some P => if s.reg (K.portState p) = psKeying ∨ (s.reg (K.portState p) = psUp ∧ P.rekeying) then s.keyingFails p else s

/-- KEYING_TIMEOUT (R320, R452). -/
def execKeyingTimeout (p : Nat) (s : State) : Host.Outcome State Fault Refusal := finish s (keyingTimeout p s)

/-- REKEY_DUE: 3,600 s after a key's installation, or at its 2^31st frame (R452). -/
def execRekeyDue (p : Nat) (s : State) : Host.Outcome State Fault Refusal := finish s (s.startRekey p)

/-- The previous generation is no longer accepted, 1 ms after the switch (R452). -/
def prevKeyExpiry (p : Nat) (s : State) : State := s.modPort p fun P => { P with prevGen := none }

/-- PREV_KEY_EXPIRY (R452). -/
def execPrevKeyExpiry (p : Nat) (s : State) : Host.Outcome State Fault Refusal := finish s (prevKeyExpiry p s)

/-! ### Lanes (R322) -/

/-- A lane of an UP port is retired; fewer than 2 lanes take the port down. -/
def State.retireLane (s : State) (p l : Nat) : State :=
  let m := s.reg (K.portLanesInService p)
  if s.portUp p = false ∨ bit m l = false then s
  else
    let m := m - 2 ^ l
    let s := (s.setReg (K.portLanesInService p) m).modPort p fun P => { P with lanesUp := m }
    if lanesIn m < 2 then s.portDown p psDown else s

/-- LANE_LOSS_OF_LOCK (R322). -/
def execLaneLossOfLock (p l : Nat) (s : State) : Host.Outcome State Fault Refusal := finish s (s.retireLane p l)

/-- 100 ms of a lane's corrected and received symbols: above 10^−5 the lane is retired. -/
def laneFecWindow (p l corrected received : Nat) (s : State) : State :=
  if s.portUp p = false ∨ bit (s.reg (K.portLanesInService p)) l = false then s
  else
    let s := s.bump (K.portFecCorrected p) corrected
    if corrected * 100000 > received then s.retireLane p l else s

/-- LANE_FEC_WINDOW (R322). -/
def execLaneFecWindow (p l corrected received : Nat) (s : State) : Host.Outcome State Fault Refusal :=
  finish s (laneFecWindow p l corrected received s)

end Sys2Proof.Machine
end

