-- ==== Sys2Proof/Machine/Sessions.lean ====
section
/-! DEFINITION. The Ryeve link (R350 to R356), memory operations and doorbells of the control node (R353, R354), and what
opens, answers and ends a session (R357 to R361). -/

namespace Sys2Proof.Machine

/-! ### The link (R350, R355) -/

/-- Whether the Ryeve link is UP. -/
def State.ryUp (s : State) : Bool := s.reg K.ryeveLinkState == 2

/-- A data frame of the link is received in order. -/
def State.ryReceived (s : State) : State := s.modSess fun e => { e with rxSeq := (e.rxSeq + 1) % 65536 }

/-- A frame is dropped and counted (R350). -/
def State.ryDropped (s : State) : State := s.bump K.ryeveFramesDropped 1

/-- Frames up to a sequence number are acknowledged. -/
def State.ryAcked (s : State) (seq : Nat) : State :=
  s.modSess fun e =>
    if e.replay.any (·.seq == seq) then { e with replay := e.replay.filter fun t => !seqUpTo t.seq seq } else e

/-- Unacknowledged frames are sent again; after 16 consecutive replays of one of them the link goes down and trains again (R355). -/
def State.ryReplay (s : State) : State :=
  if s.sess.replay = [] then s
  else
    let down := s.sess.replay.any fun t => t.replays + 1 ≥ 16
    let s := (s.bump K.ryeveLinkReplays 1).count 0x52 0x13 1 none
    let s := s.modSess fun e => { e with replay := e.replay.map fun t => { t with replays := if down then 0 else t.replays + 1 } }
    if down then s.setReg K.ryeveLinkState 1 else s

/-- Buffers returned to a channel, at most its size. -/
def addCredits (l : List Nat) (a b c : Nat) : List Nat :=
  [min 512 (l.getD 0 0 + a), min 64 (l.getD 1 0 + b), min 16 (l.getD 2 0 + c)]

/-- A doorbell that is ignored: counted. -/
def State.ignoreBell (s : State) : State := s.bump K.ignoredWrites 1

/-- A doorbell arrives: counted at the port. -/
def State.bellIn (s : State) (j : Nat) : State := s.ryReceived.count 0x52 0x11 1 (if j < 64 then some j else none)

/-- An ack, nak or credit frame, one that is dropped, or a DOORBELL of no ring (R350, R352, R353, R355). -/
def ryeveLinkAck (l : LinkFrame) (s : State) : State :=
  if s.ryUp = false then s
  else match l with
    | .undefined numbered => (if numbered then s.ryReceived else s).ryDropped
    | .doorbellOther j => (s.bellIn j).ignoreBell
    | .ack n => (s.ryAcked n).ryDrain 256
    | .nak n => ((s.ryAcked n).ryDrain 256).ryReplay
    | .credit a b c => (s.modSess fun e => { e with credits := addCredits e.credits a b c }).ryDrain 256

/-- RYEVE_LINK_ACK (R355). -/
def execRyeveLinkAck (l : LinkFrame) (s : State) : Host.Outcome State Fault Refusal := finish s (ryeveLinkAck l s)

/-- RYEVE_REPLAY_TIMEOUT (R355). -/
def execRyeveReplayTimeout (s : State) : Host.Outcome State Fault Refusal := finish s (if s.ryUp then s.ryReplay else s)

/-- Training completes: the link is UP, and what waited departs (R355). -/
def ryeveTrainingDone (s : State) : State :=
  if s.powered ∧ s.reg K.ryeveLinkState = 1 then (s.setReg K.ryeveLinkState 2).ryDrain 256 else s

/-- RYEVE_TRAINING_DONE (R355). -/
def execRyeveTrainingDone (s : State) : Host.Outcome State Fault Refusal := finish s (ryeveTrainingDone s)

/-- Signal at the receiver of a port that is DOWN wakes it, PLLs first, and it trains (R400). -/
def ryeveSignalDetect (s : State) : State :=
  if s.powered ∧ s.reg K.moduleState ≠ 2 ∧ s.reg K.ryeveLinkState = 0 then
    let s := if s.pow.pllStopped then ({ s with pow := { s.pow with pllStopped := false } }).setReg K.pllLocked 7 else s
    s.setReg K.ryeveLinkState 1
  else s

/-- RYEVE_SIGNAL_DETECT (R400). -/
def execRyeveSignalDetect (s : State) : Host.Outcome State Fault Refusal := finish s (ryeveSignalDetect s)

/-! ### Memory operations of the control node (R353, R354) -/

/-- Whether a frame names the open session. -/
def State.sessionOk (s : State) (number : Nat) : Bool :=
  s.reg K.sessionState == ssOpen && number == s.reg K.sessionNumber

/-- Whether a job is CREATED, RUNNING or PARKED. -/
def State.jobServed (s : State) (j : Nat) : Bool := 1 ≤ s.reg (K.jobState j) && s.reg (K.jobState j) ≤ 3

/-- Whether a VC0 header holds a value that R351 does not define. -/
def badHdr (h : TxHdr) (n : Nat) : Bool := n == 0 || n > 4096 || h.addr ≥ 2 ^ 48 || (h.job ≥ 64 && h.job != 0xFF)

/-- A VC0 request that R353 or R354 refuses: counted. -/
def State.vc0Refuse (s : State) (op : Nat) (h : TxHdr) : State := (s.bump K.ignoredWrites 1).vc0Reply op h 0x21 []

/-- A VC0 request as a frame names it. -/
def vc0Frame (h : TxHdr) (data : List Byte) : Frame :=
  { port := 0, src := 0, acting := 0, dst := 0, flags := 0, key := 0, tag := h.tag, addr := h.addr, arg := h.bytes, status := 0, payload := data }

/-- A VC0 request that waits for memory, with notes. -/
def State.vc0Pend (s : State) (op : Nat) (h : TxHdr) (data : List Byte) (note : Nat) : State :=
  s.modFab fun F => { F with pendReads := F.pendReads ++
    [{ id := s.freshPend, vc0 := true, op := op, frame := vc0Frame h data, hdr := h, data := leBytes 1 note }] }

/-- A failed VC0 request: the reason in the status field (R353). -/
def State.vc0Fail (s : State) (op : Nat) (h : TxHdr) (reason detail : Nat) : State :=
  ((s.toldFailure reason detail).tierFull reason detail).vc0Reply op h reason []

/-- The global address of a VC0 request's local offset (R351). -/
def State.vc0Addr (s : State) (h : TxHdr) : Nat := 2 ^ 48 * s.ownNode + h.addr

/-- A VC0 request arrives on its channel: counted. -/
def State.vc0In (s : State) (h : TxHdr) : State :=
  s.ryReceived.count 0x52 0x10 1 (if h.job < 64 then some h.job else none)

/-- MEM_READ: refused at once, or pending until memory answers (R353, R354). -/
def memRead (h : TxHdr) (s : State) : State :=
  if s.ryUp = false then s
  else
    let s := s.vc0In h
    if badHdr h h.bytes then s.ryDropped
    else if s.sessionOk h.session = false then s.vc0Refuse 0x01 h
    else if h.job = 0xFF then
      if h.addr + h.bytes > 2 ^ 24 then s.vc0Refuse 0x01 h else s.vc0Pend 0x01 h [] 0
    else if s.jobServed h.job = false then s.vc0Refuse 0x01 h
    else match s.readVa h.job (s.vc0Addr h) h.bytes with
      | .fail r d => s.vc0Fail 0x01 h r d
      | _ => s.vc0Pend 0x01 h [] 0

/-- MEM_READ (R353). -/
def execMemRead (h : TxHdr) (s : State) : Host.Outcome State Fault Refusal := finish s (memRead h s)

/-- A VC0 write that waits, with its notes; `id` is the pending request it already is. A wait on a page move is counted once (R297, R311). -/
def State.vc0Wait (s : State) (h : TxHdr) (data : List Byte) (note : Nat) (id : Option Nat) : State :=
  let x := s.countWait h.job (s.vc0Addr h) (bit note 0)
  let n := note / 2 * 2 + if x.2 then 1 else 0
  match id with
  | some _ => x.1.pendAs 0x03 (vc0Frame h data) n id
  | none => x.1.vc0Pend 0x03 h data n

/-- A VC0 write in a job's address space, by the vendor role where debug is unlocked (R107): made, refused, or pending while its page moves or
its lender answers. `id` is the pending request it already is. -/
def State.vc0Write (s : State) (h : TxHdr) (data : List Byte) (id : Option Nat) : State :=
  let a := s.vc0Addr h
  let off (s : State) : State := match id with | some i => s.unpend i | none => s
  match s.writeFor (if s.trust.unlocked then .vendor else .unit) h.job a data (id.getD s.freshPend) with
  | .ok t =>
    if t.fab.reqs.length = s.fab.reqs.length then (off t).vc0Reply 0x03 h 0 [] else t.vc0Wait h data 4 id
  | .fail r d => (off s).vc0Fail 0x03 h r d
  | _ => s.vc0Wait h data (s.pendNote id) id

/-- A VC0 write after what its access meets, unless it waits; a fourth failure ends it UNCORRECTABLE and leaves its unit poisoned (R304). -/
def State.vc0Strike (s : State) (h : TxHdr) (data : List Byte) (id : Option Nat) (m : MemAccess) : State :=
  let a := s.vc0Addr h
  if s.writeWaits h.job a then s.vc0Write h data id
  else
    let s := s.met h.job a data.length true m
    if m.retries > 3 then (match id with | some i => s.unpend i | none => s).vc0Fail 0x03 h 0x30 a else s.vc0Write h data id

/-- MEM_WRITE: applied whole, or refused (R353, R354). `m` is what the controller meets. -/
def memWrite (h : TxHdr) (data : List Byte) (m : MemAccess) (s : State) : State :=
  if s.ryUp = false then s
  else
    let s := s.vc0In h
    if badHdr h h.bytes ∨ data.length ≠ h.bytes then s.ryDropped
    else if h.job = 0xFF then s.vc0Reply 0x03 h 0x21 []
    else if s.sessionOk h.session = false ∨ s.jobServed h.job = false then s.vc0Refuse 0x03 h
    else s.vc0Strike h data none m

/-- MEM_WRITE (R353). -/
def execMemWrite (h : TxHdr) (data : MetData) (s : State) : Host.Outcome State Fault Refusal :=
  finish s (memWrite h data.bytes data.access s)

/-- Memory answers a VC0 request: its response departs (R356). Corrections and retries are counted, an uncorrectable unit is poisoned, and a
fourth failure ends the request UNCORRECTABLE (R303 to R305). -/
def State.serveVc0 (s : State) (p : PendRead) (m : MemAccess) : State :=
  let h := p.hdr
  let a := s.vc0Addr h
  if p.op = 0x03 then (if bit (nb p.data 0 1) 2 then s else s.vc0Strike h p.frame.payload (some p.id) m)
  else if h.job = 0xFF then
    if m.retries > 3 then (s.unpend p.id).vc0Fail 0x01 h 0x30 a
    else (s.unpend p.id).vc0Reply 0x01 h 0 (readRun s.mem.window h.addr h.bytes)
  else if s.heldAt h.job a then s
  else
    let s := s.met h.job a h.bytes false m
    if m.retries > 3 then (s.unpend p.id).vc0Fail 0x01 h 0x30 a
    else match s.readVa h.job a h.bytes with
      | .ok b => ((s.unpend p.id).didRead h.job a h.bytes).vc0Reply 0x01 h 0 b
      | .fail r d => (s.unpend p.id).vc0Fail 0x01 h r d
      | .far n x l => s.fetchFar h.job n x l
      | .wait => s

/-- Memory answers a request that waits for it (R356); `a` is what the controller meets. -/
def memoryReadArrival (id : Nat) (a : MemAccess) (s : State) : State :=
  match (if s.powered then s.fab.pendReads.find? (·.id == id) else none) with
  | some p => if p.vc0 then s.serveVc0 p a else s.serveFabric p a
  | none => s

/-- MEMORY_READ_ARRIVAL (R356). -/
def execMemoryReadArrival (id : Nat) (a : MemAccess) (s : State) : Host.Outcome State Fault Refusal :=
  finish s (memoryReadArrival id a s)

/-! ### Doorbells (R353, R354) -/

/-- Whether a doorbell of a job counts: the session is open and named, and the job is CREATED, RUNNING or PARKED. -/
def State.bellOk (s : State) (j session : Nat) : Bool := j < 64 && s.sessionOk session && s.jobServed j

/-- A submission producer index: it neither runs more than a ring ahead nor moves backward. -/
def doorbellSubmission (j index session : Nat) (s : State) : State :=
  if s.ryUp = false then s
  else
    let s := s.bellIn j
    let c := s.reg (K.sqConsumed j)
    if s.bellOk j session = false ∨ sub32 index c > s.reg (K.sqEntries j) ∨ sub32 index c < sub32 (s.job j).sqProduced c then
      s.ignoreBell
    else (s.modJob j fun x => { x with sqProduced := index % 2 ^ 32 }).wake (.core (j % 2))

/-- DOORBELL, ring 0 (R353). -/
def execDoorbellSubmission (j index session : Nat) (s : State) : Host.Outcome State Fault Refusal :=
  finish s (doorbellSubmission j index session s)

/-- A completion consumer index: it neither moves backward nor passes entries not yet written. -/
def doorbellCompletion (j index session : Nat) (s : State) : State :=
  if s.ryUp = false then s
  else
    let s := s.bellIn j
    let c := (s.job j).cqConsumed
    if s.bellOk j session = false ∨ sub32 index c > sub32 (s.reg (K.cqProduced j)) c then s.ignoreBell
    else (s.modJob j fun x => { x with cqConsumed := index % 2 ^ 32 }).wake (.core (j % 2))

/-- DOORBELL, ring 1 (R353). -/
def execDoorbellCompletion (j index session : Nat) (s : State) : Host.Outcome State Fault Refusal :=
  finish s (doorbellCompletion j index session s)

/-- An event consumer index, of a job or of the session event ring; an owed EVENTS_LOST entry then finds space (R369). -/
def doorbellEvent (j index session : Nat) (s : State) : State :=
  if s.ryUp = false then s
  else
    let s := s.bellIn j
    if j = 0xFF then
      let c := s.sess.consumed
      if s.sessionOk session = false ∨ sub32 index c > sub32 s.sess.produced c then s.ignoreBell
      else (s.modSess fun e => { e with consumed := index % 2 ^ 32 }).owedSession
    else
      let c := (s.job j).eqConsumed
      if s.bellOk j session = false ∨ sub32 index c > sub32 (s.reg (K.eqProduced j)) c then s.ignoreBell
      else (s.modJob j fun x => { x with eqConsumed := index % 2 ^ 32 }).owedJob j

/-- DOORBELL, ring 2 (R353, R354). -/
def execDoorbellEvent (j index session : Nat) (s : State) : Host.Outcome State Fault Refusal :=
  finish s (doorbellEvent j index session s)

/-! ### Heartbeats and NOTIFY intervals (R358, R370) -/

/-- A HEARTBEAT of the open session is answered; its time is the always-on domain's (R356, R358). -/
def heartbeat (session : Nat) (s : State) : State :=
  if s.ryUp = false then s
  else
    let s := s.ryReceived
    if s.sessionOk session then s.rySend 2 0x23 0 0xFF 0 [] else s

/-- HEARTBEAT (R356). -/
def execHeartbeat (session : Nat) (s : State) : Host.Outcome State Fault Refusal := finish s (heartbeat session s)

/-- The interval of a job's ring ends: a deferred NOTIFY departs and begins the next. -/
def State.jobIntervalEnd (s : State) (j ring : Nat) : State :=
  let c := s.job j
  if c.notifyWait.contains ring = false then s
  else
    let s := s.modJob j fun x => { x with notifyWait := x.notifyWait.filter (· != ring), notifyDue := x.notifyDue.filter (· != ring) }
    if c.notifyDue.contains ring then s.notifyJob j ring else s

/-- The 1 µs interval of a ring ends (R370). -/
def notifyIntervalEnd (r : RingId) (s : State) : State :=
  match r with
  | .completion j => s.jobIntervalEnd j 1
  | .event j => s.jobIntervalEnd j 2
  | .session =>
    let due := s.sess.notifyDue
    let s := s.modSess fun e => { e with notifyWait := false, notifyDue := false }
    if due && s.sessRing then s.notifySession else s

/-- NOTIFY_INTERVAL_END (R370). -/
def execNotifyIntervalEnd (r : RingId) (s : State) : Host.Outcome State Fault Refusal := finish s (notifyIntervalEnd r s)

/-! ### Answers to mailbox messages (R361, R485, R486) -/

/-- The bytes of a response message. -/
def responseBytes (ty seq status : Nat) (body : List Byte) : List Byte :=
  leBytes 2 ty ++ leBytes 1 1 ++ leBytes 1 0 ++ leBytes 2 body.length ++ leBytes 2 seq ++ leBytes 2 status ++ leBytes 1 1 ++ zeros 5 ++ body

/-- Answers a message on the path it came by; a sideband response is kept for a repeat of its exchange. -/
def State.respond (s : State) (m : MsgHdr) (ty status : Nat) (body : List Byte) : State :=
  let msg := responseBytes ty m.seq status body
  let s := if status = 0x0008 then s.bump K.busyAnswers 1 else s
  match m.path with
  | .vc1 => s.rySend 1 0x11 0 0xFF m.seq msg
  | .sideband =>
    let e := s.sess.sbBusy
    let s := s.bump K.sbFramesTx (ceilDiv msg.length 1024)
    s.modSess fun x => { x with sbBusy := none, sbKept := (match e with | some n => some (n, msg) | none => x.sbKept)
                                sbOut := x.sbOut ++ [(e.getD 0, msg)] }

/-- A message sent to the module with the response flag set: dropped and counted (R361). -/
def State.dropResponse (s : State) (p : Path) : State :=
  match p with
  | .vc1 => s.ryDropped
  | .sideband => (s.bump K.sbFramesDropped 1).modSess fun x => { x with sbBusy := none }

/-- MSG_RESP, or a sideband message with the response flag set (R361). -/
def execMsgResp (p : Path) (s : State) : Host.Outcome State Fault Refusal :=
  finish s (match p with
    | .vc1 => if s.ryUp then s.ryReceived.dropResponse .vc1 else s
    | .sideband => if s.pow.standby then s.dropResponse .sideband else s)

/-! ### Sessions (R357, R359, R360) -/

/-- Accepted opens and resumes of the last 60 s. -/
def State.recentReconnects (s : State) : List Nat := s.sess.reconnects.filter fun t => s.tick - t < 60 * 25000000

/-- A fresh session token (R360). -/
def State.newToken (s : State) : Nat := s.randomVal 2 % 2 ^ 128

/-- An open or resume is accepted: a reconnect, with a fresh token. -/
def State.reconnected (s : State) : State :=
  let l := s.tick :: s.recentReconnects
  (s.modSess fun e => { e with reconnects := l, token := s.newToken }).setReg K.sessionState ssOpen

/-- The session opens: its number, its event ring, its answer (R354, R359, R362, R369). -/
def State.openNow (s : State) (m : MsgHdr) (host base entries : Nat) : State :=
  let number := s.reg K.sessionNumber % (2 ^ 32 - 1) + 1
  let s := (s.setReg K.sessionNumber number).setReg K.hostVersion host
  let s := s.reconnected
  let s := s.modSess fun e => { e with ringBase := base, ringEntries := entries, produced := 0, consumed := 0, notifyWait := false
                                       notifyDue := false, releaseTo := none }
  let s := s.modMem fun x => { x with window := clearRun x.window 0 0x800000 }
  let body := leBytes 4 (s.reg K.fwInterfaceVersion) ++ leBytes 4 number ++ leBytes 16 s.sess.token ++ leBytes 4 (s.reg K.contractVersion)
  (s.respond m 0x0001 0 body).owedSession

/-- The session is over: no event ring, no token. -/
def State.sessionNone (s : State) : State :=
  (s.modSess fun e => { e with token := 0, ringEntries := 0, notifyWait := false, notifyDue := false }).setReg K.sessionState ssNone

/-- A RELEASING session ends once every job is FREE; an open that awaits it is then accepted (R357, R359). -/
def State.releaseOver (s : State) : State :=
  if s.reg K.sessionState ≠ ssReleasing ∨ s.anyResident then s
  else
    let next := s.sess.releaseTo
    let s := s.sessionNone
    match next with
    | some (seq, host, base, entries) =>
      s.openNow { path := .sideband, seq := seq, session := 0, major := 1, status := 0, response := false, reserved := 0 } host base entries
    | none => s

end Sys2Proof.Machine
end

