-- ==== Sys2Proof/Machine/Jobs.lean ====
section
/-! DEFINITION. Jobs: the commands of R364, the checkpoint container (R269, R270, R383), its restoration (R271), the scrub
(R383) and the release of jobs (R359, R377). -/

namespace Sys2Proof.Machine

/-! ### Creation and start (R364) -/

/-- Whether every page of a range of a job is mapped here with read and write rights (R366). -/
def State.mappedRw (s : State) (j base n : Nat) : Bool :=
  s.isMe (base / 2 ^ 48) && (pagesOf (base % 2 ^ 48) n).all fun o =>
    match s.leafOf j o with
    | some l => l.read && l.write
    | none => false

/-- Whether an entry count is a power of two from 64 to 65,536. -/
def ringCountOk (n : Nat) : Bool := (List.range 11).any fun i => n == 2 ^ (6 + i)

/-- The rings of a job: base and entries. -/
def State.ringsOf (s : State) (j : Nat) : List (Nat × Nat) :=
  [(s.reg (K.sqBase j), s.reg (K.sqEntries j)), (s.reg (K.cqBase j), s.reg (K.cqEntries j)), (s.reg (K.eqBase j), s.reg (K.eqEntries j))]

/-- Whether a job's rings are valid (R366). -/
def State.ringsOk (s : State) (j : Nat) : Bool :=
  let l := s.ringsOf j
  let apart (a b : Nat × Nat) : Bool := a.1 + 64 * a.2 ≤ b.1 || b.1 + 64 * b.2 ≤ a.1
  (l.all fun r => r.1 % 4096 == 0 && ringCountOk r.2 && s.mappedRw j r.1 (64 * r.2)) &&
    (match l with | [a, b, c] => apart a b && apart b c && apart a c | _ => false)

/-- Whether another resident job holds a fabric key (R325). -/
def State.keyTaken (s : State) (j key : Nat) : Bool := s.residents.any fun k => k != j && s.keyOf k == key

/-- Deep idle ends: the entry reads 0, and stopped PLLs lock (R400). -/
def State.endDeepIdle (s : State) : State :=
  let s := s.setReg K.deepIdle 0
  if s.pow.pllStopped then ({ s with pow := { s.pow with pllStopped := false } }).setReg K.pllLocked 7 else s

/-- The job_error of CREATE (R364). -/
def State.createError (s : State) (j : Nat) : Nat :=
  let p := s.reg (K.logicalPhrases j)
  let e := s.reg (K.logicalEes j)
  if p = 0 ∨ p > s.reg K.phrasesInService then 0x01
  else if e = 0 ∨ e > s.reg K.eesInService then 0x02
  else if s.ringsOk j = false then 0x03
  else if s.keyOf j = 0 ∨ s.keyTaken j (s.keyOf j) then 0x06
  else 0

/-- A job created (R364, R400, R493); the LFSRs of the slices are loaded from its lane_seed (R48). -/
def State.createNow (s : State) (j : Nat) : State :=
  let s := ((((s.setReg (K.jobState j) jsCreated).setReg (K.createdTick j) s.tick).setReg (K.createdSession j) (s.reg K.sessionNumber))).endDeepIdle
  (List.range 12).foldl (fun s sl => s.modSlice sl fun x => { x with
    lfsr := (j, Lanes.load (s.reg (K.laneSeed j)) (sliceLane sl)) :: x.lfsr.filter (·.1 != j) }) s

/-! ### The checkpoint container (R269, R270) -/

/-- Values of a list one after another, or the first that cannot be had. -/
def accAll {α β : Type} (f : α → Acc β) : List α → Acc (List β)
  | [] => .ok []
  | x :: xs => accBind (f x) fun y => accBind (accAll f xs) fun ys => .ok (y :: ys)

/-- A section: kind, set or table or slot, first row, rows, its bytes without the digest. -/
structure Section where
  kind  : Nat
  num   : Nat
  first : Nat
  rows  : Nat
  body  : List Byte
  deriving DecidableEq, Repr

/-- Bytes of a record (R256). -/
def Pset.recordBytes (P : Pset) : Nat := 16 + P.elems * (4 + P.count * P.ssize)

/-- Parameter set `p` with the row length its descriptor gives. -/
def State.psetHere (s : State) (j p : Nat) : Acc Pset :=
  accBind (s.readVa j (s.reg (K.psetList j) + 128 * p) 128) fun b => s.psetOf j p (nb b 26 2) false

/-- The shard entries of a table whose rows rest on this module. -/
def State.ownShards (s : State) (j : Nat) (t : Table) : Acc (List ShardE) :=
  accBind (accAll (fun i => s.shardAt j t i) (List.range t.shards)) fun l => .ok (l.filter fun e => s.owns t e)

/-- The tables whose rows' state a set holds; one that no descriptor makes sound is none. -/
def State.tablesFor (s : State) (j p : Nat) : Acc (List Table) :=
  accBind (accAll (fun n => match s.tableOf j n with
    | .ok t => Acc.ok (some t)
    | .fail _ _ => .ok none
    | .far nd a l => .far nd a l
    | .wait => .wait) (List.range (s.reg (K.tableCount j)))) fun l =>
  .ok ((l.filterMap id).filter fun t => t.pset == p && t.placement != 2)

/-- The rows of a set that rest here: those of its table's own shards, or of a dense set those whose pages are mapped
(log 26), by first row and number. -/
def State.setRows (s : State) (j : Nat) (P : Pset) : Acc (List (Nat × Nat)) :=
  accBind (s.tablesFor j P.num) fun ts => match ts with
  | [] => .ok [(0, s.mappedRows j P (2 ^ 32) 0)]
  | t :: _ => accBind (s.ownShards j t) fun l => .ok (l.map fun e => (e.first, e.rows))

/-- The sections of a set: its descriptor, then its records in row order. -/
def State.setSections (s : State) (j p : Nat) : Acc (List Section) :=
  accBind (s.readVa j (s.reg (K.psetList j) + 128 * p) 128) fun b =>
  accBind (s.psetHere j p) fun P =>
  accBind (s.setRows j P) fun l =>
  accBind (accAll (fun (r : Nat × Nat) => accBind (accAll (fun i => s.readVa j (P.recAddr (r.1 + i)) P.recordBytes) (List.range r.2))
    fun x => .ok ({ kind := 0x02, num := p, first := r.1, rows := r.2, body := x.flatten } : Section)) l) fun ss =>
  .ok ({ kind := 0x01, num := p, first := 0, rows := 0, body := b } :: ss)

/-- The sections of a table: its descriptor with its shard descriptor, then the promotion maps of its shards here. -/
def State.tableSections (s : State) (j n : Nat) : Acc (List Section) :=
  accBind (s.tableOf j n) fun t =>
  accBind (s.readVa j t.addr 64) fun b =>
  accBind (s.readVa j t.shardDesc (64 + 128 * t.shards)) fun h =>
  accBind (s.ownShards j t) fun l =>
  accBind (accAll (fun (e : ShardE) => accBind (s.readVa j e.map (8 * e.rows)) fun x =>
    .ok ({ kind := 0x04, num := n, first := e.first, rows := e.rows, body := x } : Section)) l) fun ss =>
  .ok ({ kind := 0x03, num := n, first := 0, rows := t.rows, body := b ++ h } :: ss)

/-- The sections of a job's container: sets, tables, recipe images (R270). -/
def State.sections (s : State) (j : Nat) : Acc (List Section) :=
  accBind (accAll (s.setSections j) (List.range (s.reg (K.psetCount j)))) fun a =>
  accBind (accAll (s.tableSections j) (List.range (s.reg (K.tableCount j)))) fun b =>
  .ok (a.flatten ++ b.flatten ++ ((s.job j).recipes.map fun r =>
    { kind := 0x05, num := r.2.1, first := 0, rows := 0, body := r.2.2.flatMap (leBytes 4) }))

/-- A section with its digest. -/
def Section.bytes (x : Section) : List Byte := x.body ++ leBytes 64 (Config.sha512 x.body)

/-- A directory entry (R270). -/
def Section.entry (x : Section) (off : Nat) : List Byte :=
  padTo 64 (leBytes 1 x.kind ++ leBytes 1 x.num ++ zeros 6 ++ leBytes 8 x.first ++ leBytes 8 x.rows ++ leBytes 8 off ++ leBytes 8 x.body.length)

/-- The directory of sections whose first lies at an offset. -/
def directory : Nat → List Section → List Byte
  | _, [] => []
  | off, x :: xs => x.entry off ++ directory (off + x.bytes.length) xs

/-- The container of a job (R269). -/
def State.container (s : State) (j : Nat) (l : List Section) : List Byte :=
  let dir := directory (256 + 64 * l.length) l
  let head := leBytes 4 0x4B435855 ++ leBytes 2 1 ++ leBytes 2 7 ++ leBytes 4 (s.reg K.contractVersion) ++ leBytes 2 (s.reg K.nodeId) ++
    leBytes 2 l.length ++ leBytes 8 (s.reg (K.agreedEpoch j)) ++ leBytes 4 (s.reg (K.lossScale j)) ++ leBytes 4 (s.reg (K.cleanSteps j)) ++
    leBytes 8 s.tick
  padTo 128 head ++ leBytes 64 (Config.sha512 dir) ++ zeros 64 ++ dir ++ l.flatMap Section.bytes

/-! ### Scrub and release (R383) -/

/-- A job is terminated and its scrub begins (R364, R383). -/
def State.beginScrub (s : State) (j : Nat) : State :=
  ((s.setReg (K.jobState j) jsReleasing).terminate j).modJob j fun c => { c with ckpt := false, ckptEnd := 0, scrubbing := true }

/-! ### CHECKPOINT (R383) -/

/-- The lender, as a node of the fabric requests, and the address in it that a job's checkpoint goes to (R384: a tier 2
address). -/
def State.ckptPlace (s : State) (j : Nat) : Nat × Nat :=
  (s.reg (K.ckptDest j) / 2 ^ 48 + 2 ^ 16, s.reg (K.ckptDest j) % 2 ^ 48)

/-- Whether an address of a node lies in a job's container, whose length ckptEnd keeps. -/
def State.inCkpt (s : State) (j node addr : Nat) : Bool :=
  let p := s.ckptPlace j
  node == p.1 && p.2 ≤ addr % 2 ^ 48 && addr % 2 ^ 48 < p.2 + (s.job j).ckptEnd

/-- A checkpoint ends: job_error, CHECKPOINT_DONE, and for a job being released the scrub, recorded in the journal (R371,
R377, R383). -/
def State.endCkpt (s : State) (j err : Nat) : State :=
  let n := if err = 0 then (s.job j).ckptEnd - 1 else 0
  let s := s.modFab fun F => { F with farFail := F.farFail.filter fun x => !s.inCkpt j x.1 x.2.1 }
  let s := (s.modJob j fun c => { c with ckpt := false, ckptEnd := 0 }).setReg (K.jobError j) err
  let s := s.postJob j 0x08 (leBytes 8 (s.reg (K.agreedEpoch j)) ++ leBytes 8 n ++ leBytes 1 err)
  if s.reg (K.jobState j) = jsReleasing then (s.journalOwn 0x06 0x0B 0 0 0 err j).beginScrub j else s

/-- Whether a COMMIT of a job runs: one that has its result and is not complete on every slice. -/
def State.anyCommit (s : State) (j : Nat) : Bool :=
  s.slices.any fun x => x.queue.cmds.any fun c =>
    cb c.word 0 1 == 0x60 &&
      match s.clause c.seq with
      | some cl => cl.job == j && (s.steps.any fun t => t.job == j && t.epoch == cb c.word 8 8 && t.state == .committing)
      | none => false

/-- The write of a job's container starts once no COMMIT of it runs; bytes that rest elsewhere are fetched first. -/
def State.ckptGo (s : State) (j : Nat) : State :=
  if (s.job j).ckpt = false ∨ (s.job j).ckptEnd ≠ 0 ∨ s.anyCommit j then s
  else match s.sections j with
    | .ok l =>
      let b := s.container j l
      if b.length > s.reg (K.ckptCapacity j) then s.endCkpt j 0x07
      else
        let p := s.ckptPlace j
        if s.isMe (p.1 - 2 ^ 16) then s.endCkpt j 0x08
        else (s.modJob j fun c => { c with ckptEnd := 1 + b.length }).putFar j p.1 p.2 b
    | .fail r d => (s.toldFailure r d).endCkpt j 0x08
    | .far n a l => s.fetchFar j n a l
    | .wait => s

/-- The checkpoint of a job begins. -/
def State.beginCkpt (s : State) (j : Nat) : State :=
  if s.reg (K.ckptDest j) = 0 then s.endCkpt j 0x07 else (s.modJob j fun c => { c with ckpt := true, ckptEnd := 0 }).ckptGo j

/-- The checkpoint under way of a job goes on, or ends once its last write is answered (R383). -/
def checkpointDone (j : Nat) (s : State) : State :=
  if s.powered = false ∨ (s.job j).ckpt = false then s
  else if (s.job j).ckptEnd = 0 then s.ckptGo j
  else if s.fab.reqs.any fun r => r.what == 0x03 && r.owner == coreOwner && s.inCkpt j r.node r.addr then s
  else s.endCkpt j (if s.fab.farFail.any fun x => s.inCkpt j x.1 x.2.1 then 0x08 else 0)

/-- CHECKPOINT_DONE (R383). -/
def execCheckpointDone (j : Nat) (s : State) : Host.Outcome State Fault Refusal := finish s (checkpointDone j s)

/-- A job is released under its lease_policy: a checkpoint and then a scrub, or a scrub alone (R359, R377). -/
def State.releaseJob (s : State) (j : Nat) : State :=
  if s.jobServed j = false then s
  else if s.reg (K.leasePolicy j) = 1 then (s.journalOwn 0x06 0x0B 0 0 0 0 j).beginScrub j
  else
    let s := s.setReg (K.jobState j) jsReleasing
    if (s.job j).ckpt then s else s.beginCkpt j

/-- Every job is released, and the session is RELEASING until each is FREE; `next` is the open that waits for it. -/
def State.releaseAll (s : State) (next : Option (Nat × Nat × Nat × Nat)) : State :=
  let s := (s.setReg K.sessionState ssReleasing).modSess fun e => { e with releaseTo := next, token := 0 }
  (s.residents.foldl (fun s j => s.releaseJob j) s).releaseOver

/-! ### job_command (R364) -/

/-- The states from which a command is allowed. -/
def commandFrom (v : Nat) : List Nat :=
  match v with
  | 1 => [jsFree]
  | 2 => [jsCreated]
  | 3 => [jsRunning]
  | 4 => [jsParked]
  | 5 => [jsRunning, jsParked]
  | _ => [jsCreated, jsRunning, jsParked]

/-- The effect of an allowed command: job_error, and the state. -/
def State.doCommand (s : State) (j v : Nat) : Nat × State :=
  match v with
  | 1 =>
    let e := s.createError j
    (e, if e = 0 then s.createNow j else s)
  | 2 => if s.ringsOk j then (0, (s.setReg (K.jobState j) jsRunning).owedJob j) else (0x03, s)
  | 3 => (0, s.park j 0x04)
  | 4 => (0, s.setReg (K.jobState j) jsRunning)
  | 5 =>
    if (s.job j).ckpt then (0x04, s)
    else if s.reg (K.ckptDest j) = 0 then (0x07, s)
    else
      let t := s.beginCkpt j
      (t.reg (K.jobError j), t)
  | _ => (0, s.beginScrub j)

/-- A write of job_command: its result is job_error (R364). -/
def State.jobCommand (s : State) (j v : Nat) : State :=
  if s.reg K.sessionState ≠ ssOpen then s.setReg (K.jobError j) 0x05
  else if !(commandFrom v).contains (s.reg (K.jobState j)) then s.setReg (K.jobError j) 0x04
  else
    let x := (s.setReg (K.jobError j) 0).doCommand j v
    x.2.setReg (K.jobError j) x.1

/-! ### The end of a scrub (R383, R493) -/

/-- A leaf's bytes zeroed where they rest. -/
def State.scrubLeaf (s : State) (l : Leaf) : State :=
  if l.src.isSome ∨ l.allocated = false then s
  else match l.tier with
    | 0 => s.zeroFrames l.frame (leafFrames l)
    | 1 => s
    | _ => s.putFar l.job (l.node + 2 ^ 16) (l.frame * 65536) (zeros 65536)

/-- A page move of a job dropped with the place that is not the leaf's. -/
def State.scrubMove (s : State) (m : PageMove) : State :=
  if m.stage = .copying then s.abandonMove m
  else
    let s := (s.dropMove m).freeTierPlace m.srcTier m.src
    if m.srcTier = 0 then s.zeroFrame m.src else s

/-- The pages of a job: zeroed, given back, forgotten with all that concerns them. -/
def State.scrubMemory (s : State) (j : Nat) : State :=
  let s := (s.mem.moves.filter (·.job == j)).foldl (fun s m => s.scrubMove m) s
  let s := s.dropListSlots j
  let mine := s.mem.leaves.filter (·.job == j)
  let s := mine.foldl (fun s l =>
    let s := match (if l.src.isNone then (leafPlace l l.va).ident else none) with | some a => s.dropLines a (leafSpan l) | none => s
    ((s.scrubLeaf l).freePlace l).dropWalks j l.va) s
  let s := s.modMem fun m => { m with
    leaves := m.leaves.filter fun l => !(l.job == j || (l.src.map (·.1)) == some j)
    pageReqs := m.pageReqs.filter (·.job != j)
    pins := m.pins.filter (·.job != j)
    candidates := m.candidates.filter (·.1 != j)
    retargets := m.retargets.filter (·.1 != j)
    rowMoves := m.rowMoves.filter (·.job != j)
    sweeps := m.sweeps.filter (·.job != j)
    touches := m.touches.filter (·.job != j)
    touched := m.touched.filter (·.1 != j)
    rbDirty := m.rbDirty.filter (·.1 != j)
    rb := clearRun m.rb (s.reg (K.rbBase j)) (s.reg (K.rbLen j)) }
  s

/-- A queue without what core 2 holds of a job. -/
def Queue.forget (Q : Queue) (j : Nat) : Queue := { Q with held := Q.held.filter fun h => h.halt.job != j }

/-- Whether a unit's holder is job `j`. -/
def heldBy (j : Nat) (h : Option (Nat × Nat)) : Bool := h.any (·.1 == j)

/-- The contexts of a job in phrases, EEs, slices and the scheduler. -/
def State.scrubUnits (s : State) (j : Nat) : State :=
  { s with
    phrases := s.phrases.map fun (p : Phrase) =>
      let q : Phrase := { p with array := p.array.forget j, vector := p.vector.forget j, move := p.move.forget j }
      if heldBy j p.holder then { q with holder := none, ctx := PhraseCtx.reset } else q
    ees := s.ees.map fun (e : Ee) =>
      { e with queue := e.queue.forget j, holder := if heldBy j e.holder then none else e.holder }
    slices := s.slices.map fun (x : Slice) =>
      { x with queue := x.queue.forget j, recipes := x.recipes.filter (·.1 != j), lfsr := x.lfsr.filter (·.1 != j) }
    saved := s.saved.filter (·.1 != j)
    bindings := (s.bindings.filter (·.job != j)).map fun (b : Binding) => if heldBy j b.wanted then { b with wanted := none } else b
    waiting := s.waiting.filter (·.job != j)
    jobs := s.jobs.filter (·.job != j)
    steps := s.steps.filter (·.job != j)
    svc := { s.svc with deferred := s.svc.deferred.filter (·.1 != j) } }

/-- What the fabric engine holds of a job; writes that zero lent frames still depart. -/
def State.scrubFabric (s : State) (j : Nat) : State :=
  s.modFab fun F => { F with
    queues := F.queues.map fun (q : FabricQueue) => { queue := q.queue.forget j }
    reqs := F.reqs.filter fun r => r.job != j || r.what == 0x03
    contribs := F.contribs.filter (·.job != j)
    results := F.results.filter (·.job != j)
    releases := F.releases.filter (·.1 != j)
    floors := F.floors.filter (·.1 != j)
    due := F.due.filter fun d => d.1 == 2 || d.2.1 != j
    coll := F.coll.filter (·.job != j)
    shards := F.shards.filter (·.job != j)
    served := F.served.filter (·.job != j) }

/-- The indices of the dictionary that belong to job `j`. -/
def jobIndex (j idx : Nat) : Bool :=
  (0x3000 + 16 * j ≤ idx && idx < 0x3010 + 16 * j) || idx == 0x2540 + j || idx == 0x2640 + j || idx == 0x2740 + j || idx == 0x2780 + j

/-- The scrub of a job ends: its pages are zeroed, its rings, recipes and contexts cleared, its quotas returned, and it is
FREE with every entry at its reset value; a RELEASING session may then end (R357, R383, R493). -/
def jobScrubDone (j : Nat) (s : State) : State :=
  if s.powered = false ∨ s.reg (K.jobState j) ≠ jsReleasing ∨ (s.job j).scrubbing = false then s
  else
    let s := (((s.evictList j).scrubMemory j).scrubUnits j).scrubFabric j
    let s := { s with regs := s.regs.filter fun r => !jobIndex j (r.1 / 256) }
    s.releaseOver

/-- JOB_SCRUB_DONE (R383). -/
def execJobScrubDone (j : Nat) (s : State) : Host.Outcome State Fault Refusal := finish s (jobScrubDone j s)

/-! ### Sessions silent and over (R357, R377) -/

/-- The heartbeat timeout of an OPEN session: SILENT (R357). A lease of 0 releases at once (R377). -/
def heartbeatTimeout (s : State) : State :=
  if s.reg K.sessionState ≠ ssOpen then s
  else
    let s := (s.setReg K.sessionState ssSilent).modSess fun e => { e with silentAt := s.tick }
    if s.reg K.lease = 0 then s.releaseAll none else s

/-- HEARTBEAT_TIMEOUT (R357). -/
def execHeartbeatTimeout (s : State) : Host.Outcome State Fault Refusal := finish s (heartbeatTimeout s)

/-- The lease of a SILENT session ends (R377). -/
def leaseEnd (s : State) : State := if s.reg K.sessionState ≠ ssSilent then s else s.releaseAll none

/-- LEASE_END (R377). -/
def execLeaseEnd (s : State) : Host.Outcome State Fault Refusal := finish s (leaseEnd s)

/-- The hold-off of opens and resumes ends (R360). -/
def holdOffEnd (s : State) : State := s.modSess fun e => { e with holdOff := none }

/-- HOLD_OFF_END (R360). -/
def execHoldOffEnd (s : State) : Host.Outcome State Fault Refusal := finish s (holdOffEnd s)

/-! ### RESTORE (R271) -/

/-- A directory entry of a container and the bytes it names: kind, number, first row, rows, bytes, digest. -/
def sectionAt (c : List Byte) (i : Nat) : Section × Nat :=
  let d := (c.drop (256 + 64 * i)).take 64
  let off := nb d 24 8
  let len := nb d 32 8
  ({ kind := nb d 0 1, num := nb d 1 1, first := nb d 8 8, rows := nb d 16 8, body := (c.drop off).take len }, nb c (off + len) 64)

/-- The sections of a container whose family, contract major version and every digest are good (R271). -/
def State.readContainer (s : State) (c : List Byte) : Option (List Section) :=
  let n := nb c 14 2
  let l := (List.range n).map (sectionAt c)
  if nb c 0 4 == 0x4B435855 && nb c 4 2 == 1 && nb c 6 2 == 7 && nb c 8 4 / 65536 == s.reg K.contractVersion / 65536 &&
      nb c 128 64 == Config.sha512 ((c.drop 256).take (64 * n)) && (l.all fun x => x.2 == Config.sha512 x.1.body) then
    some (l.map (·.1))
  else none

/-- Writes made one after another, or none. -/
def accFold {α : Type} (f : State → α → Acc State) : List α → State → Acc State
  | [], s => .ok s
  | x :: xs, s => accBind (f s x) fun t => accFold f xs t

/-- The descriptor of set `p` in a container. -/
def State.boxPset (s : State) (j : Nat) (l : List Section) (p : Nat) : Option Pset :=
  if p < s.reg (K.psetCount j) then
    (l.find? fun x => x.kind == 0x01 && x.num == p).map fun x => psetFields p (s.reg (K.psetList j) + 128 * p) (padTo 128 x.body)
  else none

/-- Table `n` of a container with the entries of its shards whose rows rest on this module. -/
def State.boxTable (s : State) (j : Nat) (l : List Section) (n : Nat) : Option (Table × List ShardE) :=
  if n < s.reg (K.tableCount j) then
    (l.find? fun x => x.kind == 0x03 && x.num == n).map fun x =>
      let addr := s.reg (K.tableList j) + 64 * n
      let t := tableFields n addr (s.descKey j addr) (x.body.take 64)
      let es := (List.range ((x.body.length - 128) / 128)).map fun i => s.shardHere t ((x.body.drop (128 + 128 * i)).take 128)
      (t, es.filter (s.owns t))
  else none

/-- A write of a container's bytes by a control core; one that the job's pages refuse refuses the restore (DESIGN CHOICE, log 26). -/
def State.boxWrite (s : State) (j addr : Nat) (bs : List Byte) : Acc State := s.writeOutAs .core j addr bs

/-- A section written back: a descriptor, records, a table with its shard descriptor, a promotion map, a recipe (R271). -/
def State.restoreSection (j : Nat) (l : List Section) (s : State) (x : Section) : Acc State :=
  match x.kind with
  | 0x01 => if x.num < s.reg (K.psetCount j) then s.boxWrite j (s.reg (K.psetList j) + 128 * x.num) (padTo 128 x.body) else .fail 0x13 0
  | 0x02 => match s.boxPset j l x.num with
    | some P => accFold (fun s i => s.boxWrite j (P.recAddr (x.first + i)) ((x.body.drop (i * P.recordBytes)).take P.recordBytes))
        (List.range x.rows) s
    | none => .fail 0x13 0
  | 0x03 => match s.boxTable j l x.num with
    | some (t, _) => accBind (s.boxWrite j t.addr (padTo 64 (x.body.take 64))) fun s => s.boxWrite j t.shardDesc (x.body.drop 64)
    | none => .fail 0x13 0
  | 0x04 => match (s.boxTable j l x.num).bind fun t => t.2.find? (·.first == x.first) with
    | some e => s.boxWrite j e.map (x.body.take (8 * e.rows))
    | none => .fail 0x13 0
  | 0x05 =>
    let e := (j, x.num, (List.range (x.body.length / 4)).map fun i => nb x.body (4 * i) 4)
    let same (r : Nat × Nat × List Nat) : Bool := r.1 == j && r.2.1 == x.num
    let s := { s with slices := s.slices.map fun (y : Slice) => { y with recipes := e :: y.recipes.filter fun r => !same r } }
    .ok (s.modJob j fun y => { y with recipes := e :: y.recipes.filter fun r => !same r })
  | _ => .ok s

/-- The master of row `i` of a section's records, expanded. -/
def Section.master (x : Section) (P : Pset) (i : Nat) : List Num :=
  (elemsOf fmF32 ((x.body.drop (i * P.recordBytes + 16)).take (4 * P.elems)) P.elems).map (decodeNum fmF32)

/-- The slice that derives a working copy: that of the record's stack, or slice 0 where the record rests on none (DESIGN CHOICE, log 26). -/
def State.deriver (s : State) (j : Nat) (P : Pset) (row : Nat) : Nat := (s.rowSlice j (P.recAddr row)).getD 0

/-- The working copy of a table's row derived from its master, at the level its map gives (R264, R271). -/
def State.deriveRow (s : State) (j : Nat) (l : List Section) (t : Table) (es : List ShardE) (P : Pset) (row : Nat) (xs : List Num) : Acc State :=
  match es.find? fun e => e.first ≤ row && row < e.first + e.rows with
  | none => .ok s
  | some e => match l.find? fun x => x.kind == 0x04 && x.num == t.num && x.first == e.first with
    | none => .ok s
    | some m =>
      let v := nb m.body (8 * (row - e.first)) 8
      if mapOk t e v = false then .ok s
      else
        let sl := s.deriver j P row
        let w := encodeRow (t.fmt (mapLevel v)) xs (s.sliceCv sl j P.rnd)
        accBind (s.boxWrite j (slotAddr t e (mapLevel v) (mapSlot v)) w.1) fun s => .ok ((s.saveSliceCv sl j w.2).evictRow t.key row)

/-- The working copy of a dense row derived from its master. -/
def State.deriveDense (s : State) (j : Nat) (P : Pset) (row : Nat) (xs : List Num) : Acc State :=
  let sl := s.deriver j P row
  let w := putAll P.wfmt xs (s.sliceCv sl j P.rnd)
  accBind (s.boxWrite j (P.work + P.elems * row * (fmtBits P.wfmt / 8)) (packElems P.wfmt w.1)) fun s => .ok (s.saveSliceCv sl j w.2)

/-- The working copies of the rows of a section of records derived. -/
def State.deriveSection (j : Nat) (l : List Section) (s : State) (x : Section) : Acc State :=
  match s.boxPset j l x.num with
  | none => .fail 0x13 0
  | some P =>
    let ts := ((List.range (s.reg (K.tableCount j))).filterMap fun n => s.boxTable j l n).filter fun t => t.1.pset == x.num && t.1.placement != 2
    accFold (fun s i =>
      let xs := x.master P i
      if ts = [] then s.deriveDense j P (x.first + i) xs
      else accFold (fun s t => s.deriveRow j l t.1 t.2 P (x.first + i) xs) ts s) (List.range x.rows) s

/-- A container restored into a resident job: refused before any state changes, or written whole (R271). Sections are written
kind by kind: sets, tables, maps, records, recipes; no previous version of a shard is held afterwards (R341). Everything that it reads comes
from the container, and what rests with a lender departs. -/
def restore (j : Nat) (c : List Byte) (s : State) : State :=
  if s.powered = false ∨ s.jobServed j = false then s
  else match s.readContainer c with
    | none => s
    | some l =>
      let order := [0x01, 0x03, 0x04, 0x02, 0x05].flatMap fun k => l.filter fun (x : Section) => x.kind == k
      let done := accBind (accFold (State.restoreSection j l) order ((s.evictList j).dropListSlots j)) fun s =>
        accFold (State.deriveSection j l) (l.filter (·.kind == 0x02)) s
      match done with
      | .ok t =>
        let t := t.modFab fun F => { F with shards := F.shards.filter (·.job != j), served := F.served.filter (·.job != j) }
        (((t.setReg (K.agreedEpoch j) (nb c 16 8)).setReg (K.lossScale j) (nb c 24 4)).setReg (K.cleanSteps j) (nb c 28 4)).evictList j
      | _ => s

/-- RESTORE (R271). -/
def execRestore (j : Nat) (c : List Byte) (s : State) : Host.Outcome State Fault Refusal := finish s (restore j c s)

end Sys2Proof.Machine
end

