-- ==== Sys2Proof/Machine/Power.lean ====
section
/-! DEFINITION. Power, clocks and inputs: the governor (R375, R376, R393), input samples and the limiter (R389, R394), the
thermal gate (R401 to R403), the 48 V input and the rails (R386 to R392), the PLLs (R396), the discrete inputs (R404 to R409),
and the power states of units (R398 to R400, R517). -/

namespace Sys2Proof.Machine

/-! ### The governor (R376, R393, R402) -/

/-- A temperature kept as an I32. -/
def asInt32 (v : Nat) : Int := if v ≥ 2 ^ 31 then (v : Int) - 2 ^ 32 else v

/-- h_die of R402 in units of 10^−4. -/
def State.hDie (s : State) : Nat :=
  let room : Int := 1000 * (s.reg K.junctionLimit : Int) - asInt32 (s.reg K.junction)
  if room ≥ 10000 then 10000 else room.toNat

/-- h_hbm of R402 in units of 10^−4. -/
def State.hHbm (s : State) : Nat :=
  let level := (List.range 12).foldl (fun a st => max a (s.reg (K.hbmThrottleLevel st))) 0
  match level with | 0 => 10000 | 1 => 8500 | 2 => 6000 | _ => 4000

/-- h of R402 in units of 10^−4. -/
def State.thermalH (s : State) : Nat := min s.hDie s.hHbm

/-- base_prev of R393 in nJ, from the windows' measured energy beyond the charges. -/
def basePrev (l : List Nat) : Nat := max 38000000 (match l with | [] => 0 | x :: xs => xs.foldl min x)

/-- The charge of one resident clause at the start of a window, or its hold (R376). -/
def State.windowCharge (s : State) (c : Clause) : State :=
  let p := energyPower c.energy * 25000
  if p = 0 then s.modClause c.seq fun x => { x with held := false }
  else if (p : Int) ≤ s.gov.credit then (s.chargeJob c.job p).modClause c.seq fun x => { x with held := false }
  else (s.bump (K.heldWindows c.job) 1).modClause c.seq fun x => { x with held := true }

/-- What the governor reports of the window that ended (R385), in mJ. -/
def State.windowReport (s : State) (excess : Nat) : State :=
  ((s.setReg K.windowCredit ((s.gov.credit + s.gov.charged).toNat / 1000000)).setReg K.windowCharged (s.gov.charged / 1000000)).setReg
    K.windowExcess (excess / 1000000)

/-- The start of a governor window: `measured` is the energy of the window that ended, in mJ (R376, R389, R393). -/
def State.windowStart (s : State) (measured : Nat) : State :=
  let excessNj := measured * 1000000 - s.gov.charged
  let l := (excessNj :: s.gov.baselines).take 16
  let base := basePrev l
  let excess := excessNj - base
  let h := s.thermalH
  let credit := (s.reg K.powerCap * 1000000 - base) * h / 10000 - excess
  let s := s.windowReport excess
  let s := (s.setReg K.baselineMw (base / 1000)).setReg K.thermalH (near fmF32 ((intNum h).div (intNum 10000))).code
  let s := { s with gov := { s.gov with credit := credit, charged := 0, windowStart := s.tick, excess := excess, baselines := l } }
  let s := s.clauses.foldl State.windowCharge s
  let s := if s.clauses.any (·.held) then s.bump K.holdWindows 1 else s
  { s with waiting := s.waiting.map fun w => { w with windows := w.windows + 1 } }

/-- Whether boot is complete and the fast domains run. -/
def State.booted (s : State) : Bool := s.powered && s.reg K.bootStatus == 1

/-- A governor window starts: core 0 charges the resident clauses and admits waiting ones. None starts while core 0 is down, in
an update pause, or in deep idle (R376, R379, R380, R517). -/
def governorWindow (measured : Nat) (s : State) : State :=
  if s.booted = false ∨ s.svc.coreDown.contains 0 ∨ s.trust.updateReq.isSome ∨ s.pow.pllStopped then s
  else admitWaiting ((s.wake (.core 0)).windowStart measured)

/-- GOVERNOR_WINDOW (R376). -/
def execGovernorWindow (measured : Nat) (s : State) : Host.Outcome State Fault Refusal := finish s (governorWindow measured s)

/-! ### Input samples and the limiter (R389, R394) -/

/-- The mean of samples of (mV, mA), in mW. -/
def meanMw (l : List (Nat × Nat)) : Nat := (l.map fun x => x.1 * x.2).sum / 1000 / max 1 l.length

/-- Ticks of one second. -/
abbrev ticksPerSecond : Nat := 25000000

/-- POWER_LIMIT, at most once per second while the limiter acts (R410). -/
def State.postLimit (s : State) : State :=
  if s.gov.limitPosted ≠ 0 ∧ s.tick + 1 - s.gov.limitPosted < ticksPerSecond then s
  else
    let s := s.postSession 0x52 0xFF (leBytes 4 s.gov.limitTicks.length ++ leBytes 4 (s.reg K.powerCap))
    { s with gov := { s.gov with limitPosted := s.tick + 1 } }

/-- A sample with the gate closed by the limiter: counted (R394). -/
def State.limitSample (s : State) : State :=
  let recent := s.gov.limitTicks.filter fun t => s.tick - t < ticksPerSecond
  let s := { s with gov := { s.gov with limitTicks := if s.gov.gateLimiter then s.tick :: recent else recent } }
  if s.gov.gateLimiter then (s.bump K.limiterSamples 1).postLimit else s

/-- A 40 µs sample of the input (R389): the sliding mean, the energy, and the limiter's gate (R394). -/
def powerSample (mv ma : Nat) (s : State) : State :=
  if s.pow.standby = false then s
  else
    let l := ((mv, ma) :: s.gov.samples).take 25
    let mean := meanMw l
    let pj := s.gov.energyRest + mv * ma * 40
    let cap := s.reg K.powerCap * 1000
    let gate := if mean * 100 > cap * 102 then true else if mean ≤ cap then false else s.gov.gateLimiter
    let s := (((s.setReg K.inputMv mv).setReg K.inputMa ma).setReg K.inputMw mean).bump K.inputEnergy (pj / 10 ^ 9)
    let s := { s with gov := { s.gov with samples := l, energyRest := pj % 10 ^ 9, gateLimiter := gate && s.powered } }
    s.limitSample

/-- POWER_SAMPLE (R389). -/
def execPowerSample (mv ma : Nat) (s : State) : Host.Outcome State Fault Refusal := finish s (powerSample mv ma s)

/-! ### What is lost with the fast domains (R388, R392, R405, R425, R431, R477) -/

/-- Whether the standby domain keeps an entry while the fast domains lose theirs. -/
def standbyKeeps (stopped : Bool) (k : Nat) : Bool :=
  let idx := k / 256
  idx == 0x1200 || idx == 0x1220 || idx == 0x2000 || k == K.thermalTrips || (idx == 0x1011 && k < K.portsUp) ||
    (0x2930 ≤ idx && idx ≤ 0x2937) || k == K.t0FramesInService || k == K.t1UsableBytes ||
    (0x2610 ≤ idx && idx < 0x261C && k % 256 == 7) || (stopped && idx == 0x2900)

/-- A service state that outlives the loss: a procedure under way is given up (log 36). -/
def settledService (v : Nat) : Nat := match v with | 1 => 0 | 3 => 2 | n => n

/-- Service states settled, and the ports that are out of service stay so. -/
def State.settleService (s : State) : State :=
  let s : State := { s with regs := s.regs.map fun r =>
    if 0x2930 ≤ r.1 / 256 ∧ r.1 / 256 ≤ 0x2937 then (r.1, settledService r.2) else r }
  let s : State := { s with regs := s.regs.filter fun r => !(0x2930 ≤ r.1 / 256 && r.1 / 256 ≤ 0x2937 && r.2 == 0) }
  (List.range 16).foldl (fun s p => if s.reg (K.portServiceState p) = 0 then s else s.setReg (K.portState p) psOut) s

/-- The fast domains lose their contents: jobs, session, memory, everything but what the standby domain, the fuses and the boot
store hold. -/
def State.fastLost (s : State) : State :=
  let r := State.reset
  let stopped := s.reg K.moduleState == 2
  let t : State := { r with
    pending := s.pending
    free := s.free
    tick := s.tick
    part := s.part
    regs := s.regs.filter fun x => standbyKeeps stopped x.1
    sess := { r.sess with sbPartial := s.sess.sbPartial, sbKept := s.sess.sbKept, sbOut := s.sess.sbOut }
    gov := { r.gov with
      samples := s.gov.samples
      limitPosted := s.gov.limitPosted
      limitTicks := s.gov.limitTicks
      excluded := s.gov.excluded
      gateStop := s.gov.gateStop
      energyRest := s.gov.energyRest }
    pow := { s.pow with inReset := true, pllStopped := false, inHold := false, selfRefresh := false }
    svc := { r.svc with mirror := s.svc.mirror, passed := s.svc.passed }
    trust := { r.trust with
      trustedA := s.trust.trustedA
      trustedB := s.trust.trustedB
      controlA := s.trust.controlA
      controlB := s.trust.controlB
      prefTrusted := s.trust.prefTrusted
      prefControl := s.trust.prefControl } }
  (t.setReg K.pllLocked (s.reg K.pllLocked)).settleService

/-- rw entries that the standby domain holds take their reset values (R477). -/
def State.standbyDefaults (s : State) : State :=
  { s with regs := s.regs.filter fun r => r.1 != K.sbRyeveService && r.1 != K.alertMask && r.1 != K.powerCap }

/-! ### Rails (R387 to R392) -/

/-- Whether the main rails are on, or coming up. -/
def State.railsOn (s : State) : Bool := s.pow.railsWant && s.pow.railsUp != 0

/-- Latched bits of alert_status set (R408). -/
def State.latchAlert (s : State) (m : Nat) : State := s.setReg K.alertStatus (s.reg K.alertStatus ||| m)

/-- Recognised state of input i: 0 MOD_EN, 1 MOD_RST_N, 2 PFW_N. -/
def State.input (s : State) (i : Nat) : Bool := bit (s.reg K.inputs) i

/-- Whether the rails are off or the module is in reset: every transmitter is dark (R508). -/
def State.lightsOut (s : State) : Bool := s.pow.railsUp == 0 || s.input 1

/-- Whether the transmitters of fabric port `p` are dark (R508). -/
def State.portDark (s : State) (p : Nat) : Bool :=
  s.reg (K.portState p) == psOut || s.reg (K.portState p) == psQuarantined || s.reg K.nodeId == 0xFFFF || s.lightsOut

/-- Whether lane `l` of port `p` is dark: the port's are, or the lane is retired until the port trains again (R322, R508). -/
def State.laneDark (s : State) (p l : Nat) : Bool :=
  s.portDark p || (s.reg (K.portState p) == psUp && !bit (s.reg (K.portLanesInService p)) l)

/-- Raises of R443 that a loss of power cuts off: each counter reads between its old value and the image's. -/
def State.cutRaises (s : State) : State :=
  s.trust.fusesDue.foldl (fun s d =>
    let old := cellGet 0 (d.1 - 1) s.part.rollback
    let n := old + s.freeVal (90 + d.1) % (d.2.1 - old + 1)
    { s with part := { s.part with rollback := cellPut 0 (d.1 - 1) n s.part.rollback } }) s

/-- The rails go off at once: what the fast domains held is lost, the cause is kept (R388, R403, R425). -/
def State.railsDrop (s : State) (cause : Nat) (rearm uv : Bool) : State :=
  let s := (s.cutRaises.fastLost.setReg K.lastOffCause cause).setReg K.pllLocked 0
  { s with pow := { s.pow with railsUp := 0, railsWant := false, rearm := rearm, uvWait := uv } }

/-- The rails are sequenced on if nothing keeps them off: MOD_EN recognised, inrush over, no MOD_EN cycle or 40 V awaited, and
every group off (R387, R388, R390, R407). -/
def State.railsStart (s : State) : State :=
  if s.pow.standby && s.pow.inrushDone && s.input 0 && !s.pow.rearm && !s.pow.uvWait && s.pow.railsUp == 0 then
    { s with pow := { s.pow with railsWant := true } }
  else s

/-- A turn-off of R388: counted, and the alert latched. -/
def State.inputFault (s : State) (cause : Nat) : State :=
  ((s.railsDrop cause (cause != 2) (cause == 2)).bump32 K.inputFaults 1).latchAlert 0x10

/-- A dip of the input (R388, R501). -/
def inputUndervoltage (mv us : Nat) (s : State) : State :=
  if s.railsOn = false ∨ mv ≥ 40000 then s
  else if mv < 38000 ∧ us ≥ 10 then s.inputFault 2
  else s.postSession 0x54 0xFF (leBytes 4 mv)

/-- INPUT_UNDERVOLTAGE (R388). -/
def execInputUndervoltage (mv us : Nat) (s : State) : Host.Outcome State Fault Refusal := finish s (inputUndervoltage mv us s)

/-- A rise of the input (R388, R410, R500). -/
def inputOvervoltage (mv us : Nat) (s : State) : State :=
  if s.railsOn = false ∨ mv ≤ 60000 then s
  else if mv > 61000 ∧ us ≥ 10 then s.inputFault 3
  else s.postSession 0x54 0xFF (leBytes 4 mv)

/-- INPUT_OVERVOLTAGE (R388). -/
def execInputOvervoltage (mv us : Nat) (s : State) : Host.Outcome State Fault Refusal := finish s (inputOvervoltage mv us s)

/-- A rail of a group that is good loses power-good (R388). -/
def railFault (group : Nat) (s : State) : State :=
  if s.railsOn ∧ 1 ≤ group ∧ group ≤ s.pow.railsUp then s.inputFault 4 else s

/-- RAIL_FAULT (R388). -/
def execRailFault (group : Nat) (s : State) : Host.Outcome State Fault Refusal := finish s (railFault group s)

/-- The input has stayed at 40 V or more for 10 µs after an undervoltage (R388). -/
def undervoltageRecovery (mv us : Nat) (s : State) : State :=
  if s.pow.uvWait = false ∨ mv < 40000 ∨ us < 10 then s
  else ({ s with pow := { s.pow with uvWait := false } }).railsStart

/-- UNDERVOLTAGE_RECOVERY (R388). -/
def execUndervoltageRecovery (mv us : Nat) (s : State) : Host.Outcome State Fault Refusal := finish s (undervoltageRecovery mv us s)

/-- The next rail group reports power-good (R390). -/
def railGroupGood (g : Nat) (s : State) : State :=
  if s.pow.railsWant ∧ s.pow.standby ∧ g = s.pow.railsUp + 1 ∧ g ≤ 6 then { s with pow := { s.pow with railsUp := g } } else s

/-- RAIL_GROUP_GOOD (R390). -/
def execRailGroupGood (g : Nat) (s : State) : Host.Outcome State Fault Refusal := finish s (railGroupGood g s)

/-- The last group that is on falls below 10 % of nominal (R392); with every group off a MOD_EN assertion recognised meanwhile takes
effect (R407). -/
def railGroupOff (g : Nat) (s : State) : State :=
  if s.pow.railsWant = false ∧ g = s.pow.railsUp ∧ 1 ≤ g then ({ s with pow := { s.pow with railsUp := g - 1 } }).railsStart else s

/-- RAIL_GROUP_OFF (R392). -/
def execRailGroupOff (g : Nat) (s : State) : Host.Outcome State Fault Refusal := finish s (railGroupOff g s)

/-- The input rises through 38 V: the standby domain starts afresh, and SLOT_ID is sampled (R387, R397, R409, R477). -/
def standbyStart (mv slot : Nat) (s : State) : State :=
  if s.pow.standby ∨ mv < 38000 then s
  else
    let r := State.reset
    let t : State := { r with
      pending := s.pending
      free := s.free
      part := s.part
      pow := { r.pow with
        inrushDone := false
        railsUp := 0
        railsWant := false
        inReset := true
        rawLevel := s.pow.rawLevel
        filtered := 0 }
      trust := { r.trust with
        trustedA := s.trust.trustedA
        trustedB := s.trust.trustedB
        controlA := s.trust.controlA
        controlB := s.trust.controlB
        prefTrusted := s.trust.prefTrusted
        prefControl := s.trust.prefControl } }
    ((t.setReg K.pllLocked 0).setReg K.inputs 0).setReg K.slotId (slot % 8)

/-- STANDBY_START (R387). -/
def execStandbyStart (mv slot : Nat) (s : State) : Host.Outcome State Fault Refusal := finish s (standbyStart mv slot s)

/-- The input falls below 36 V: standby stops, and nothing but the fuses and the boot store remains (R387, R427, R431). -/
def standbyStop (s : State) : State :=
  if s.pow.standby = false then s
  else
    let s := s.railsDrop 0 false false
    { s with
      regs := (s.regs.filter fun _ => false)
      tick := 0
      sess := Sess.reset
      gov := Gov.reset
      svc := Svc.reset
      pow := { s.pow with standby := false, inrushDone := false, filtered := 0, rawSince := [0, 0, 0], pfwSince := 0, releasedAt := 0 } }

/-- STANDBY_STOP (R387). -/
def execStandbyStop (s : State) : Host.Outcome State Fault Refusal := finish s (standbyStop s)

/-- The input capacitance is charged: MOD_EN may be recognised (R386, R387). -/
def inrushEnd (s : State) : State :=
  if s.pow.standby then ({ s with pow := { s.pow with inrushDone := true } }).railsStart else s

/-- INRUSH_END (R386). -/
def execInrushEnd (s : State) : Host.Outcome State Fault Refusal := finish s (inrushEnd s)

/-! ### Reset and boot start (R391, R397, R446) -/

/-- The internal reset is released once the PLLs are locked and MOD_RST_N is deasserted: the boot ROM starts (R391, R446). -/
def State.releaseReset (s : State) : State :=
  if s.pow.inReset && s.pow.railsWant && s.pow.railsUp == 6 && s.reg K.pllLocked == 7 && !s.input 1 && s.reg K.bootStatus != 2 then
    { s with pow := { s.pow with inReset := false, releasedAt := s.tick } }
  else s

/-- The fast PLLs lock after the rails are good (R390, R391). -/
def pllLock (s : State) : State :=
  if s.pow.railsWant ∧ s.pow.railsUp = 6 ∧ s.pow.inReset then (s.setReg K.pllLocked 7).releaseReset else s

/-- PLL_LOCK (R391). -/
def execPllLock (s : State) : Host.Outcome State Fault Refusal := finish s (pllLock s)

/-! ### PLLs losing lock (R396) -/

/-- A fault of the hardware strikes the command a queue has in execution, if any: it halts (R97, R209, R396). -/
def State.strike (s : State) (q : QueueId) (reason detail : Nat) : State :=
  match s.queue q with
  | none => s
  | some Q =>
    match Q.halt, Q.infl, Q.cmds with
    | none, some f, c :: _ =>
      match s.clause c.seq with
      | none => s
      | some cl =>
        match q.cls, cb c.word 0 1 with
        | .move, _ => s.haltCmd q c cl reason detail ((moveGeom c.word).progress f.progress) f.pos (f.progress != 0)
        | .embed, 0x50 => State.lookupEnd q.unit c cl (.halt s f.pos reason detail)
        | .embed, 0x51 => State.scatterEnd q.unit c cl (.halt s f.pos reason detail)
        | .embed, _ => s.haltCmd q c cl reason detail f.progress f.pos true
        | .fabric, _ => s.haltCmd q c cl reason detail f.progress f.pos (f.pos != 0 || cl.begun)
        | .array, _ => (s.arrayHalt q.unit).haltCmd q c cl reason detail f.progress f.pos (f.progress != 0)
        | _, _ => s.haltCmd q c cl reason detail f.progress f.pos (f.progress != 0)
    | _, _, _ => s

/-- Queues whose units a PLL clocks: A the engines, F the fabric engine, M none (R396). -/
def pllQueues (p : Nat) : List QueueId :=
  match p with
  | 0 => allQueues.filter fun q => q.cls != .fabric
  | 2 => allQueues.filter fun q => q.cls == .fabric
  | _ => []

/-- A PLL loses lock: its units stop, and the commands they have in execution halt (R396). -/
def pllUnlock (p : Nat) (s : State) : State :=
  if s.powered = false ∨ s.pow.pllStopped ∨ p > 2 ∨ bit (s.reg K.pllLocked) p = false then s
  else
    let s := ((s.setReg K.pllLocked (setBit (s.reg K.pllLocked) p false)).bump32 K.pllUnlocks 1).latchAlert 0x80
    let s := s.postSession 0x55 0xFF (leBytes 1 p)
    (pllQueues p).foldl (fun s q => s.strike q 0x30 (0xFFFFFFFFFFFFFF00 + p)) s

/-- PLL_UNLOCK (R396). -/
def execPllUnlock (p : Nat) (s : State) : Host.Outcome State Fault Refusal := finish s (pllUnlock p s)

/-- A PLL locks again (R396). -/
def pllRelock (p : Nat) (s : State) : State :=
  if s.powered ∧ s.pow.pllStopped = false ∧ p ≤ 2 then s.setReg K.pllLocked (setBit (s.reg K.pllLocked) p true) else s

/-- PLL_RELOCK (R396). -/
def execPllRelock (p : Nat) (s : State) : Host.Outcome State Fault Refusal := finish s (pllRelock p s)

/-! ### Discrete inputs (R404, R405) -/

/-- Bit of an input in 0x1220.01. -/
def pinBit : Pin → Nat | .modEn => 0 | .modRst => 1 | .pfw => 2

/-- Whether a level asserts an input: MOD_EN is active high, the others low. -/
def pinAsserts (p : Pin) (level : Bool) : Bool := match p with | .modEn => level | _ => !level

/-- Whether a raw level has held the 500 ticks of the glitch filter. -/
def State.rawHeld (s : State) (i : Nat) : Bool := (s.tick : Int) - s.pow.rawSince.getD i 0 ≥ 500

/-- The filtered state of an input now. -/
def State.filteredNow (s : State) (i : Nat) : Bool := if s.rawHeld i then bit s.pow.rawLevel i else bit s.pow.filtered i

/-- An edge of a raw level: the filter of R404 starts or restarts, and a pulse that ends before it has passed the filter is
counted. -/
def rawInputEdge (p : Pin) (level : Bool) (s : State) : State :=
  let i := pinBit p
  let v := pinAsserts p level
  if s.pow.standby = false ∨ bit s.pow.rawLevel i = v then
    if s.pow.standby then s else { s with pow := { s.pow with rawLevel := setBit s.pow.rawLevel i v } }
  else
    let f := s.filteredNow i
    let s := if bit s.pow.rawLevel i ≠ f then s.bump32 K.glitches 1 else s
    { s with pow := { s.pow with
      rawLevel := setBit s.pow.rawLevel i v
      filtered := setBit s.pow.filtered i f
      rawSince := s.pow.rawSince.set i s.tick } }

/-- RAW_INPUT_EDGE (R404). -/
def execRawInputEdge (p : Pin) (level : Bool) (s : State) : Host.Outcome State Fault Refusal := finish s (rawInputEdge p level s)

/-- An input is recognised asserted or deasserted: its filtered level has been so. -/
def State.recognise (s : State) (i : Nat) (v : Bool) : State :=
  let raw := if s.filteredNow i = v then s.pow.rawLevel else setBit s.pow.rawLevel i v
  let s := s.setReg K.inputs (setBit (s.reg K.inputs) i v)
  { s with pow := { s.pow with rawLevel := raw, filtered := setBit s.pow.filtered i v } }

/-- MOD_EN is recognised asserted: the rails are sequenced on; the module leaves safe stop (R390, R405, R425). -/
def modEnAssert (s : State) : State :=
  if s.pow.standby = false ∨ s.pow.inrushDone = false ∨ s.input 0 then s
  else
    let s := s.recognise 0 true
    let s := if s.reg K.moduleState = 2 then
        ({ s with gov := { s.gov with gateStop := false } }).setReg K.moduleState 0
      else s
    s.railsStart

/-- MOD_EN_ASSERT (R390). -/
def execModEnAssert (s : State) : Host.Outcome State Fault Refusal := finish s (modEnAssert s)

/-- MOD_EN is recognised deasserted: the rails are sequenced off, and the fast domains lose their contents (R392). -/
def modEnDeassert (s : State) : State :=
  if s.pow.standby = false ∨ s.input 0 = false then s
  else
    let on := s.railsOn
    let s := s.recognise 0 false
    let s := if on then (s.fastLost.setReg K.lastOffCause 0x01).setReg K.pllLocked 0 else s
    { s with pow := { s.pow with railsWant := false, rearm := false } }

/-- MOD_EN_DEASSERT (R392). -/
def execModEnDeassert (s : State) : Host.Outcome State Fault Refusal := finish s (modEnDeassert s)

/-- MOD_RST_N is recognised asserted: everything but the standby domain and the power stage enters reset (R405). -/
def modRstAssert (s : State) : State :=
  if s.pow.standby = false ∨ s.input 1 then s
  else
    let s := s.recognise 1 true
    if s.railsOn then s.fastLost else s

/-- MOD_RST_N_ASSERT (R405). -/
def execModRstAssert (s : State) : Host.Outcome State Fault Refusal := finish s (modRstAssert s)

/-- MOD_RST_N is recognised deasserted: the tick counter starts at zero, SLOT_ID is sampled again, rw entries take their reset
values, and boot starts (R391, R397, R409, R477). -/
def modRstRelease (slot : Nat) (s : State) : State :=
  if s.pow.standby = false ∨ s.input 1 = false then s
  else
    let s := s.recognise 1 false
    let t := s.tick
    let s := { s.standbyDefaults with
      tick := 0
      pow := { s.pow with rawSince := s.pow.rawSince.map fun (x : Int) => x - t, releasedAt := 0 }
      gov := { s.gov with limitPosted := 0, limitTicks := [] }
      sess := { s.sess with reconnects := [] } }
    let s := if slot % 8 = s.reg K.slotId then s
      else ((s.setReg K.slotIdMismatch 1).latchAlert 0x20).postSession 0x56 0xFF (leBytes 1 (s.reg K.slotId) ++ leBytes 1 (slot % 8))
    s.releaseReset

/-- MOD_RST_N_RELEASE (R391). -/
def execModRstRelease (slot : Nat) (s : State) : Host.Outcome State Fault Refusal := finish s (modRstRelease slot s)

/-! ### Power-fail hold (R406) -/

/-- Whether a unit has a command in execution or in its pipeline. -/
def State.unitBusy (s : State) (u : PowerUnit) : Bool :=
  let inFlight (q : QueueId) : Bool := (s.queue q).any fun Q => Q.infl.isSome
  match u with
  | .array n => inFlight ⟨.array, n⟩
  | .vector n => inFlight ⟨.vector, n⟩
  | .sequencer n => inFlight ⟨.array, n⟩ || inFlight ⟨.vector, n⟩ || inFlight ⟨.move, n⟩
  | .ee k => inFlight ⟨.embed, k⟩ || (s.ee k).fetches != [] || (s.ee k).partials != []
  | .slice k => inFlight ⟨.update, k⟩
  | .fabric => (List.range 16).any (fun q => inFlight ⟨.fabric, q⟩) || s.fab.pendReads.any (fun p => !p.vc0) || s.fab.reqs != []
  | .core _ => false

/-- Whether every unit of R398 is in Nap or Off. -/
def State.allNap (s : State) : Bool := s.powerUnits.all fun u => s.powerOf u ≥ 2

/-- With every unit in Nap or Off memory enters self-refresh, and under deep_idle the PLLs stop and the Ryeve port goes DOWN
(R399, R400). -/
def State.restIfAllNap (s : State) : State :=
  if s.allNap = false then s
  else
    let s := { s with pow := { s.pow with selfRefresh := true } }
    if s.reg K.deepIdle = 1 ∧ s.pow.pllStopped = false then
      (({ s with pow := { s.pow with pllStopped := true } }).setReg K.pllLocked 0).setReg K.ryeveLinkState 0
    else s

/-- Engines with no command in flight enter Nap (R406). -/
def State.napIdle (s : State) : State :=
  s.powerUnits.foldl (fun s u => match u with
    | .core _ => s
    | _ => if s.unitBusy u ∨ s.powerOf u ≥ 2 then s else s.setPower u 2) s

/-- The power-fail hold begins: the gate closes, admission stops (R406, R410). -/
def State.beginHold (s : State) : State :=
  if s.pow.inHold then s
  else
    let s : State := { s with pow := { s.pow with inHold := true, pfwSince := s.tick }, gov := { s.gov with gatePfw := true } }
    (((s.bump32 K.pfwHolds 1).postSession 0x50 0xFF (leBytes 8 s.tick)).napIdle).restIfAllNap

/-- PFW_N is recognised asserted: the hold, or after boot where boot is not complete (R406, R407). -/
def pfwHold (s : State) : State :=
  if s.pow.standby = false ∨ s.input 2 then s
  else
    let s := s.recognise 2 true
    if s.booted then s.beginHold else s

/-- PFW_HOLD (R406). -/
def execPfwHold (s : State) : Host.Outcome State Fault Refusal := finish s (pfwHold s)

/-- PFW_N is recognised deasserted: the hold ends, the gate opens, admission resumes (R406). -/
def pfwRelease (s : State) : State :=
  if s.pow.standby = false ∨ s.input 2 = false then s
  else
    let s := s.recognise 2 false
    if s.pow.inHold = false then s
    else
      let n := s.tick - s.pow.pfwSince
      let s : State := { s with pow := { s.pow with inHold := false }, gov := { s.gov with gatePfw := false } }
      s.postSession 0x51 0xFF (leBytes 8 n)

/-- PFW_RELEASE (R406). -/
def execPfwRelease (s : State) : Host.Outcome State Fault Refusal := finish s (pfwRelease s)

/-! ### Thermal limits (R401 to R403, R415) -/

/-- The median of 31 readings. -/
def median31 (l : List Int) : Int := (sortBy (fun a b => decide (a ≤ b)) l).getD 15 0

/-- A sensor's consecutive implausible readings, and its exclusion at 100 (R415). -/
def State.judgeSensor (temps : List Int) (s : State) (i : Nat) : State :=
  if s.gov.excluded.contains i then s
  else
    let t := temps.getD i 0
    let m := median31 (temps.eraseIdx i)
    let n := if (t - m).natAbs > 20000 then cellGet 0 i s.gov.implausible + 1 else 0
    let s := { s with gov := { s.gov with implausible := cellPut 0 i n s.gov.implausible } }
    if n < 100 then s
    else
      let s := { s with gov := { s.gov with excluded := s.gov.excluded ++ [i], implausible := cellPut 0 i 0 s.gov.implausible } }
      s.postSession 0x69 0xFF (leBytes 1 i)

/-- T_j over the sensors not excluded, in 0.001 °C (R401, R415). -/
def State.junctionOf (s : State) (temps : List Int) : Int :=
  let l := (temps.zipIdx.filter fun x => !s.gov.excluded.contains x.2).map (·.1)
  let m := match l with | [] => 0 | x :: xs => xs.foldl max x
  if s.gov.excluded.length ≥ 4 then m + 5000 else m

/-- Time with the gate closed by T_j, up to now, added to thermal_gate_ms; the rest of a millisecond is kept. -/
def State.gateTime (s : State) : State :=
  let since := cellGet 0 12 s.gov.hbmTicks
  if s.gov.gateThermal = false ∨ since = 0 then s
  else
    let ms := (s.tick + 1 - since) / 25000
    let s := s.bump K.thermalGateMs ms
    { s with gov := { s.gov with hbmTicks := cellPut 0 12 (since + 25000 * ms) s.gov.hbmTicks } }

/-- The gate closes or opens by T_j: DIE_THERMAL (R403). -/
def State.setThermalGate (s : State) (closed : Bool) (tj : Int) : State :=
  let s := { s with gov := { s.gov with
    gateThermal := closed
    hbmTicks := cellPut 0 12 (if closed then s.tick + 1 else 0) s.gov.hbmTicks } }
  s.postSession 0x53 0xFF (leBytes 1 (if closed then 0 else 1) ++ zeros 3 ++ leBytes 4 (tj % 2 ^ 32).toNat)

/-- The trip at 110 °C (R403). -/
def State.thermalTrip (s : State) : State := ((s.railsDrop 0x05 true false).bump32 K.thermalTrips 1).latchAlert 0x10

/-- The 32 die sensors are read (R401, R403, R415). -/
def dieSensorRead (temps : List Int) (s : State) : State :=
  if s.powered = false ∨ temps.length ≠ 32 then s
  else
    let s := (List.range 32).foldl (State.judgeSensor temps) s
    let tj := s.junctionOf temps
    let s := (s.setReg K.junction (tj % 2 ^ 32).toNat).gateTime
    let limit : Int := 1000 * (s.reg K.junctionLimit : Int)
    if tj ≥ 110000 then s.thermalTrip
    else if s.gov.gateThermal = false ∧ tj ≥ limit then s.setThermalGate true tj
    else if s.gov.gateThermal ∧ tj ≤ limit - 3000 then s.setThermalGate false tj
    else s

/-- DIE_SENSOR_READ (R401). -/
def execDieSensorRead (temps : List Int) (s : State) : Host.Outcome State Fault Refusal := finish s (dieSensorRead temps s)

/-! ### Unit power states (R398, R517) -/

/-- Whether an engine's queue is empty. -/
def State.queueEmpty (s : State) (q : QueueId) : Bool :=
  (s.queue q).all fun Q => Q.cmds == [] && Q.unread == [] && Q.infl.isNone

/-- Whether a control core has a task in hand (R22, R517). -/
def State.coreTask (s : State) (c : Nat) : Bool :=
  match c with
  | 0 => s.waiting != [] || s.sched.any fun r => r.clause.job % 2 == 0
  | 1 => s.sched.any fun r => r.clause.job % 2 == 1
  | 2 => s.svc.queue != []
  | _ => s.sess.sbBusy.isSome

/-- Whether a unit has no command in its queue or pipeline and no request or frame in service (R517). -/
def State.unitQuiet (s : State) (u : PowerUnit) : Bool :=
  !s.unitBusy u && match u with
    | .array n => s.queueEmpty ⟨.array, n⟩
    | .vector n => s.queueEmpty ⟨.vector, n⟩
    | .sequencer n => s.queueEmpty ⟨.array, n⟩ && s.queueEmpty ⟨.vector, n⟩ && s.queueEmpty ⟨.move, n⟩
    | .ee k => s.queueEmpty ⟨.embed, k⟩
    | .slice k => s.queueEmpty ⟨.update, k⟩
    | .fabric => (List.range 16).all fun q => s.queueEmpty ⟨.fabric, q⟩
    | .core c => !s.coreTask c

/-- Whether a unit has an admitted clause (R517). -/
def State.unitClause (s : State) (u : PowerUnit) : Bool :=
  s.clauses.any fun c => match u with
    | .array n => c.cls == .array && c.unit == n
    | .vector n => c.cls == .vector && c.unit == n
    | .sequencer n => clsOfPhrase c.cls && c.unit == n
    | .ee k => c.cls == .embed && c.unit == k
    | .slice k => c.cls == .update && c.unitsLeft.contains k
    | .fabric => c.cls == .fabric
    | .core _ => false

/-- 256 cycles quiet: an Active unit enters Idle (R517). -/
def unitIdleEntry (u : PowerUnit) (s : State) : State :=
  if s.powered ∧ s.hasUnit u ∧ s.powerOf u = 0 ∧ s.unitQuiet u then s.setPower u 1 else s

/-- UNIT_IDLE_ENTRY (R517). -/
def execUnitIdleEntry (u : PowerUnit) (s : State) : Host.Outcome State Fault Refusal := finish s (unitIdleEntry u s)

/-- Whether a unit may enter Nap: no admitted clause and, for the fabric engine, no frame in service; in a power-fail hold no
command in flight; a control core by its own rules (R406, R517). -/
def State.mayNap (s : State) (u : PowerUnit) : Bool :=
  match u with
  | .core 2 => s.unitQuiet u && !s.anyResident
  | .core _ => s.unitQuiet u
  | .fabric => !s.unitBusy u && (s.pow.inHold || !s.unitClause u)
  | _ => !s.unitBusy u && (s.pow.inHold || !s.unitClause u)

/-- nap_delay with no admitted clause: the unit enters Nap (R376, R517). -/
def napDelayExpiry (u : PowerUnit) (s : State) : State :=
  if s.powered ∧ s.hasUnit u ∧ s.powerOf u < 2 ∧ s.mayNap u then (s.setPower u 2).restIfAllNap else s

/-- NAP_DELAY_EXPIRY (R517). -/
def execNapDelayExpiry (u : PowerUnit) (s : State) : Host.Outcome State Fault Refusal := finish s (napDelayExpiry u s)

/-- The phrase `n` gives up its holder's state, which is saved (R30). -/
def State.vacate (s : State) (n : Nat) : State :=
  match s.phrases[n]? with
  | none => s
  | some p =>
    match p.holder with
    | none => s
    | some (k, l) =>
      { s with
        saved := s.saved.filter (fun (x : Nat × Nat × PhraseCtx) => !(x.1 == k && x.2.1 == l)) ++ [(k, l, p.ctx)]
        phrases := s.phrases.modify n fun p => { p with holder := none, ctx := PhraseCtx.reset } }

/-- Whether no job is bound to a unit (R517). -/
def State.unbound (s : State) (u : PowerUnit) : Bool :=
  !s.unitClause u && match u with
    | .array n | .vector n | .sequencer n =>
      !(s.bindings.any fun b => b.cls == .array && b.unit == n) && !s.clauses.any fun c => holdsOn c n
    | .ee k => !(s.bindings.any fun b => b.cls == .embed && b.unit == k) && (s.ee k).comb == [] && (s.ee k).trackers == []
    | .slice _ | .fabric => !s.anyResident
    | .core c => c != 2 || !s.anyResident

/-- The translation cache of a unit emptied (R275, R398). -/
def State.clearTlb (s : State) (u : TlbUnit) : State := s.modMem fun m => { m with tlb := m.tlb.filter (·.unit != u) }

/-- A phrase is empty: its holder's state is saved, its command cache and the MOVE engine's translations are gone, and no word of it
is bad (R30, R96, R275). -/
def State.emptyPhrase (s : State) (n : Nat) : State :=
  let s := (s.vacate n).clearTlb (.move n)
  { s with
    phrases := s.phrases.modify n fun p => { p with cache := [] }
    svc := { s.svc with badWords := s.svc.badWords.filter fun w => !(w.1 == 1 && w.2.1 == n) } }

/-- An EE is empty: caches, trackers, sketch and translations are gone (R398, R428). -/
def State.emptyEe (s : State) (k : Nat) : State :=
  (s.clearTlb (.ee k)).modEe k fun e =>
    { e with holder := none, cache := [], mapCache := [], trackers := [], fetches := [], sketch := [], accepted := 0 }

/-- A slice is empty: its recipe slots, LFSRs, bad words and translations are gone (R398, R428). -/
def State.emptySlice (s : State) (k : Nat) : State :=
  let s := (s.clearTlb (.slice k)).modSlice k fun x => { x with recipes := [], lfsr := [] }
  { s with svc := { s.svc with badWords := s.svc.badWords.filter fun w => !(w.1 == 3 && w.2.1 == k) } }

/-- The contents of a unit whose power is removed are lost (R398): a phrase's holder is saved first, caches and sketches go. -/
def State.unitOff (s : State) (u : PowerUnit) : State :=
  match u with
  | .array n | .vector n => s.vacate n
  | .sequencer n => s.emptyPhrase n
  | .ee k => s.emptyEe k
  | .slice k => s.emptySlice k
  | .fabric => (s.clearTlb .fabric).clearTlb .rowServer
  | .core _ => s

/-- off_delay with no job bound: the unit enters Off (R376, R517). -/
def offDelayExpiry (u : PowerUnit) (s : State) : State :=
  if s.powered ∧ s.hasUnit u ∧ s.powerOf u < 3 ∧ s.mayNap u ∧ s.unbound u then ((s.unitOff u).setPower u 3).restIfAllNap else s

/-- OFF_DELAY_EXPIRY (R517). -/
def execOffDelayExpiry (u : PowerUnit) (s : State) : Host.Outcome State Fault Refusal := finish s (offDelayExpiry u s)

/-- A write of deep_idle, where a rule does not refuse it: 0 ends deep idle (R400). None where it is refused. -/
def State.writeDeepIdle (s : State) (v : Nat) : Option State :=
  if v = 0 then some s.endDeepIdle
  else if s.anyResident ∨ (List.range 16).any (fun p => s.reg (K.portState p) == psUp) then none
  else some ((s.setReg K.deepIdle 1).restIfAllNap)

/-! ### Control cores (R380 to R382) -/

/-- Restarts of a core in the last 10 minutes. -/
def State.recentRestarts (s : State) (c : Nat) : Nat :=
  (s.svc.coreLog.filter fun x => x.1 == c && s.tick - x.2 < 600 * ticksPerSecond).length

/-- A core's watchdog expires: the trust core holds the core in reset (R380). The watchdog of a core that is not Active is paused
(R517). -/
def watchdogExpiry (c : Nat) (s : State) : State :=
  if s.booted = false ∨ c > 3 ∨ s.svc.coreDown.contains c ∨ s.powerOf (.core c) ≠ 0 then s
  else
    let s : State := { s with svc := { s.svc with coreDown := s.svc.coreDown ++ [c], coreLog := (c, s.tick) :: s.svc.coreLog } }
    s.detected.handle 0x05 0x09 c none 0xFF 0 0

/-- WATCHDOG_EXPIRY (R380). -/
def execWatchdogExpiry (c : Nat) (s : State) : Host.Outcome State Fault Refusal := finish s (watchdogExpiry c s)

/-- The completion entries of a scheduling core's outage are written, with LATE set (R381). -/
def State.writeDeferred (s : State) (c : Nat) : State :=
  let mine := s.svc.deferred.filter fun d => d.1 % 2 == c
  let s : State := { s with svc := { s.svc with deferred := s.svc.deferred.filter fun d => d.1 % 2 != c } }
  mine.foldl (fun s d => s.putCompletion d.1 d.2.2 d.2.1) s

/-- Moves of a core's jobs are repaired: a page move before its step 4 is undone, and row moves as the journal tells (R179, R298). -/
def State.repairMoves (s : State) (c : Nat) : State :=
  let s := (s.mem.moves.filter fun m => m.job % 2 == c && m.stage = .copying).foldl (fun s m => s.abandonMove m) s
  s.repairRows fun m => m.job % 2 == c

/-- A core restarts (R380 to R382): the journal is read, moves are repaired, FW_CORE_RESTART is posted; the third restart within
10 minutes degrades the module. -/
def fwCoreRestart (c : Nat) (s : State) : State :=
  if s.powered = false ∨ s.svc.coreDown.contains c = false then s
  else
    let s : State := { s with svc := { s.svc with coreDown := s.svc.coreDown.filter (· != c) } }
    let s := (s.setPower (.core c) 0).bump32 (K.coreRestarts c) 1
    let s := if c < 2 then (s.writeDeferred c).repairMoves c else s
    let at' := ((s.svc.coreLog.find? (·.1 == c)).map (·.2)).getD 0
    let n := s.recentRestarts c
    let pl := leBytes 1 c ++ leBytes 1 n ++ zeros 6 ++ leBytes 8 at'
    let s := if c < 2 then (s.residents.filter fun j => j % 2 == c).foldl (fun s j => s.postJob j 0x41 pl) s else s
    let s := s.postSession 0x41 0xFF pl
    let s := if n ≥ 3 then s.degrade 0x02 else s
    if c = 0 then admitWaiting s else s

/-- FW_CORE_RESTART (R381). -/
def execFwCoreRestart (c : Nat) (s : State) : Host.Outcome State Fault Refusal := finish s (fwCoreRestart c s)

/-! ### Safe stop (R422, R425) -/

/-- A lockstep mismatch or trust monitor fault: gate closed, ports and Ryeve DOWN, the mirror written, rails off (R425). -/
def State.safeStop (s : State) : State :=
  let s := { s with gov := { s.gov with gateStop := true } }
  let s := s.detected.journalOwn 0x07 0x0A 0 0 0x08 0 0xFF
  let s := (s.setReg K.moduleState 2).latchAlert 0x40
  s.railsDrop 0x06 true false

/-- LOCKSTEP_MISMATCH (R412). -/
def execLockstepMismatch (s : State) : Host.Outcome State Fault Refusal := finish s (if s.powered then s.safeStop else s)

end Sys2Proof.Machine
end

