-- ==== Sys2Proof/Machine/Service.lean ====
section
/-! DEFINITION. Service isolation (R105, R428 to R434): removal of a unit by a request or by a fault, its self-test, its return, and
the retirement of memory (R432 to R434). -/

namespace Sys2Proof.Machine

/-! ### Units and their states (R428, R436) -/

/-- Units of a class of R428. -/
def svcCount (cls : Nat) : Nat :=
  match cls with | 1 => 8 | 2 => 16 | 3 => 12 | 4 => 384 | 5 => 12 | 6 => 16 | 7 => 16 | 8 => 64 | _ => 0

/-- The entry with the service state of a unit; both pseudo-channels of a channel have the channel's. -/
def svcKey (cls unit : Nat) : Nat :=
  match cls with
  | 1 => K.phraseService unit
  | 2 => K.eeService unit
  | 3 => K.sliceService unit
  | 4 => K.channelService (unit / 2)
  | 5 => K.stackService unit
  | 6 => K.packageService unit
  | 7 => K.portServiceState unit
  | _ => K.laneService unit

/-- The service state of a unit. -/
def State.svcState (s : State) (cls unit : Nat) : Nat := s.reg (svcKey cls unit)

/-- Whether a unit is present in the grade. -/
def State.svcPresent (s : State) (cls unit : Nat) : Bool :=
  match cls with
  | 1 => s.phrasePresent unit
  | 2 => s.eePresent unit
  | _ => unit < svcCount cls

/-- Whether a unit is in service; a pseudo-channel is not where its stack is out of service. -/
def State.svcUp (s : State) (cls unit : Nat) : Bool :=
  s.svcPresent cls unit && s.svcState cls unit == 0 && (cls != 4 || s.svcState 5 (unit / 32) == 0)

/-- Whether a unit is the last of its class in service; a pseudo-channel leaves with the other of its channel. -/
def State.svcLast (s : State) (cls unit : Nat) : Bool :=
  s.svcUp cls unit && countIf (svcCount cls) (fun u => s.svcUp cls u) ≤ (if cls = 4 then 2 else 1)

/-- Payload of an event that names a unit (R435). -/
def unitPayload (cls unit : Nat) (rest : List Byte) : List Byte := leBytes 1 cls ++ leBytes 1 0 ++ leBytes 2 unit ++ rest

/-- Whether two procedures concern one unit. -/
def ServiceRun.on (r : ServiceRun) (cls unit : Nat) : Bool :=
  r.cls == cls && (if cls = 4 then r.unit / 2 == unit / 2 else r.unit == unit)

/-- A unit of which a removal or a self-test is under way. -/
def State.runOn (s : State) (cls unit : Nat) : Option ServiceRun := s.svc.runs.find? (·.on cls unit)

/-- The state without a procedure. -/
def State.dropRun (s : State) (r : ServiceRun) : State := { s with svc := { s.svc with runs := s.svc.runs.filter (· != r) } }

/-- The state with a procedure more. -/
def State.addRun' (s : State) (r : ServiceRun) : State := { s with svc := { s.svc with runs := s.svc.runs ++ [r] } }

/-- service_status set. -/
def State.svcStatus (s : State) (v : Nat) : State := s.setReg K.serviceStatus v

/-! ### Retiring memory (R432 to R434) -/

/-- Whether a frame is on the channel or the stack of a removal. -/
def onUnit (cls unit f : Nat) : Bool :=
  if cls = 4 then frameStack f == unit / 32 && frameChannel f == unit % 32 / 2 else frameStack f == unit

/-- Frames of a channel, and of a stack with every channel in service. -/
abbrev channelFrames : Nat := 34332

/-- The channels that a removal of a channel or a stack takes. -/
def State.channelsOf (s : State) (cls unit : Nat) : List Nat :=
  if cls = 4 then [unit % 32 / 2] else (List.range 16).filter fun c => s.reg (K.channelService (16 * unit + c)) == 0

/-- Large leaves that name a frame which leaves are split into 64 KiB leaves, pinned (R432 step 2). -/
def State.splitLeaving (s : State) : State :=
  let s := (s.mem.leaves.filter fun l => l.size != 0 && s.pageLeaves l).foldl (fun s l => s.dropWalks l.job l.va) s
  s.modMem fun m => { m with leaves := m.leaves.flatMap fun l => if l.size != 0 && s.pageLeaves l then leafPieces l else [l] }

/-- Whether an admitted clause fetches from a code region that a page holds, by whichever job's mapping (R432 step 3). -/
def State.codeInUse (s : State) (l : Leaf) : Bool :=
  s.clauses.any fun c => s.isMe (c.base / 2 ^ 48) && (pagesOf (c.base % 2 ^ 48) (32 * c.count)).any fun o =>
    match s.leafOf c.job o with
    | some m => (match s.home m o with | some h => h.1.job == l.job && h.1.va == l.va | none => false)
    | none => false

/-- Page moves of retirement that a window holds (R432). -/
abbrev retireBudget : Nat := 8192

/-- Whether a retirement move may start now: the window has one left, the job's credits cover it, and no queue or command cache may hold
the page's lines (R432). -/
def State.mayRetire (s : State) (l : Leaf) : Bool :=
  decide (s.mem.retired < retireBudget) && s.drawsMove l.job 1 && !s.codeInUse l

/-- Starts the moves of every page that is to leave its frame and may move now; tier 0 to tier 0 changes no quota (R432). -/
def State.retirePages (s : State) : State :=
  let s := s.splitLeaving
  (s.mem.leaves.filter fun l => s.pageLeaves l).foldl (fun s l =>
    if s.mayRetire l then
      match s.startMove l 0 true with
      | some t => (t.chargeJob l.job (Config.migrationNj 1)).modMem fun m => { m with retired := m.retired + 1 }
      | none => s
    else s) s

/-- Pages that are still to leave. -/
def State.pagesLeft (s : State) : List Leaf := s.mem.leaves.filter fun l => s.pageLeaves l

/-- Pages of a channel, a stack, or of parameter records on a slice's stack. -/
def State.pagesOn (s : State) (cls unit : Nat) : List Leaf :=
  s.mem.leaves.filter fun l => l.allocated && l.src.isNone && l.tier == 0 &&
    (if cls = 3 then frameStack l.frame == unit && s.paramPage l.job l.va
     else (List.range (leafFrames l)).any fun i => onUnit cls unit (l.frame + i))

/-- Free frames off a channel or a stack; for a slice's pages, off its stack. -/
def State.freeElsewhere (s : State) (cls unit : Nat) : Nat :=
  let used := ((s.mem.leaves.filter fun l => l.allocated && l.src.isNone && l.tier == 0).flatMap fun l =>
      (List.range (leafFrames l)).map (l.frame + ·)) ++
    (s.mem.moves.filter (·.dstTier == 0)).map (·.dst) ++ (s.mem.moves.filter (·.srcTier == 0)).map (·.src)
  let off (f : Nat) : Bool := !(if cls = 3 then frameStack f == unit else onUnit cls unit f)
  let total := s.channelsUp * channelFrames -
    (if cls = 3 then countIf 16 (fun c => s.channelUp unit c) else (s.channelsOf cls unit).length) * channelFrames
  total - s.reg K.t0ReserveFrames - ((used.eraseDups).countP off)

/-- Whether a removal can place every page it moves, and leaves no negative free pool (R433). -/
def State.roomFor (s : State) (cls unit : Nat) : Bool :=
  let pages := ((s.pagesOn cls unit).map fun l => if cls = 3 then 1 else
    countIf (leafFrames l) fun i => onUnit cls unit (l.frame + i)).sum
  decide (pages ≤ s.freeElsewhere cls unit) &&
    (cls == 3 || decide (s.pool0 ≥ ((s.channelsOf cls unit).length * channelFrames * 65536 : Nat)))

/-- Every 64-byte sector of the frames of a page poisoned: it stays and reads as poisoned (R305, R433). No handler entry tells of a
sector that no access found (DESIGN CHOICE, log 36). -/
def State.poisonPage (s : State) (l : Leaf) : State :=
  (List.range (1024 * leafFrames l)).foldl (fun s i => s.becomePoisoned (l.frame * 65536 + 64 * i)) s

/-- A container's bytes encoded afresh into chunks off a package; none where too few are free (R434). -/
def State.rebuild (s : State) (c : Container) : Option State :=
  let t := s.modMem fun m => { m with containers := m.containers.filter (·.id != c.id) }
  let um := unitMapOf (s.containerBytes c.id)
  (t.freeChunks (ceilDiv (unitsOf um) 64)).map fun ch =>
    t.modMem fun m => { m with containers := m.containers ++ [{ c with chunks := ch, unitMap := um }] }

/-- Containers that hold a chunk of a package. -/
def State.onPackage (s : State) (p : Nat) : List Container := s.mem.containers.filter fun c => c.chunks.any fun x => x % 16 == p

/-- Every container of a package rebuilt elsewhere; one for which there is no room reads as poisoned (R433, R434). -/
def State.rebuildAll (s : State) (p : Nat) : State :=
  (s.onPackage p).foldl (fun s c => match s.rebuild c with
    | some t => t
    | none => (List.range 512).foldl (fun s i => s.becomePoisoned (t1Base + c.id * 65536 + 128 * i)) s) s

/-- Whether a package's containers can all be rebuilt elsewhere within the tier 1 pool (R434). `s` has the package leaving. -/
def State.packageRoom (s : State) (p : Nat) : Bool :=
  let t := s.setReg K.t1UsableBytes (s.reg K.t1UsableBytes - 90000000000)
  decide (t.pool1 ≥ 0) && ((s.onPackage p).foldl (fun o c => o.bind fun s => s.rebuild c) (some t)).isSome

/-! ### Capacity (R280, R429) -/

/-- CAPACITY_CHANGED of a tier (R435). -/
def State.postCapacity (s : State) (tier : Nat) : State :=
  let n := if tier = 0 then s.reg K.t0FramesInService * 65536 else s.reg K.t1UsableBytes
  s.postSession 0x67 0xFF (leBytes 1 tier ++ zeros 7 ++ leBytes 8 n)

/-- A channel's bit in its stack's mask, and its frames, leave or return. -/
def State.setChannel (s : State) (st c : Nat) (up : Bool) : State :=
  let m := s.reg (K.hbmChannelsInService st)
  if bit m c = up then s
  else
    let s := s.setReg (K.hbmChannelsInService st) (setBit m c up)
    s.setReg K.t0FramesInService (if up then s.reg K.t0FramesInService + channelFrames else s.reg K.t0FramesInService - channelFrames)

/-- The capacity of a class changes as a unit leaves or returns (R429). -/
def State.setCapacity (s : State) (cls unit : Nat) (up : Bool) : State :=
  match cls with
  | 4 => (s.setChannel (unit / 32) (unit % 32 / 2) up).postCapacity 0
  | 5 => (((List.range 16).filter fun c => s.reg (K.channelService (16 * unit + c)) == 0).foldl (fun s c => s.setChannel unit c up) s).postCapacity 0
  | 6 => (s.setReg K.t1UsableBytes (if up then s.reg K.t1UsableBytes + 90000000000 else s.reg K.t1UsableBytes - 90000000000)).postCapacity 1
  | _ => s

/-! ### Removal (R105, R429, R430) -/

/-- The current commands of a unit halt with the reason of the fault that removes it (R105); a slice's row moves are repaired (R179). -/
def State.strikeUnit (s : State) (cls unit reason detail : Nat) : State :=
  match cls with
  | 1 => [EngineClass.array, .vector, .move].foldl (fun s c => s.strike ⟨c, unit⟩ reason detail) s
  | 2 => s.strike ⟨.embed, unit⟩ reason detail
  | 3 => (s.strike ⟨.update, unit⟩ reason detail).repairRows fun m => m.slice == unit
  | _ => s

/-- The command at issue on an EE that hands its clauses over stops at its next bag or position (R429, R430): what it had under way
is dropped, and it continues from its progress. A COMBINE_FLUSH ends on the EE. -/
def State.stopEe (s : State) (k : Nat) : State :=
  match s.embedding k with
  | none => s
  | some (c, _, f) =>
    let op := cb c.word 0 1
    if op = 0x52 then s
    else
      let p := if op = 0x50 then s.lookupProgress k (countOf c.word) f.pos else f.pos / 2 ^ 17
      let s := (s.modEe k Ee.drop).orphan ⟨.embed, k⟩
      s.modQueue ⟨.embed, k⟩ fun Q => { Q with
        infl := none
        cmds := match Q.cmds with | x :: r => { x with prog := p, pos := f.pos, again := true } :: r | [] => [] }

/-- The combining entries of an EE that leaves with a detected fault are lost: the open steps that had some carry FAILED (R154). -/
def State.loseComb (s : State) (k : Nat) : State :=
  let l := (s.ee k).comb
  let lose (t : Step) : Step := if l.any fun c => c.job == t.job && c.epoch == t.epoch % 2 ^ 32 then { t with failed := true } else t
  let s : State := { s with steps := s.steps.map lose }
  (s.modEe k fun e => { e with comb := [] }).bump (K.combDiscarded k) l.length

/-- Whether a command of a clause has issued on some unit: one has completed, or one is in execution or halted (R105). -/
def State.issued (s : State) (c : Clause) : Bool :=
  c.next != 0 || allQueues.any fun q => (s.queue q).any fun Q =>
    (Q.infl.isSome && (Q.cmds.head?).any (·.seq == c.seq)) || Q.halt.any (·.cmd.seq == c.seq) || Q.held.any (·.halt.cmd.seq == c.seq)

/-- The UPDATE clauses on a leaving slice of which no command has issued are taken from every queue, and go to the slices that stay (R105);
under physical binding nothing is bound anew (R36). One that has issued runs to its end on every slice it is queued on (DEDUCED, log 86). -/
def State.pullUpdates (s : State) (k : Nat) : State :=
  if s.physical then s
  else
    let s := (s.clauses.filter fun c => c.cls == .update && c.unitsLeft.contains k && !s.issued c).foldl (fun s c =>
      (s.purgeAll c.seq).modClause c.seq fun x => { x with unitsLeft := [0xFF] }) s
    s.rehomeAll

/-- The power-managed units that a service or test procedure claims: they wake (R22). -/
def claimedUnits (cls unit : Nat) : List PowerUnit :=
  match cls with
  | 1 => [.array unit, .vector unit, .sequencer unit]
  | 2 => [.ee unit]
  | 3 => [.slice unit]
  | _ => []

/-- The units of a procedure wake (R22). -/
def State.claim (s : State) (cls unit : Nat) : State := (claimedUnits cls unit).foldl State.wake s

/-- A removal begins: the unit takes no new work, memory starts to move, a port or a lane goes (R22, R105, R429). -/
def State.beginRemoval (s : State) (r : ServiceRun) : State :=
  let s : State := { s with svc := { s.svc with passed := s.svc.passed.filter (· != (r.cls, r.unit)) } }
  let s := ((s.setReg (svcKey r.cls r.unit) 1).addRun' r).claim r.cls r.unit
  match r.cls with
  | 2 => if r.mode = 1 ∧ s.physical = false then s.stopEe r.unit else if r.byFault ∧ r.after ≥ 2 then s.loseComb r.unit else s
  | 3 => (s.pullUpdates r.unit).retirePages
  | 4 => s.retirePages
  | 5 =>
    let s := if s.svcState 3 r.unit = 0 then (s.setReg (K.sliceService r.unit) 1).pullUpdates r.unit else s
    s.retirePages
  | 7 => (s.writePortService r.unit 1).setReg (svcKey 7 r.unit) 1
  | 8 => s.retireLane (r.unit / 4) (r.unit % 4)
  | _ => s

/-- Clauses that hold a phrase or an EE that leaves. -/
def State.clausesOn (s : State) (cls unit : Nat) : List Clause := s.clauses.filter (holdsUnit (cls == 1) unit)

/-- Whether no command is in execution, halted or held in a queue. -/
def State.queueRests (s : State) (q : QueueId) : Bool :=
  (s.queue q).all fun Q => Q.infl.isNone && Q.halt.isNone && Q.held == []

/-- Whether every clause that has issued on a phrase or an EE has ended (R105); with physical binding on, every clause. -/
def State.drained (s : State) (cls unit : Nat) : Bool :=
  let l := s.clausesOn cls unit
  (if s.physical then l == [] else l.all fun c => c.next == 0) &&
    (if cls = 1 then [EngineClass.array, .vector, .move].all fun c => s.queueRests ⟨c, unit⟩ else s.queueRests ⟨.embed, unit⟩)

/-- The binding of a unit that leaves ends; its logical unit is to be bound to another (R31). -/
def State.unbind (s : State) (cls unit : Nat) : State :=
  let c := bindClass (cls == 1)
  let mine (b : Binding) : Bool := b.cls == c && b.unit == unit
  let s := (s.bindings.filter mine).foldl (fun s b => s.modJob b.job fun x => { x with
    rebound := (clsCode c, b.logical) :: x.rebound.filter (· != (clsCode c, b.logical)) }) s
  { s with bindings := s.bindings.filter fun b => !mine b }

/-- The clauses left on a unit are taken from its queues, to be bound to another (R105). -/
def State.evictClauses (s : State) (cls unit : Nat) : State :=
  (s.clausesOn cls unit).foldl (fun s c =>
    let s := s.purgeAll c.seq
    s.modClause c.seq fun x => { x with
      unit := 0xFF
      unitsLeft := [0xFF]
      declUnit := if cls = 1 then 0xFF else x.declUnit }) s

/-- The clauses of an EE that hands them over continue on another, if one can be had now (R430). -/
def State.handOver (s : State) (k : Nat) : Option Nat × State :=
  match (s.clausesOn 2 k).head? with
  | none => (some k, s)
  | some c =>
    match s.bindUnit false c.job c.logical false with
    | (none, s) => (none, s)
    | (some x, s) =>
      match s.queue ⟨.embed, k⟩ with
      | none => (none, s)
      | some Q =>
        let s := s.modQueue ⟨.embed, x.1⟩ fun R => { R with cmds := Q.cmds, unread := Q.unread, held := Q.held }
        let s := s.modQueue ⟨.embed, k⟩ fun R => { R with cmds := [], unread := [], held := [] }
        let s : State := { s with clauses := s.clauses.map fun (y : Clause) =>
          if y.cls == .embed && y.unit == k then { y with unit := x.1, unitsLeft := [x.1] } else y }
        (some x.1, s.wake (.ee x.1))

/-- An EE's combining table leaves it by a flush (R154): the state, and whether nothing of it is left. -/
def State.flushEe (s : State) (k : Nat) : State × Bool :=
  let x := s.ee k
  if x.comb ≠ [] then (s.flushSome k noClause (fun _ => true) 4097, false)
  else (s, x.partials == [] && x.trackers == [])

/-- Whether a slice holds a clause. -/
def State.sliceBusy (s : State) (k : Nat) : Bool := s.clauses.any fun c => c.cls == .update && c.unitsLeft.contains k

/-- What a removal still waits for: the state in which it goes on, and whether the unit is free of work and data. -/
def State.advance (s : State) (r : ServiceRun) : State × Bool :=
  match r.cls with
  | 1 =>
    if s.drained 1 r.unit = false then (s, false)
    else ((((s.unbind 1 r.unit).evictClauses 1 r.unit).vacate r.unit).rehomeAll, true)
  | 2 =>
    let k := r.unit
    if r.mode = 1 ∧ s.physical = false then
      if s.queueRests ⟨.embed, k⟩ = false then (s, false)
      else match s.flushEe k with
        | (s, false) => (s, false)
        | (s, true) => match (s.unbind 2 k).handOver k with
          | (none, s) => (s, false)
          | (some _, s) => (s, true)
    else if s.drained 2 k = false then (s, false)
    else match s.flushEe k with
      | (s, false) => (s, false)
      | (s, true) => (((s.unbind 2 k).evictClauses 2 k).rehomeAll, true)
  | 3 =>
    if s.sliceBusy r.unit then (s.retirePages, false)
    else
      let s := s.retirePages
      (s, !s.mem.moves.any (·.retire) && (r.byFault || s.pagesOn 3 r.unit == []))
  | 4 | 5 =>
    let s := s.retirePages
    let left := s.pagesOn r.cls r.unit
    if s.mem.moves.any (fun m => (m.srcTier == 0 && onUnit r.cls r.unit m.src) || (m.dstTier == 0 && onUnit r.cls r.unit m.dst)) then
      (s, false)
    else if r.cls = 5 ∧ s.sliceBusy r.unit then (s, false)
    else if left = [] then (s, true)
    else if r.byFault && left.all s.mayRetire then (left.foldl (fun s l => s.poisonPage l) s, true)
    else (s, false)
  | 6 => (s.rebuildAll r.unit, true)
  | _ => (s, true)

/-- What a unit that has left held is gone: it holds no work and no data (R428). -/
def State.emptyUnit (s : State) (cls unit : Nat) : State :=
  match cls with
  | 1 => s.emptyPhrase unit
  | 2 => s.emptyEe unit
  | 3 => s.emptySlice unit
  | 5 => if s.svcState 3 unit = 1 ∧ (s.runOn 3 unit).isNone then (s.setReg (K.sliceService unit) 2).emptySlice unit else s
  | _ => s

/-- A unit's self-test begins, which claims the unit (R22, R428, R429). -/
def State.beginTest (s : State) (r : ServiceRun) : State :=
  ((s.claim r.cls r.unit).setReg (svcKey r.cls r.unit) 3).addRun' { r with op := 2, mode := s.svcState r.cls r.unit, since := s.tick }

/-- A removal ends: the unit is out of service, its capacity is gone, the event and the journal tell it; a self-test follows where
R422 asks for it. -/
def State.endRemoval (s : State) (r : ServiceRun) : State :=
  let state := if r.after = 3 then 4 else 2
  let s := ((s.dropRun r).setReg (svcKey r.cls r.unit) state).emptyUnit r.cls r.unit
  let s := s.setCapacity r.cls r.unit false
  let s := s.postSession 0x60 0xFF (unitPayload r.cls r.unit (leBytes 1 (if r.byFault then 1 else 0) ++ leBytes 1 state))
  let s := s.journalOwn 0x06 r.cls r.unit 0 (if state = 4 then 0x04 else 0x03) 0 0xFF
  let s := if r.byFault then s else s.svcStatus 0x00
  if r.after = 1 ∨ r.after = 2 then s.beginTest r else s

/-- SERVICE_REMOVAL_DONE: every removal under way goes on; those whose unit is free of work and data end (R429). -/
def serviceRemovalDone (s : State) : State :=
  if s.powered = false then s
  else (s.svc.runs.filter (·.op == 1)).foldl (fun s r =>
    let x := s.advance r
    if x.2 then x.1.endRemoval r else x.1) s

/-- SERVICE_REMOVAL_DONE (R429). -/
def execServiceRemovalDone (s : State) : Host.Outcome State Fault Refusal := finish s (serviceRemovalDone s)

/-! ### Removal by fault (R422, R423) -/

/-- A removal by fault begins where the unit is in service; one that is the last phrase, EE or slice degrades the module (R422,
R423). -/
def State.removeByFault (s : State) (cls unit after : Nat) : State :=
  if s.svcUp cls unit = false then s
  else
    let last := s.svcLast cls unit || (cls == 5 && s.svcLast 3 unit)
    let s := s.beginRemoval { op := 1, cls := cls, unit := unit, mode := 0, byFault := true, after := after, since := s.tick }
    if last ∧ (cls ≤ 3 ∨ cls = 5) then s.degrade 0x03 else s

/-- A fault of a unit during its self-test ends the procedure: the unit is FAILED (R428, R435). -/
def State.abortTest (s : State) (r : ServiceRun) (reason : Nat) : State :=
  let s := (s.dropRun r).setReg (svcKey r.cls r.unit) 4
  let s := s.postSession 0x68 0xFF (unitPayload r.cls r.unit (leBytes 1 reason))
  if r.byFault then s else s.svcStatus 0x08

/-! ### Self-test and return (R428, R429) -/

/-- The firmware loads a slice's recipe slots from the copies it keeps of every job (R258). -/
def State.loadRecipes (s : State) (k : Nat) : State :=
  s.modSlice k fun x => { x with recipes := s.jobs.flatMap (·.recipes) }

/-- A unit returns to service (R429): its capacity is back; a port goes DOWN, and a lane's port trains again. A slice gets its
recipes; that of a returning stack returns with it. -/
def State.returnUnit (s : State) (cls unit : Nat) : State :=
  let s := s.setReg (svcKey cls unit) 0
  let s : State := { s with svc := { s.svc with passed := s.svc.passed.filter (· != (cls, unit)) } }
  let s := match cls with
    | 3 => s.loadRecipes unit
    | 5 => if s.svcState 3 unit = 2 then (s.setReg (K.sliceService unit) 0).loadRecipes unit else s
    | 7 => s.writePortService unit 0
    | 8 => s.portFails (unit / 4)
    | _ => s
  let s := s.setCapacity cls unit true
  let s := s.postSession 0x61 0xFF (unitPayload cls unit [])
  s.journalOwn 0x06 cls unit 0 0x06 0 0xFF

/-- A self-test ends: passed, the unit is in the state it was in, or returns by itself where R422 says so; failed, it is FAILED. -/
def State.endTest (s : State) (r : ServiceRun) (pass : Bool) : State :=
  let s := s.dropRun r
  let s := s.postSession 0x62 0xFF (unitPayload r.cls r.unit (leBytes 1 (if pass then 0 else 1) ++ zeros 3 ++ leBytes 8 (s.tick - r.since)))
  let s := if r.byFault then s else s.svcStatus (if pass then 0x00 else 0x07)
  if pass then
    let s := s.setReg (svcKey r.cls r.unit) r.mode
    let s : State := { s with svc := { s.svc with passed := (r.cls, r.unit) :: s.svc.passed.filter (· != (r.cls, r.unit)) } }
    if r.after = 2 then s.returnUnit r.cls r.unit else s.journalOwn 0x06 r.cls r.unit 0 0x00 0 0xFF
  else (s.setReg (svcKey r.cls r.unit) 4).journalOwn 0x06 r.cls r.unit 0 0x04 0 0xFF

/-- SELF_TEST_DONE: the self-test that has run the longest ends (R429). -/
def selfTestDone (pass : Bool) (s : State) : State :=
  if s.powered = false then s
  else match s.svc.runs.find? (·.op == 2) with
    | some r => s.endTest r pass
    | none => s

/-- SELF_TEST_DONE (R429). -/
def execSelfTestDone (pass : Bool) (s : State) : Host.Outcome State Fault Refusal := finish s (selfTestDone pass s)

/-! ### Requests (R428) -/

/-- Whether a request's procedure is under way. -/
def State.requestRuns (s : State) : Bool := s.svc.runs.any fun r => !r.byFault

/-- Why a request is refused before its procedure, whatever its op (R428). -/
def State.requestRefusal (s : State) (op : Nat) (r : ServiceReq) : Option Nat :=
  if r.reserved ≠ 0 ∨ r.mode > 1 ∨ (r.mode = 1 ∧ (op ≠ 1 ∨ r.cls ≠ 2)) then some 0x06
  else if s.requestRuns then some 0x09
  else if s.svcPresent r.cls r.unit = false then some 0x02
  else none

/-- A remove request (R428, R433): refused where the unit is not in service, is the last of its class, or holds data that fits
nowhere else. -/
def State.requestRemove (s : State) (r : ServiceReq) : State :=
  let run : ServiceRun := { op := 1, cls := r.cls, unit := r.unit, mode := r.mode, byFault := false, after := 0, since := s.tick }
  if s.svcUp r.cls r.unit = false ∨ (s.runOn r.cls r.unit).isSome then s.svcStatus 0x03
  else if s.svcLast r.cls r.unit then s.svcStatus 0x04
  else if (r.cls = 3 ∨ r.cls = 4 ∨ r.cls = 5) ∧ s.roomFor r.cls r.unit = false then s.svcStatus 0x05
  else if r.cls = 6 ∧ (s.setReg (svcKey 6 r.unit) 1).packageRoom r.unit = false then s.svcStatus 0x05
  else (s.beginRemoval run).svcStatus 0x01

/-- A test request (R428). -/
def State.requestTest (s : State) (r : ServiceReq) : State :=
  let v := s.svcState r.cls r.unit
  if v = 2 ∨ v = 4 then
    (s.beginTest { op := 2, cls := r.cls, unit := r.unit, mode := 0, byFault := false, after := 0, since := s.tick }).svcStatus 0x01
  else s.svcStatus 0x03

/-- A return request (R428): of a unit out of service, or of a FAILED one whose last test passed. -/
def State.requestReturn (s : State) (r : ServiceReq) : State :=
  let v := s.svcState r.cls r.unit
  if v = 2 ∨ (v = 4 ∧ s.svc.passed.contains (r.cls, r.unit)) then (s.returnUnit r.cls r.unit).svcStatus 0x00
  else s.svcStatus 0x03

/-- A service request (R428): the status of a refusal, or the procedure. -/
def State.serviceRequest (s : State) (op : Nat) (r : ServiceReq) : State :=
  match s.requestRefusal op r with
  | some v => s.svcStatus v
  | none => match op with
    | 1 => s.requestRemove r
    | 2 => s.requestTest r
    | _ => s.requestReturn r

end Sys2Proof.Machine
end

