-- ==== Sys2Proof/Machine/Core2.lean ====
section
/-! DEFINITION. Core 2: the decision of a halt (R98, R242, R302), the replay of a COMMIT (R265), and escalation (R422). -/

namespace Sys2Proof.Machine

/-! ### Ends of halts (R98, R154, R265) -/

/-- Whether a halt is one of a COMMIT after its step's result (R99, R265). -/
def State.afterResult (s : State) (h : Halt) : Bool :=
  cb h.cmd.word 0 1 == 0x60 &&
    match (s.clause h.cmd.seq).bind fun cl => cl.step.bind fun n => s.stepOf cl.job n with
    | some t => t.state == .committing
    | none => false

/-- A COMMIT that halted after its result is withdrawn from the slices, to be admitted again; after the third replay it ends, and its
job is parked; the step's gradients stay held (R265, R371). -/
def State.endCommit (s : State) (q : QueueId) (h : Halt) (cl : Clause) : State :=
  if cl.replays < 3 then
    (s.purgeAll cl.seq).modClause cl.seq fun x => { x with unitsLeft := [], next := 0, rows := 0, noted := none }
  else
    let hr := haltRec q cl h
    let s := (s.purgeAll cl.seq).postJob cl.job 0x03 (leBytes 8 (cb h.cmd.word 8 8) ++ hr)
    let s := s.park cl.job 0x02
    let s := match cl.step with
      | some n => s.modStep cl.job n fun t => { t with stuck := true }
      | none => s
    s.finishClause cl (if cl.wrote || h.begun then ccPartial else ccNotStarted) hr

/-- Core 2 ends a halted command: its clause ends, or a COMMIT after its result is withdrawn (R98, R99). -/
def State.endHalt (s : State) (q : QueueId) (h : Halt) : State :=
  match s.clause h.cmd.seq with
  | some cl => if s.afterResult h then s.endCommit q h cl else s.endHalted q h
  | none => s.endHalted q h

/-- The inserted flush of a step ends: the job's remaining entries of its epoch on that EE are discarded, and the step carries FAILED
(R154). -/
def State.endFlush (s : State) (t : Step) (h : Halt) : State :=
  (s.discardOn h.pos t.job (some t.epoch)).modStep t.job t.number fun x => { x with
    failed := true
    flushHalts := x.flushHalts.map fun y => if y.pos = h.pos then { y with decided := true, resumable := false } else y }

/-- The stage of a STASH command's halt. -/
def haltStage (h : Halt) : Nat := bits h.cmd.word 232 6

/-- A page of stash quota granted in a tier to a job, its stage and its step (R242). -/
def State.grantStash (s : State) (tier j stage step : Nat) : State :=
  let s := ((s.charge (stashQuota tier j) 65536).charge (stageQuota tier j stage) 65536).bump (K.grantedPages j) 1
  s.modStep j step fun t => { t with granted := t.granted ++ [(tier, stage, 1)] }

/-- The tier in which core 2 grants a page after a STASH_QUOTA halt, if it does (R242). -/
def State.grantTier (s : State) (j : Nat) (t : Step) : Option Nat :=
  if s.reg (K.stashGrant j) = 1 ∧ (t.granted.map (·.2.2)).sum * 65536 + 65536 ≤ s.reg (K.grantLimit j) then
    if s.pool0 ≥ 65536 then some 0 else if s.pool1 ≥ 65536 then some 1 else none
  else none

/-! ### The decision of a halt (R98) -/

/-- Core 2 decides a halt of a queue: the action of its journal record, and the state (R98, R106, R242, R302). -/
def State.decideHalt (s : State) (q : QueueId) (h : Halt) : Nat × State :=
  match h.reason with
  | 0xF0 => (0x00, s.modQueue q fun Q => { Q with halt := some { h with decided := true } })
  | 0x23 =>
    let step := (s.clause h.cmd.seq).bind fun cl => cl.step.bind fun n => s.stepOf cl.job n
    match step with
    | some t =>
      match s.grantTier h.job t with
      | some tier => (0x01, (s.grantStash tier h.job (haltStage h) t.number).resume q h)
      | none => (0x02, s.endHalt q h)
    | none => (0x02, s.endHalt q h)
  | 0x22 => if s.reg (K.quotaWait h.job) = 0 then (0x02, s.endHalt q h) else (0x00, s.holdHalt q h)
  | _ => (0x02, s.endHalt q h)

/-- Core 2 decides a halt of an inserted flush (R154, R162). -/
def State.decideFlush (s : State) (t : Step) (h : Halt) : Nat × State :=
  if h.reason = 0x22 ∧ s.reg (K.quotaWait t.job) ≠ 0 then
    (0x00, s.modStep t.job t.number fun x => { x with
      flushHalts := x.flushHalts.map fun y => if y.pos = h.pos then { y with decided := true } else y })
  else (0x02, s.endFlush t h)

/-- The step whose inserted flush halted on an EE and is not decided. -/
def State.flushOf (s : State) (q : QueueId) (job reason : Nat) : Option (Step × Halt) :=
  if q.cls != .embed then none
  else s.steps.findSome? fun t => if t.job = job then
    (t.flushHalts.find? fun h => h.pos == q.unit && h.reason == reason && !h.decided).map fun h => (t, h) else none

/-- The decision of the halt that an entry of a queue names, if it still stands. -/
def State.decideQueue (s : State) (q : QueueId) (job reason : Nat) : Nat × State :=
  let own : Option Halt := (s.queue q).bind fun Q => Q.halt.filter fun h => h.job == job && h.reason == reason && !h.decided
  match own with
  | some h => s.decideHalt q h
  | none => match s.flushOf q job reason with
    | some x => s.decideFlush x.1 x.2
    | none => (0x00, s)

/-- With the handler queue drained core 2 decides every halt that no entry named (R421). -/
def State.decideRest (s : State) : State :=
  if s.svc.queue ≠ [] then s
  else
    let s := allQueues.foldl (fun s q => match (s.queue q).bind (·.halt) with
      | some h =>
        if h.decided then s
        else
          let x := s.decideHalt q h
          x.2.journalOwn (haltKind h.reason) (queueClass q) q.unit h.reason x.1 h.detail h.job
      | none => s) s
    s.steps.foldl (fun s t => t.flushHalts.foldl (fun s h => if h.decided then s else (s.decideFlush t h).2) s) s

/-! ### Escalation (R422) -/

/-- Ticks of 24 hours. -/
abbrev dayTicks : Nat := 86400 * ticksPerSecond

/-- Whether a halt's reason and detail are those of a fault of the unit itself, and not of the memory it read (R413, R414). -/
def State.ownFault (s : State) (e : Handler) : Bool :=
  e.queue.isSome && 1 ≤ e.cls && e.cls ≤ 3 &&
    (e.reason == 0x31 || e.reason == 0x32 || e.reason == 0x33 ||
      (e.reason == 0x30 &&
        if e.detail / 2 ^ 48 = 0xFFFF then
          let loc := e.detail / 256 % 256
          (loc == 0xFC && e.cls == 1) || (loc == 0xFE && e.cls == 2)
        else
          let code := e.detail % 256
          e.detail < 2 ^ 48 && ((e.cls == 1 && 1 ≤ code && code ≤ 0x0D) || (e.cls == 2 && (code == 0x0E || code == 0x0F)) ||
            (e.cls == 3 && code == 0x10)) &&
          match s.physOf e.job e.detail with | some a => (s.poisonIn a 1).isNone | none => true))

/-- What history holds of a unit under a mark within a span of ticks. -/
def State.recent (s : State) (cls unit mark span : Nat) : Nat :=
  (s.svc.history.filter fun x => x.1 == cls && x.2.1 == unit && x.2.2.1 == mark && s.tick - x.2.2.2 < span).length

/-- An entry of a unit noted under a mark; what is a day old is forgotten. -/
def State.note (s : State) (cls unit mark : Nat) : State :=
  { s with svc := { s.svc with history := (cls, unit, mark, s.tick) :: s.svc.history.filter fun x => s.tick - x.2.2.2 < dayTicks } }

/-- Corrections in one structure of a unit within 24 hours. -/
def State.correctedIn (s : State) (cls unit structure_ : Nat) : Nat :=
  (s.svc.corrected.filter fun x => x.1 == cls && x.2.1 == unit && x.2.2.1 == structure_ && s.tick - x.2.2.2 < dayTicks).length

/-- 16 corrections in one structure: CORRECTED_THRESHOLD and removal in drain mode, then self-test; the count starts afresh. -/
def State.tooManyCorrected (s : State) (e : Handler) : State :=
  let s : State := { s with svc := { s.svc with corrected := s.svc.corrected.filter fun (x : Nat × Nat × Nat × Nat) =>
    !(x.1 == e.cls && x.2.1 == e.unit && x.2.2.1 == e.detail) } }
  (s.postSession 0x63 0xFF (unitPayload e.cls e.unit (leBytes 1 e.detail))).removeByFault e.cls e.unit 1

/-- A unit removed at once by a fault: its current commands halt with the reason of the fault (R105, R422). -/
def State.removeAtOnce (s : State) (e : Handler) (after : Nat) : State :=
  if s.svcUp e.cls e.unit = false then s
  else (s.strikeUnit e.cls e.unit e.reason e.detail).removeByFault e.cls e.unit after

/-- An uncorrectable sector in the firmware reserve: a page table parks the jobs that map through it, with a cause that no rule
states, the scheduler journal degrades the module (R422). -/
def State.reservePoison (s : State) (addr : Nat) : Option (Nat × State) :=
  let use := Config.reserveUse (addr / 65536)
  if addr / 65536 ≥ 16384 then none
  else if 1 ≤ use ∧ use ≤ 64 then
    let j := use - 1
    if s.isResident j then
      some (0x09, (s.park j (s.freeVal 1 % 256)).postBoth j 0x6A (leBytes 1 j ++ zeros 7 ++ leBytes 8 addr))
    else none
  else if use = 65 then some (0x07, s.degrade 0x04)
  else none

/-- The escalation step of an entry (R422): its action, if it takes one, and the state. -/
def State.escalate (s : State) (e : Handler) : Option Nat × State :=
  let small := 1 ≤ e.cls && e.cls ≤ 3
  let s := if small then s.note e.cls e.unit 256 else s
  let fault := s.ownFault e
  let s := if fault then s.note e.cls e.unit e.reason else s
  let faults := s.recent e.cls e.unit 0x30 dayTicks + s.recent e.cls e.unit 0x31 dayTicks + s.recent e.cls e.unit 0x32 dayTicks +
    s.recent e.cls e.unit 0x33 dayTicks
  if fault ∧ s.svcState e.cls e.unit = 3 then
    match s.runOn e.cls e.unit with
    | some r => (some 0x04, s.abortTest r e.reason)
    | none => (none, s)
  else if fault ∧ s.svcUp e.cls e.unit then
    if faults ≥ 2 then (some 0x04, s.removeAtOnce e 3) else (some 0x03, s.removeAtOnce e 2)
  else if small ∧ s.svcUp e.cls e.unit ∧ s.recent e.cls e.unit 256 ticksPerSecond ≥ 64 then (some 0x04, s.removeAtOnce e 3)
  else if e.kind = 0x02 ∧ small ∧ s.svcUp e.cls e.unit ∧ s.correctedIn e.cls e.unit e.detail ≥ 16 then (some 0x03, s.tooManyCorrected e)
  else if e.kind = 0x03 then
    match s.reservePoison e.detail with
    | some x => (some x.1, x.2)
    | none =>
      let s := s.note e.cls e.unit 0x30
      if (e.cls = 4 ∧ s.recent 4 e.unit 0x30 dayTicks ≥ 4 ∧ s.svcUp 4 e.unit) ∨
          (e.cls = 6 ∧ s.recent 6 e.unit 0x30 dayTicks ≥ 16 ∧ s.svcUp 6 e.unit) then
        (some 0x05, s.removeByFault e.cls e.unit 0)
      else (none, s)
  else (none, s)

/-! ### HANDLER_ENTRY_DECIDE (R420) -/

/-- Core 2 takes the first entry: it decides its halt, escalates, and writes the journal record. -/
def State.decideEntry (s : State) (e : Handler) : State :=
  let x : Nat × State := match e.queue with
    | some q => s.decideQueue q e.job e.reason
    | none => (0x00, s)
  let y := x.2.escalate e
  y.2.journal e.seq e.kind e.cls e.unit e.reason (y.1.getD x.1) e.detail e.occ e.job

/-- HANDLER_ENTRY_DECIDE: core 2 takes the entry at the front of the handler queue (R420, R421). -/
def handlerEntryDecide (s : State) : State :=
  if s.powered = false ∨ s.coreOut 2 then s
  else match s.svc.queue with
    | [] => s
    | e :: rest =>
      let s : State := (({ s with svc := { s.svc with queue := rest } }).wake (.core 2))
      (s.decideEntry e).decideRest

/-- HANDLER_ENTRY_DECIDE (R420). -/
def execHandlerEntryDecide (s : State) : Host.Outcome State Fault Refusal := finish s (handlerEntryDecide s)

/-! ### QUOTA_WAIT_EXPIRY (R98, R302) -/

/-- A hold has lasted quota_wait: core 2 ends it, that of a queue or of an inserted flush. -/
def quotaWaitExpiry (q : QueueId) (j : Nat) (s : State) : State :=
  if s.powered = false ∨ s.coreOut 2 then s
  else match s.heldOf q j with
    | some h => s.endHalt q h.halt
    | none =>
      match (if q.cls != .embed then none else s.steps.findSome? fun t => if t.job = j then
          (t.flushHalts.find? fun h => h.pos == q.unit && h.decided && h.resumable).map fun h => (t, h) else none) with
      | some x => s.endFlush x.1 x.2
      | none => s

/-- QUOTA_WAIT_EXPIRY (R302). -/
def execQuotaWaitExpiry (q : QueueId) (j : Nat) (s : State) : Host.Outcome State Fault Refusal := finish s (quotaWaitExpiry q j s)

/-! ### COMMIT_REPLAY (R265) -/

/-- Core 2 admits a withdrawn COMMIT again, on the slices in service, once they hold the job's recipes, where its credits cover it
and no page moves off a leaving slice's stack (R265). -/
def commitReplay (seq : Nat) (s : State) : State :=
  if s.powered = false ∨ s.coreOut 2 then s
  else match s.clause seq with
    | none => s
    | some c =>
      let up := (List.range 12).filter s.sliceUp
      if c.cls != .update || c.unitsLeft != [] || up == [] || s.retireWait c.job true c.base (32 * c.count) ||
          !s.covers c.energy then s
      else
        let s := (s.chargeJob c.job (s.chargeOf c.energy)).bump32 (K.commitReplays c.job) 1
        let s := s.modClause seq fun x => { x with unitsLeft := up, replays := x.replays + 1 }
        up.foldl (fun s k => (s.fillRecipes c.job k).enqueue ⟨.update, k⟩ c) s

/-- COMMIT_REPLAY (R265). -/
def execCommitReplay (seq : Nat) (s : State) : Host.Outcome State Fault Refusal := finish s (commitReplay seq s)

end Sys2Proof.Machine
end

