-- ==== Sys2Proof/Machine/Trust.lean ====
section
/-! DEFINITION. The trust core (R437 to R455): verification of images, the boot store, boot, fuse raises, live update (R378, R379),
attestation and debug unlock. -/

namespace Sys2Proof.Machine

/-! ### Keys (R438, R439) -/

/-- The trust core's own record changed. -/
def State.modTrust (s : State) (f : Trust → Trust) : State := { s with trust := f s.trust }

/-- The device identity's private key: the first 32 bytes of SHA-512 of the seed and "XT7-ID" (R438). -/
def State.identityKey (s : State) : Nat :=
  Config.sha512 (leBytes 32 s.part.identitySeed ++ [0x58, 0x54, 0x37, 0x2D, 0x49, 0x44]) % 2 ^ 256

/-- The device identity's public key (R438). -/
def State.identityPublic (s : State) : Nat := Config.ed25519Public s.identityKey

/-- The SHA-512 digest of bytes, as bytes. -/
def digestBytes (l : List Byte) : List Byte := leBytes 64 (Config.sha512 l)

/-- Whether a key record's serial is revoked for a usage (R437, R439). -/
def State.serialRevoked (s : State) (usage serial : Nat) : Bool := bit s.part.revoked (16 * (usage - 1) + serial)

/-- Whether a 128-byte key record is valid for a usage (R439). -/
def State.keyRecordOk (s : State) (usage : Nat) (r : List Byte) : Bool :=
  nb r 32 1 == usage && !s.serialRevoked usage (nb r 33 1 % 16) &&
    Config.ed25519Verify s.part.rootKey (digestBytes (r.take 64)) (nb r 64 64)

/-- Whether the reserved fields of a key record are zero (R439). -/
def keyRecordClean (r : List Byte) : Bool := nb r 33 1 < 16 && nb r 34 30 == 0

/-! ### Images (R441, R442) -/

/-- Largest image. -/
abbrev imageMax : Nat := 2 ^ 24

/-- The kind an image's header names: 1 trusted, 2 control. -/
def imgKind (i : List Byte) : Nat := nb i 6 1
/-- image_version. -/
def imgVersion (i : List Byte) : Nat := nb i 8 4
/-- interface_version. -/
def imgInterface (i : List Byte) : Nat := nb i 12 4
/-- security_version. -/
def imgSecurity (i : List Byte) : Nat := nb i 24 4
/-- key_record. -/
def imgKeyRecord (i : List Byte) : List Byte := (i.drop 112).take 128

/-- The value of an anti-rollback counter (R437). -/
def State.rollbackAt (s : State) (c : Nat) : Nat := cellGet 0 c s.part.rollback

/-- Whether the reserved fields of an image's header are zero (R441). -/
def imgClean (i : List Byte) : Bool :=
  nb i 7 1 < 2 && nb i 23 1 == 0 && nb i 30 2 == 0 && nb i 40 8 == 0 && nb i 240 208 == 0 && keyRecordClean (imgKeyRecord i) &&
    (imgKind i != 1 || imgInterface i == 0)

/-- Verification of an image in R442's order, for a path that expects one of `kinds`: 0 where it passes, else the cause. -/
def State.verifyImage (s : State) (kinds : List Nat) (i : List Byte) : Nat :=
  let body := nb i 32 8
  if nb i 0 4 ≠ 0x474D4955 ∨ nb i 4 2 ≠ 1 ∨ nb i 20 2 ≠ 7 ∨ body = 0 ∨ body > 16776704 ∨ i.length ≠ 512 + body then 0x01
  else if imgClean i = false then 0x02
  else if kinds.contains (imgKind i) = false ∨ nb i 22 1 + 1 ≠ imgKind i then 0x03
  else if s.keyRecordOk (imgKind i) (imgKeyRecord i) = false then 0x04
  else if Config.ed25519Verify (nb i 112 32) (digestBytes (i.take 448)) (nb i 448 64) = false then 0x05
  else if nb i 48 64 ≠ Config.sha512 (i.drop 512) then 0x06
  else if imgSecurity i < s.rollbackAt (nb i 22 1) then 0x07
  else 0

/-- A rejected image: its cause is kept, and it is counted (R442). -/
def State.rejectImage (s : State) (cause : Nat) : State := (s.setReg K.verifyCause cause).bump32 K.rejectedImages 1

/-! ### The boot store (R444) -/

/-- What a slot of the boot store holds. -/
def State.slotImage (s : State) (kind slot : Nat) : List Byte :=
  match kind, slot with
  | 1, 0 => s.trust.trustedA
  | 1, _ => s.trust.trustedB
  | _, 0 => s.trust.controlA
  | _, _ => s.trust.controlB

/-- An image written to a slot, which is made preferred. -/
def State.writeSlot (s : State) (kind slot : Nat) (i : List Byte) : State :=
  s.modTrust fun t =>
    match kind, slot with
    | 1, 0 => { t with trustedA := i, prefTrusted := 0 }
    | 1, _ => { t with trustedB := i, prefTrusted := 1 }
    | _, 0 => { t with controlA := i, prefControl := 0 }
    | _, _ => { t with controlB := i, prefControl := 1 }

/-- The slots of a kind, the preferred one first. -/
def State.slotOrder (s : State) (kind : Nat) : List Nat :=
  if (if kind = 1 then s.trust.prefTrusted else s.trust.prefControl) = 0 then [0, 1] else [1, 0]

/-- Tries slots in turn; one that fails is counted as a rejected image and not retried (R447). -/
def State.trySlots (s : State) (kind : Nat) : List Nat → Option Nat × State
  | [] => (none, s)
  | x :: xs =>
    let c := s.verifyImage [kind] (s.slotImage kind x)
    if c = 0 then (some x, s) else (s.rejectImage c).trySlots kind xs

/-! ### Installing a control image (R448), and raises due (R443) -/

/-- A control image installed in the control cores: M1 is its digest, and L takes it in (R448). -/
def State.install (s : State) (i : List Byte) : State :=
  s.modTrust fun t =>
    let m := Config.sha512 i
    { t with m1 := m, log := Config.sha512 (leBytes 64 t.log ++ leBytes 64 m) }

/-- The versions of a control image that runs. -/
def State.runControl (s : State) (i : List Byte) : State :=
  ((s.modTrust fun t => { t with running := i }).setReg K.imageVersion (imgVersion i)).setReg K.fwInterfaceVersion (imgInterface i)

/-- An image has run: where its commit flag is set, its counter is to be raised and its revocations blown (R443). -/
def State.hasRun (s : State) (i : List Byte) : State :=
  if nb i 7 1 % 2 = 0 then s
  else
    let own := nb (imgKeyRecord i) 33 1 % 16
    s.modTrust fun t => { t with fusesDue := t.fusesDue ++ [(imgKind i, min 32 (imgSecurity i), setBit (nb i 28 2) own false)] }

/-- A raise due is done: the counter rises to the image's security version, and the serials are revoked (R443). -/
def fuseCommit (kind : Nat) (s : State) : State :=
  match (if s.powered then s.trust.fusesDue.find? fun d => d.1 == kind else none) with
  | none => s
  | some d =>
    let c := kind - 1
    let s := s.modTrust fun t => { t with fusesDue := t.fusesDue.erase d }
    { s with part := { s.part with rollback := cellPut 0 c (max (s.rollbackAt c) d.2.1) s.part.rollback
                                   revoked := s.part.revoked ||| d.2.2 * 2 ^ (16 * c) } }

/-- FUSE_COMMIT (R443). -/
def execFuseCommit (kind : Nat) (s : State) : Host.Outcome State Fault Refusal := finish s (fuseCommit kind s)

/-! ### Boot (R431, R446, R447) -/

/-- The boot ROM verifies the trusted slots: M0, the trust monitor's start; a pending image that fails is dropped. None where both
slots fail. A trust monitor that runs already is left. -/
def State.bootTrusted (s : State) : Option State :=
  if s.trust.trusted ≠ [] then some s
  else match s.trySlots 1 (s.slotOrder 1) with
    | (none, _) => none
    | (some x, s) =>
      let i := s.slotImage 1 x
      let s := s.modTrust fun t => { t with trusted := i, prefTrusted := x, m0 := Config.sha512 i }
      some (((s.setReg K.trustVersion (imgVersion i)).setReg K.trustSv (imgSecurity i)).setReg K.trustSlot x)

/-- Both trusted slots fail: boot ends, the fast domains held in reset (R447). -/
def State.trustedFailed (s : State) : State :=
  let s := (s.trySlots 1 (s.slotOrder 1)).2.setReg K.bootStatus 2
  { s with pow := { s.pow with inReset := true } }

/-- A unit that fails its quick self-test starts FAILED (R431); `u` is its class and number of R428. -/
def State.bootFailUnit (s : State) (u : Nat) : State :=
  let cls := u / 2 ^ 16
  let unit := u % 2 ^ 16
  if cls = 0 ∨ cls > 4 ∨ unit ≥ svcCount cls ∨ s.svcPresent cls unit = false ∨ s.svcState cls unit = 4 then s
  else
    let s := if s.svcState cls unit = 0 then s.setCapacity cls unit false else s
    (s.setReg (svcKey cls unit) 4).journalOwn 0x06 cls unit 0 0x04 0 0xFF

/-- Boot completes: the control image runs, units are tested, boot_status reads 1; an asserted PFW_N then takes effect (R407). -/
def State.bootDone (s : State) (slot : Nat) (failed : List Nat) : State :=
  let i := s.slotImage 2 slot
  let s := ((s.install i).runControl i).setReg K.controlSlot slot
  let s := failed.foldl State.bootFailUnit s
  let s := (s.setReg K.bootStatus 1).setReg K.bootTicks (s.tick - s.pow.releasedAt)
  let s := (s.hasRun s.trust.trusted).hasRun i
  if s.input 2 then s.beginHold else s

/-- Boot finishes its verifications and self-tests (R446, R447). -/
def bootComplete (failed : List Nat) (s : State) : State :=
  if s.powered = false ∨ s.reg K.bootStatus ≠ 0 then s
  else match s.bootTrusted with
    | none => s.trustedFailed
    | some s =>
      match s.trySlots 2 (s.slotOrder 2) with
      | (some x, s) => s.bootDone x failed
      | (none, s) => s.setReg K.bootStatus 2

/-- BOOT_COMPLETE (R446). -/
def execBootComplete (failed : List Nat) (s : State) : Host.Outcome State Fault Refusal := finish s (bootComplete failed s)

/-! ### FW_STAGE and FW_ACTIVATE (R378, R445, R447) -/

/-- Answers FW_ACTIVATE: last_update takes its status, and the response names the version that runs. -/
def State.answerActivate (s : State) (m : MsgHdr) (status : Nat) : State :=
  (s.setReg K.lastUpdate status).respond m 0x0011 status (leBytes 4 (s.reg K.imageVersion))

/-- FW_STAGE writes bytes into the staging area. -/
def State.fwStage (s : State) (m : MsgHdr) (body : List Byte) : State :=
  let off := nb body 0 4
  let data := body.drop 8
  if body.length < 8 ∨ off + data.length > imageMax then s.respond m 0x0010 0x0007 []
  else if nb body 4 4 ≠ 0 then s.respond m 0x0010 0x0006 []
  else (s.modTrust fun t => { t with staging := writeRun t.staging off data }).respond m 0x0010 0 []

/-- Whether a control image is refused for its interface version, against the open session's host (R378). -/
def State.interfaceRefused (s : State) (i : List Byte) : Bool :=
  let host := s.reg K.hostVersion
  s.reg K.sessionState == ssOpen && (imgInterface i / 2 ^ 16 != host / 2 ^ 16 || imgInterface i % 2 ^ 16 < host % 2 ^ 16)

/-- A verified trusted image goes to the trusted slot not in use, for the next reset (R445). -/
def State.stageTrusted (s : State) (m : MsgHdr) (i : List Byte) : State :=
  let used := s.reg K.trustSlot % 2
  ((s.writeSlot 1 (1 - used) i).setReg K.trustSlot (used + 2)).answerActivate m 0

/-- A verified control image begins its live update: the pause starts (R379). -/
def State.beginUpdate (s : State) (m : MsgHdr) (i : List Byte) : State :=
  s.modTrust fun t => { t with newImage := i, updateReq := some m, pauseTick := s.tick }

/-- FW_ACTIVATE (R378, R445): the staged image is verified, then treated by its kind. In BOOT_FAILED a control image is written to
the preferred control slot, and boot goes on from it (R447). -/
def State.fwActivate (s : State) (m : MsgHdr) (body : List Byte) : State :=
  if body.length ≠ 4 then s.respond m 0x0011 0x0007 []
  else if s.trust.updateReq.isSome then s.respond m 0x0011 0x000B (leBytes 4 (s.reg K.imageVersion))
  else
    let n := nb body 0 4
    let i := if n > imageMax then [] else readRun s.trust.staging 0 n
    let failed := s.reg K.bootStatus == 2
    let c := s.verifyImage (if failed then [2] else [1, 2]) i
    if c ≠ 0 then (s.rejectImage c).answerActivate m 0x0009
    else if failed then
      ((s.writeSlot 2 s.trust.prefControl i).setReg K.bootStatus 0).answerActivate m 0
    else if s.svc.coreDown ≠ [] then s.answerActivate m 0x000B
    else if imgKind i = 1 then s.stageTrusted m i
    else if s.interfaceRefused i then s.answerActivate m 0x000B
    else s.beginUpdate m i

/-! ### The end of a live update (R379, R445, R448) -/

/-- The new image runs: the handover is counted, the image written to the control slot not in use and made preferred, and the
update answered OK. -/
def State.updateDone (s : State) (m : MsgHdr) : State :=
  let i := s.trust.newImage
  let old := s.reg K.imageVersion
  let used := s.reg K.controlSlot % 2
  let ticks := s.tick - s.trust.pauseTick
  let s := s.modTrust fun t => { t with updateReq := none, newImage := [] }
  let s := (((s.install i).runControl i).writeSlot 2 (1 - used) i).setReg K.controlSlot (1 - used)
  let s := (s.bump32 K.handoverCount 1).hasRun i
  let s := s.postSession 0x42 0xFF (leBytes 4 old ++ leBytes 4 (imgVersion i) ++ leBytes 8 ticks)
  s.answerActivate m 0

/-- The old image is installed again after the new one: rollback with a cause. -/
def State.rollBack (s : State) (m : MsgHdr) (cause : Nat) : State :=
  let i := s.trust.newImage
  let s := (s.install i).install s.trust.running
  let s := s.modTrust fun t => { t with updateReq := none, newImage := [] }
  let s := s.postSession 0x43 0xFF (leBytes 4 (imgVersion i) ++ leBytes 1 cause)
  s.answerActivate m 0x000A

/-- The new image accepts or refuses the handover (R379). -/
def updateHandoverDone (accepted : Bool) (s : State) : State :=
  match s.trust.updateReq with
  | none => s
  | some m => if accepted then s.updateDone m else s.rollBack m 0x01

/-- UPDATE_HANDOVER_DONE (R379). -/
def execUpdateHandoverDone (accepted : Bool) (s : State) : Host.Outcome State Fault Refusal :=
  finish s (updateHandoverDone accepted s)

/-- The deadline of the handover passes (R379). -/
def handoverDeadline (s : State) : State :=
  match s.trust.updateReq with
  | none => s
  | some m => s.rollBack m 0x02

/-- HANDOVER_DEADLINE (R379). -/
def execHandoverDeadline (s : State) : Host.Outcome State Fault Refusal := finish s (handoverDeadline s)

/-! ### Attestation (R449, R450) -/

/-- A nonce written: a report is in progress; refused while one is (R449). -/
def State.writeNonce (s : State) (n : Nat) : Option State :=
  if s.reg K.attestStatus = 1 then none
  else some ((s.modTrust fun t => { t with nonce := some n }).setReg K.attestStatus 1)

/-- The report without its signature (R450). -/
def State.reportBody (s : State) (nonce : Nat) : List Byte :=
  leBytes 4 0x54415855 ++ leBytes 2 1 ++ leBytes 1 s.part.grade ++
  leBytes 1 ((if s.trust.unlocked then 1 else 0) + (if s.trust.everUnlocked then 2 else 0)) ++
  leBytes 8 s.part.serial ++ leBytes 4 (s.reg K.contractVersion) ++ leBytes 4 (s.reg K.handoverCount) ++ leBytes 32 nonce ++
  leBytes 8 s.tick ++ leBytes 4 (imgVersion s.trust.trusted) ++ leBytes 4 (imgSecurity s.trust.trusted) ++
  leBytes 4 (imgVersion s.trust.running) ++ leBytes 4 (imgSecurity s.trust.running) ++ leBytes 4 (s.reg K.fwInterfaceVersion) ++
  leBytes 1 (s.reg K.moduleState) ++ zeros 11 ++ leBytes 64 s.trust.m0 ++ leBytes 64 s.trust.m1 ++ leBytes 64 s.trust.log ++
  ((List.range 64).map fun c => BitVec.ofNat 8 (s.rollbackAt c)) ++ zeros 32

/-- A report as the trust core signs it (R450). -/
def State.signedReport (s : State) (nonce : Nat) : List Byte :=
  let b := s.reportBody nonce
  b ++ leBytes 64 (Config.ed25519Sign s.identityKey (digestBytes b))

/-- The report is ready; not during a pause, so that it describes the state after it (R449). -/
def attestReportReady (s : State) : State :=
  match (if s.powered ∧ s.trust.updateReq.isNone ∧ s.reg K.attestStatus = 1 then s.trust.nonce else none) with
  | none => s
  | some n => (s.modTrust fun t => { t with report := s.signedReport n, nonce := none }).setReg K.attestStatus 2

/-- ATTEST_REPORT_READY (R449). -/
def execAttestReportReady (s : State) : Host.Outcome State Fault Refusal := finish s (attestReportReady s)

/-! ### Debug unlock (R453, R454) -/

/-- A fresh challenge is drawn; the one before becomes invalid. -/
def State.drawChallenge (s : State) : Nat × State :=
  let c := s.randomVal 3 % 2 ^ 256
  (c, s.modTrust fun t => { t with challenge := some c })

/-- Whether every field of a debug token checks, and no job is resident (R453, R454). -/
def State.tokenOk (s : State) (t : List Byte) : Bool :=
  t.length == 256 && nb t 0 4 == 0x4B544244 && nb t 4 2 == 1 && nb t 6 2 == 0 && nb t 8 8 == s.part.serial &&
    s.trust.challenge == some (nb t 16 32) && nb t 48 4 < 4 && bit (nb t 48 4) 0 && 1 ≤ nb t 52 4 && nb t 52 4 ≤ 86400 &&
    nb t 56 8 == 0 && keyRecordClean ((t.drop 64).take 128) && s.keyRecordOk 3 ((t.drop 64).take 128) &&
    Config.ed25519Verify (nb t 64 32) (digestBytes (t.take 192)) (nb t 192 64) && !s.anyResident

/-- A token written: accepted, it unlocks debug for its lifetime; refused, debug_status says so. None where it is refused. -/
def State.writeToken (s : State) (t : List Byte) : Option State :=
  if s.tokenOk t then
    some ((s.modTrust fun x => { x with unlocked := true, everUnlocked := true, scope := nb t 48 4, challenge := none
                                        lifetime := s.tick + nb t 52 4 * ticksPerSecond }).setReg K.debugStatus 1)
  else none

/-- debug_status after a refused token. -/
def State.tokenRefused (s : State) : State := if s.trust.unlocked then s else s.setReg K.debugStatus 2

/-- Debug ends: its entries return to 0, and halts held by DEBUG_BREAK end their clauses (R454). -/
def State.endDebug (s : State) : State :=
  if s.trust.unlocked = false then s
  else
    let s := s.modTrust fun t => { t with unlocked := false, scope := 0, lifetime := 0 }
    let s := ((s.setReg K.debugStatus 0).setReg K.physicalBinding 0).setReg K.liveCodeWrite 0
    allQueues.foldl (fun s q =>
      match (s.queue q).bind (·.halt) with
      | some h => if h.reason = 0xF0 then s.endHalted q h else s
      | none => s) s

/-- DEBUG_LIFETIME_END: the lifetime of the token ends (R454). -/
def execDebugLifetimeEnd (s : State) : Host.Outcome State Fault Refusal := finish s s.endDebug

/-- CHALLENGE_EXPIRY: 600 s after it was drawn a challenge is invalid (R454). -/
def execChallengeExpiry (s : State) : Host.Outcome State Fault Refusal := finish s (s.modTrust fun t => { t with challenge := none })

end Sys2Proof.Machine
end

