-- ==== Sys2Proof/Machine/Counters.lean ====
section
/-! DEFINITION. Performance counters and sampling (R456 to R471): which events a unit's class defines, selects and counts, snapshots,
the sampling seed and the sample ring's consumer. Counts of cycles are not kept: they read as free values (R457, R463). -/

namespace Sys2Proof.Machine

/-! ### Counted units (R456, R463) -/

/-- The counted units, by their place after index 0x2880. -/
def countedUnits : List Nat :=
  List.range 24 ++ (List.range 16).map (0x20 + ·) ++ (List.range 12).map (0x30 + ·) ++ (List.range 12).map (0x40 + ·) ++ [0x50, 0x51, 0x52]

/-- Whether a counted unit is present in the grade. -/
def State.countedPresent (s : State) (u : Nat) : Bool :=
  if u < 24 then s.phrasePresent (u / 3)
  else if 0x20 ≤ u ∧ u < 0x30 then s.eePresent (u - 0x20)
  else countedUnits.contains u

/-- The last class-specific event code of a unit; they begin at 0x10 (R463). -/
def lastEvent (u : Nat) : Nat :=
  if u < 24 then (match u % 3 with | 0 => 0x15 | 1 => 0x12 | _ => 0x14)
  else if u < 0x30 then 0x18
  else if u < 0x40 then 0x14
  else if u < 0x50 then 0x15
  else if u = 0x51 then 0x15
  else 0x13

/-- Whether a unit's class defines an event code; code 0x00 counts nothing (R460, R463). -/
def eventDefined (u ev : Nat) : Bool := ev ≤ 0x08 || (0x10 ≤ ev && ev ≤ lastEvent u)

/-- Whether an event's amount is a count of cycles, which the model does not keep. -/
def eventCycles (u ev : Nat) : Bool :=
  ev == 1 || ev == 2 || ev == 3 || ev == 7 ||
  (if u < 24 then (u % 3 == 0 && (ev == 0x12 || ev == 0x14 || ev == 0x15)) || (u % 3 == 1 && (ev == 0x11 || ev == 0x12))
   else if u < 0x30 then ev == 0x15
   else if u < 0x40 then false
   else if u < 0x50 then ev == 0x15
   else u == 0x51 && ev == 0x15)

/-- Whether a programmable counter counts cycles now: state cycles belong to no job, so a filter stops them (R462). -/
def State.countsCycles (s : State) (u c : Nat) : Bool :=
  let sel := s.reg (K.ctrSelect u c)
  let ev := bits sel 0 8
  bit sel 8 && eventCycles u ev && !(bit sel 9 && ev ≤ 3)

/-! ### Selects, counts, snapshots (R460, R461, R464, R465) -/

/-- A select written: its count is zeroed. None where the class does not define the event (R460). -/
def State.writeSelect (s : State) (u c v : Nat) : Option State :=
  if eventDefined u (bits v 0 8) then some ((s.setReg (K.ctrSelect u c) v).setReg (K.ctrCount u c) 0) else none

/-- A live count written: only zero, which clears it (R461). -/
def State.writeCount (s : State) (u c v : Nat) : Option State := if v = 0 then some (s.setReg (K.ctrCount u c) 0) else none

/-- The mark a shadow holds where it copied a count of cycles. -/
abbrev cycleMark : Nat := 2 ^ 64

/-- What the shadow of a counter takes. -/
def State.shadowOf (s : State) (u c : Nat) : Nat := if s.countsCycles u c then cycleMark else s.reg (K.ctrCount u c)

/-- The counters of one unit copied into their shadows. -/
def State.copyUnit (s : State) (u : Nat) : State :=
  (List.range 8).foldl (fun s c => s.setReg (K.ctrCountShadow u c) (s.shadowOf u c)) s

/-- A snapshot at the next AON tick edge; requests within one tick make one (R464, R465). snapshot_a_cycles keeps the number under
which the copied cycles are free values. -/
def State.takeSnapshot (s : State) : State :=
  let t := s.tick + 1
  if s.reg K.snapshotACycles ≠ 0 ∧ s.reg K.snapshotTick = t then s
  else
    let s := (countedUnits.filter fun u => s.countedPresent u).foldl State.copyUnit s
    ((s.setReg K.snapshotTick t).setReg K.snapshotACycles (s.free + 1)).bump32 K.snapshotSeq 1

/-- The end of a snapshot period requests a snapshot (R464). -/
def snapshotPeriodExpiry (s : State) : State :=
  if s.powered ∧ s.reg K.snapshotPeriod ≠ 0 then s.takeSnapshot else s

/-- SNAPSHOT_PERIOD_EXPIRY (R464). -/
def execSnapshotPeriodExpiry (s : State) : Host.Outcome State Fault Refusal := finish s (snapshotPeriodExpiry s)

/-! ### Sampling (R466, R469) -/

/-- The LFSR of a queue after a write of the seed (R466). -/
def seeded (seed : Nat) (q : QueueId) : Nat :=
  let v := seed ^^^ queueIndex q
  if v = 0 then 1 else v

/-- A write of sample_seed loads every queue's LFSR (R466). -/
def State.writeSeed (s : State) (v : Nat) : State :=
  let s := s.setReg K.smpSampleSeed v
  allQueues.foldl (fun s q => s.modQueue q fun Q => { Q with sampler := seeded v q }) s

/-- A write of the sample ring's consumed count: neither above produced nor back (R469). -/
def State.writeConsumed (s : State) (v : Nat) : Option State :=
  if v > s.reg K.smpProduced ∨ v < s.reg K.smpConsumed then none else some (s.setReg K.smpConsumed v)

/-! ### What the entries of a unit read (R456, R457, R464) -/

/-- A count copied by the last snapshot, a free value of the place `n` where it counts cycles. -/
def State.snapCycles (s : State) (n : Nat) : Nat :=
  if s.reg K.snapshotACycles = 0 then 0 else Config.cycles (s.reg K.snapshotACycles) n % 2 ^ 64

/-- The value of an entry of counted unit `u`. -/
def State.readCounter (s : State) (u sub : Nat) : Nat :=
  if s.countedPresent u = false then 0
  else if sub = 0x01 then s.freeVal (0x288000 + 256 * u + 1) % 2 ^ 64
  else if sub < 0x0A then
    if s.countsCycles u (sub - 2) then s.freeVal (0x288000 + 256 * u + sub) % 2 ^ 49 else s.reg (K.ctrCount u (sub - 2))
  else if sub < 0x12 then s.reg (K.ctrSelect u (sub - 0x0A))
  else if sub = 0x12 then s.snapCycles (16 * u)
  else
    let v := s.reg (K.ctrCountShadow u (sub - 0x13))
    if v = cycleMark then s.snapCycles (16 * u + 1 + (sub - 0x13)) % 2 ^ 49 else v

end Sys2Proof.Machine
end

