-- ==== Sys2Proof/Machine/Od.lean ====
section
/-! DEFINITION. The object dictionary as core 3 serves it (R472 to R478, R490 to R493): the checks of a read and of a write, the value
each entry reads, and what a write of each entry does, with the rules by which the chapters refuse it. -/

namespace Sys2Proof.Machine

/-! ### Codes, roles, presence (R473 to R475, R478) -/

/-- The code of a type (R473). -/
def OdType.code : OdType → Nat
  | .bool => 1 | .u8 => 2 | .u16 => 3 | .u32 => 4 | .u64 => 5 | .i32 => 6 | .f32 => 7 | .vis => 8 | .octets => 9 | .ref => 10

/-- The code of a result (R475). -/
def OdResult.code : OdResult → Nat
  | .ok => 0 | .noIndex => 1 | .noSubindex => 2 | .role => 3 | .access => 4 | .typeMismatch => 5 | .reservedNonzero => 6
  | .unitAbsent => 7 | .refused => 8 | .unavailable => 9

/-- The role a request carries by its path: 0 operator, 1 service, 2 vendor (R474). -/
def State.roleOf (s : State) (p : Path) : Nat :=
  if s.trust.unlocked then 2
  else match p with
    | .vc1 => if s.reg K.sbRyeveService = 1 then 1 else 0
    | .sideband => 1

/-- Whether core 3 serves the dictionary to a path: not before boot, while core 3 is down or a live update pauses it; on VC1 with
an OPEN session only (R481, R482, R488). -/
def State.dictServed (s : State) (p : Path) : Bool :=
  s.booted && !s.coreOut 3 &&
    match p with
    | .vc1 => s.ryUp && s.reg K.sessionState == ssOpen
    | .sideband => true

/-- Whether an index belongs to a unit absent in the grade (R456, R478). -/
def State.indexAbsent (s : State) (idx : Nat) : Bool :=
  if idx / 256 = 0x23 then !s.phrasePresent ((idx - 0x2300) / 16)
  else if idx / 256 = 0x24 then !s.eePresent ((idx - 0x2400) / 16)
  else if 0x2880 ≤ idx ∧ idx ≤ 0x28D2 then !s.countedPresent (idx - 0x2880)
  else false

/-! ### What an entry reads -/

/-- The bytes of a VIS value kept as a number. -/
def visBytes (v : Nat) : List Byte :=
  let l := leBytes 255 v
  (l.reverse.dropWhile (· == 0)).reverse

/-- A journal record's 64 bytes (R426). -/
def JRec.bytes (r : JRec) : List Byte :=
  leBytes 4 r.seq ++ zeros 4 ++ leBytes 8 r.tick ++ leBytes 1 r.kind ++ leBytes 1 r.cls ++ leBytes 2 r.unit ++ leBytes 1 r.reason ++
  leBytes 1 r.action ++ zeros 2 ++ leBytes 8 r.detail ++ leBytes 8 r.occ ++ leBytes 1 r.job ++ zeros 23

/-- A free pool as an unsigned value of 64 bits. -/
def poolValue (i : Int) : Nat := (i % 2 ^ 64).toNat

/-- t1_ratio: the mean of 1,024 / units over the containers, as fp32; the manual states none without a container. -/
def State.meanRatio (s : State) : Nat :=
  let l := s.mem.containers
  if l = [] then s.freeVal 0x260105 % 2 ^ 32
  else
    let n := l.foldl (fun (a : Num) c => a.add ((intNum 1024).div (intNum (unitsOf c.unitMap)))) (intNum 0)
    (near fmF32 (n.div (intNum l.length))).code

/-- Ticks rounded up to milliseconds. -/
def ticksToMs (t : Nat) : Nat := ceilDiv t 25000

/-- holdoff_left (R360). -/
def State.holdOffLeft (s : State) : Nat :=
  match s.sess.holdOff with
  | none => 0
  | some t => ticksToMs (t + 30 * ticksPerSecond - s.tick)

/-- quarantine_left of a port (R321). -/
def State.quarantineLeft (s : State) (p : Nat) : Nat :=
  if s.reg (K.portState p) ≠ psQuarantined then 0
  else match (s.fab.ports[p]?).bind (·.flapTimes.head?) with
    | none => 0
    | some t => ticksToMs (t + 300 * ticksPerSecond - s.tick)

/-- Commands held in a queue, those set aside among them (R98, R101). -/
def State.occupancy (s : State) (q : QueueId) : Nat := (s.queue q).elim 0 (·.size)

/-- debug_remaining in seconds (R455). -/
def State.debugLeft (s : State) : Nat := if s.trust.unlocked then ceilDiv (s.trust.lifetime - s.tick) ticksPerSecond else 0

/-- Numbers of the part at 0x1000 to 0x1010 (R34, R491); VIS values as numbers. -/
def State.readPart (s : State) (idx sub : Nat) : Option Nat :=
  let g := s.part.grade
  match idx, sub with
  | 0x1000, 0x1 => some (leNat [0x55, 0x6E, 0x6C, 0x75, 0x69, 0x6D])
  | 0x1000, 0x2 => some (leNat [0x58, 0x61, 0x74, 0x69, 0x61, 0x20, 0x58, 0x54, 0x37])
  | 0x1000, 0x3 => some (leNat [0x55, 0x58, 0x37, 0x2D, BitVec.ofNat 8 (0x40 + g)])
  | 0x1000, 0x4 => some s.part.serial
  | 0x1000, 0x5 => some s.part.hwLevel
  | 0x1004, 0x1 => some (s.reg K.trustVersion)
  | 0x1004, 0x2 => some (s.reg K.imageVersion)
  | 0x1004, 0x3 => some (s.reg K.fwInterfaceVersion)
  | 0x1004, 0x5 => some (s.reg K.contractVersion)
  | 0x1008, 0x0 => some g
  | 0x1009, 0x1 => some s.part.phrasesPresent
  | 0x1009, 0x2 => some s.part.eesPresent
  | 0x1010, 0x2 => some (countIf 8 s.phrasePresent)
  | 0x1010, 0x3 => some (countIf 16 s.eePresent)
  | 0x1010, 0xF => some (512 * countIf 16 s.eePresent)
  | _, _ => none

/-- Entries of sessions, sideband, pins and power that follow the state. -/
def State.readPorts (s : State) (idx sub : Nat) : Option Nat :=
  match idx, sub with
  | 0x1100, 0x2 => some s.recentReconnects.length
  | 0x1100, 0x3 => some s.holdOffLeft
  | 0x1200, 0x1 => some (s.reg K.slotId + 1)
  | 0x1200, 0x2 => some (leNat [0x02, 0x58, 0x54, 0x37, 0x00, BitVec.ofNat 8 (s.reg K.slotId + 1)])
  | 0x1220, 0x2 => some s.pow.rawLevel
  | 0x2102, n =>
    let u := if n ≤ 8 then PowerUnit.array (n - 1) else if n < 0x21 then PowerUnit.ee (n - 0x11) else PowerUnit.fabric
    if s.hasUnit u then none else some 0xFF
  | 0x2200, 0x3 => some (s.gateTime.reg K.thermalGateMs)
  | 0x2701, 0x3 => some (s.fab.reqs.countP (·.held))
  | 0x2800, 0x3 => some (s.snapCycles 0)
  | 0x2800, 0x6 => some s.tick
  | _, _ => none

/-- Entries of memory that follow the state. -/
def State.readTiers (s : State) (idx sub : Nat) : Option Nat :=
  match idx, sub with
  | 0x2600, 0x3 => some (poolValue s.pool0)
  | 0x2601, 0x2 => some s.chunksFree
  | 0x2601, 0x4 => some (poolValue s.pool1)
  | 0x2601, 0x5 => some s.meanRatio
  | _, _ =>
    if 0x2610 ≤ idx ∧ idx < 0x261C ∧ sub = 3 then some ((s.throttledTime (idx - 0x2610)).reg (K.hbmThrottledMs (idx - 0x2610)))
    else if 0x2640 ≤ idx ∧ idx < 0x2680 ∧ sub = 1 then some (Config.ptRoot (idx - 0x2640) % 2 ^ 64)
    else none

/-- Entries of phrases, EEs and queues that follow the state; a cycle count reads as a free value. -/
def State.readUnits (s : State) (idx sub : Nat) : Option Nat :=
  let n := idx / 16 % 16
  let free (w : Nat) := some (s.freeVal (256 * idx + sub) % 2 ^ w)
  if idx / 256 = 0x23 then
    if s.phrasePresent n = false then some 0
    else match idx % 16, sub with
      | 4, 5 => some (s.occupancy ⟨.array, n⟩)
      | 4, 6 => some (s.occupancy ⟨.vector, n⟩)
      | 4, 7 => some (s.occupancy ⟨.move, n⟩)
      | 5, 3 => free 64
      | 5, 5 => free 64
      | 6, 3 => free 64
      | _, _ => none
  else if idx / 256 = 0x24 then
    if s.eePresent n = false then some 0
    else match idx % 16, sub with
      | 1, 2 => some (s.ee n).sectorsOut
      | 1, 3 => some (s.ee n).trackersBusy
      | 2, 6 => some (s.ee n).waysHeld
      | 4, 5 => some (s.occupancy ⟨.embed, n⟩)
      | _, _ => none
  else if 0x25C0 ≤ idx ∧ idx < 0x25CC ∧ sub = 5 then some (s.occupancy ⟨.update, idx - 0x25C0⟩)
  else if 0x27C0 ≤ idx ∧ idx < 0x27D0 ∧ sub = 5 then some (s.occupancy ⟨.fabric, idx - 0x27C0⟩)
  else if 0x2720 ≤ idx ∧ idx < 0x2730 ∧ sub = 4 then some (s.quarantineLeft (idx - 0x2720))
  else if 0x2880 ≤ idx ∧ idx ≤ 0x28D2 then some (s.readCounter (idx - 0x2880) sub)
  else none

/-- Entries of faults, trust and debug that follow the state. -/
def State.readTrust (s : State) (idx sub : Nat) : Option Nat :=
  let rec64 (r : Option JRec) := some (leNat (r.elim (zeros 64) JRec.bytes))
  match idx, sub with
  | 0x2900, 0x3 => some s.svc.queue.length
  | 0x2901, 0x3 => rec64 (s.svc.journal.find? fun r => r.seq == s.reg K.journalSelect)
  | 0x2902, n => rec64 s.svc.mirror[n - 1]?
  | 0x2930, n => if s.phrasePresent (n - 1) then none else some 5
  | 0x2931, n => if s.eePresent (n - 1) then none else some 5
  | 0x2A02, n => some (s.rollbackAt (n - 1))
  | 0x2A03, _ => some s.part.revoked
  | 0x2A04, 0x3 => some s.trust.m0
  | 0x2A04, 0x4 => some s.trust.m1
  | 0x2A04, 0x5 => some s.trust.log
  | 0x2A10, 0x1 => some s.part.serial
  | 0x2A10, 0x2 => some s.identityPublic
  | 0x2A10, 0x3 => some s.part.certDevice
  | 0x2A10, 0x4 => some s.part.certInter
  | 0x2A10, 0x5 => some s.part.certRoot
  | 0x2A20, 0x2 => some (leNat s.trust.report)
  | 0x5000, 0x5 => some s.debugLeft
  | _, _ => if 0x3000 ≤ idx ∧ idx < 0x3400 ∧ idx % 16 = 3 ∧ sub = 4 then some (if s.isResident ((idx - 0x3000) / 16) then 1 else 0) else none

/-- The value an entry reads, as a number; an entry that follows no other state reads its register. -/
def State.entryValue (s : State) (idx sub : Nat) : Nat :=
  match idx / 256 with
  | 0x10 => (s.readPart idx sub).getD (s.reg (256 * idx + sub))
  | 0x11 | 0x12 | 0x21 | 0x22 => (s.readPorts idx sub).getD (s.reg (256 * idx + sub))
  | 0x26 => (s.readTiers idx sub).getD (s.reg (256 * idx + sub))
  | 0x27 | 0x28 =>
    match s.readPorts idx sub with
    | some v => v
    | none => (s.readUnits idx sub).getD (s.reg (256 * idx + sub))
  | 0x23 | 0x24 | 0x25 => (s.readUnits idx sub).getD (s.reg (256 * idx + sub))
  | _ => (s.readTrust idx sub).getD (s.reg (256 * idx + sub))

/-- The bytes an entry reads; a wo entry reads zeros of its size (R474). -/
def State.entryBytes (s : State) (e : Entry) (idx sub : Nat) : List Byte :=
  if e.access = .wo then zeros e.size
  else match e.ty with
    | .vis => visBytes (s.entryValue idx sub)
    | _ => leBytes e.size (s.entryValue idx sub)

/-! ### Refusals and reads (R475, R479, R490) -/

/-- A refused item: it is remembered and counted (R490). -/
def State.refuseItem (s : State) (r : OdResult) (idx sub : Nat) : State :=
  ((s.setReg K.lastRefused (idx % 65536 + 65536 * (sub % 256))).setReg K.lastResult r.code).bump K.refusals 1

/-- One read of the dictionary: result, type code, value. A read of debug_challenge draws a fresh one (R454, R472, R475). -/
def State.odRead (s : State) (p : Path) (idx sub : Nat) : (OdResult × Nat × List Byte) × State :=
  let no (r : OdResult) (ty : Nat) := ((r, ty, ([] : List Byte)), s.refuseItem r idx sub)
  if Dict.index idx = [] then no .noIndex 0
  else match Dict.find idx sub with
    | none => if sub = 0 then ((.ok, 2, leBytes 1 (Dict.highest idx)), s) else no .noSubindex 0
    | some e =>
      if s.roleOf p < e.role then no .role e.ty.code
      else if 256 * idx + sub = K.debugChallenge then
        let x := s.drawChallenge
        ((.ok, e.ty.code, leBytes 32 x.1), x.2)
      else ((.ok, e.ty.code, s.entryBytes e idx sub), s)

/-! ### Writes: the value (R473, R475) -/

/-- Whether a value is an encoding of its entry's type (R473). -/
def encodingOk (e : Entry) (ty : Nat) (b : List Byte) : Bool :=
  ty == e.ty.code && match e.ty with
    | .bool => b.length == 1 && leNat b ≤ 1
    | .vis => b.length ≤ e.size && b.all fun c => 0x20 ≤ c.toNat && c.toNat ≤ 0x7E
    | .ref => b.length == 4
    | _ => b.length == e.size

/-- The reserved bytes of an OCTETS value, by entry; the requests of R278 and R428 report theirs in a status instead. -/
def octetsReserved (idx : Nat) (b : List Byte) : Nat :=
  match idx with
  | 0x2603 | 0x2607 => nb b 2 2 + nb b 12 4
  | 0x2710 => nb b 4 1 / 4 + nb b 5 3
  | _ => 0

/-- Whether a value sets a reserved bit of its entry (R14). -/
def setsReserved (e : Entry) (idx sub : Nat) (b : List Byte) : Bool :=
  match e.ty with
  | .octets =>
    if 256 * idx + sub = K.debugToken then
      nb b 6 2 + nb b 48 4 / 4 + nb b 56 8 != 0 || !keyRecordClean ((b.drop 64).take 128)
    else octetsReserved idx b != 0
  | .vis => false
  | _ => leNat b &&& e.mask != leNat b

/-- Whether a number is in its entry's range (R475). -/
def inRange (e : Entry) (v : Nat) : Bool :=
  match e.ty with
  | .octets | .vis | .bool => true
  | .f32 => bits v 23 8 != 255
  | _ => e.lo ≤ v && v ≤ e.hi && v % e.mult == 0

/-! ### Writes: what each entry does, and the rules that refuse it. `none` is a refusal. -/

/-- A plain write of an entry's register. -/
def State.plain (s : State) (idx sub v : Nat) : Option State := some (s.setReg (256 * idx + sub) v)

/-- A plain write where a condition holds. -/
def State.plainIf (s : State) (c : Bool) (idx sub v : Nat) : Option State := if c then s.plain idx sub v else none

/-- Whether any clause of a job is admitted and not completed. -/
def State.jobBusy (s : State) (j : Nat) : Bool := s.clauses.any fun c => c.job == j

/-- Whether any step of a job is open. -/
def State.stepOpen (s : State) (j : Nat) : Bool := s.steps.any fun t => t.job == j

/-- Bytes of on-die reduction buffer, and the largest window (R243, R245). -/
abbrev rbBytes : Nat := 33554432

/-- Whether on-die windows stay apart and inside the buffer (R245). -/
def State.windowsOk (s : State) (j : Nat) : Bool :=
  let b := s.reg (K.rbBase j)
  let n := s.reg (K.rbLen j)
  n + s.reg (K.extLen j) ≤ rbBytes && b + n ≤ rbBytes && (n == 0 || (List.range 64).all fun k =>
    k == j || s.reg (K.rbLen k) == 0 || b + n ≤ s.reg (K.rbBase k) || s.reg (K.rbBase k) + s.reg (K.rbLen k) ≤ b)

/-- A state where a condition on it holds. -/
def keepIf (c : State → Bool) (s : State) : Option State := if c s then some s else none

/-- Whether a finite fp32 code is a power of two (R272). -/
def powerOfTwo (v : Nat) : Bool :=
  v < 2 ^ 31 && v != 0 && (if v < 2 ^ 23 then v &&& (v - 1) == 0 else v % 2 ^ 23 == 0)

/-- A write of a conjugator, window or agreement entry of a job (R245, R272). -/
def State.writeStepEntry (s : State) (idx sub v : Nat) : Option State :=
  let j := idx - 0x2540
  if s.stepOpen j then none
  else match sub with
    | 0x3 | 0x4 | 0x6 => (s.plain idx sub v).bind (keepIf fun t => t.windowsOk j)
    | 0x8 => s.plainIf (!(s.job j).scaled) idx sub v
    | 0xB => s.plainIf (powerOfTwo v && 0x3F800000 ≤ v) idx sub v
    | 0xC => s.plainIf (powerOfTwo v && v ≤ 0x4B800000) idx sub v
    | _ => s.plain idx sub v

/-- A write of a quota (R300): not below its use, no pool negative. -/
def State.writeQuota (s : State) (j sub v : Nat) : Option State :=
  let used := s.reg (256 * (0x2640 + j) + sub + 5)
  if v < used then none
  else (s.plain (0x2640 + j) sub v).bind (keepIf fun t => match sub with | 0x4 | 0x5 => 0 ≤ t.pool0 | 0x6 | 0x7 => 0 ≤ t.pool1 | _ => true)

/-- The fields of a map request's bytes (R278): op, and the rest. -/
def mapFields (b : List Byte) : Nat × MapReq :=
  let f := nb b 2 1
  (nb b 0 1, { size := nb b 1 1, tier := f % 4, read := bit f 2, write := bit f 3, pin := bit f 4, policy := nb b 3 1 % 16, srcJob := nb b 4 1
               reserved := f / 32 + nb b 3 1 / 16 + nb b 5 3, va := nb b 8 8, length := nb b 16 8, srcVa := nb b 24 8 })

/-- A map request written: refused while one is in progress (R278). -/
def State.writeMap (s : State) (j op : Nat) (r : MapReq) : Option State :=
  if s.reg (K.mapStatus j) = 1 then none else some (s.doMap op j r)

/-- A write in the area of tiers, quotas and policies (R278, R293, R300, R309, R311). -/
def State.writeTiers (s : State) (idx sub v : Nat) (b : List Byte) : Option State :=
  if 0x2640 ≤ idx then
    let j := idx - 0x2640
    match sub with
    | 0x2 =>
      let x := mapFields b
      s.writeMap j x.1 x.2
    | 0xE => s.plain idx sub v
    | _ => s.writeQuota j sub v
  else if 0x2620 ≤ idx then
    let c := idx - 0x2620
    match sub with
    | 0x1 => s.plainIf (v != 0) idx sub v
    | 0x5 => s.plainIf ((v == 1 || v == 2) && bit (s.reg (K.polAllowed c)) v) idx sub v
    | _ => s.plain idx sub v
  else match idx, sub with
    | 0x2601, 0x3 => if 0x3F800000 ≤ v ∧ v ≤ 0x40000000 then (s.plain idx sub v).bind (keepIf fun t => 0 ≤ t.pool1) else none
    | 0x2602, 0x1 => if v < s.reg K.exportUsed then none else (s.plain idx sub v).bind (keepIf fun t => 0 ≤ t.pool1)
    | _, _ => s.plain idx sub v

/-- Whether a FABRIC clause of a job is admitted and not completed (R349). -/
def State.fabricBusy (s : State) (j : Nat) : Bool := s.clauses.any fun c => c.job == j && c.cls == .fabric

/-- A write in the fabric's area (R312, R320, R325, R345, R346, R349). -/
def State.writeFabric (s : State) (idx sub v : Nat) : Option State :=
  if 0x2780 ≤ idx then s.plain idx sub v
  else if 0x2740 ≤ idx then
    let j := idx - 0x2740
    if s.fabricBusy j then none
    else if sub = 1 then s.plainIf (v != 0 && !(s.isResident j && s.keyTaken j v)) idx sub v
    else s.plain idx sub v
  else if 0x2720 ≤ idx then some (s.writePortService (idx - 0x2720) v)
  else match idx, sub with
    | 0x2700, 0x1 => s.plainIf (!s.anyResident && v < 16384) idx sub v
    | 0x2710, _ =>
      let s := s.setReg (256 * idx + sub) v
      some (if bit v 32 then s.sendHeld (bits v 0 16) else s).retrySends
    | 0x2711, 0x1 => some (s.takeOver v)
    | _, _ => s.plain idx sub v

/-- A write in the area of counters and sampling (R460, R461, R464, R466, R469, R471). -/
def State.writeCounters (s : State) (idx sub v : Nat) : Option State :=
  if 0x2880 ≤ idx then
    if sub < 0x0A then s.writeCount (idx - 0x2880) (sub - 2) v else s.writeSelect (idx - 0x2880) (sub - 0x0A) v
  else match idx, sub with
    | 0x2800, 0x1 => some (if v = 1 then s.takeSnapshot else s)
    | 0x2810, 0x1 => s.plainIf (v == 0 || (4 ≤ v && v ≤ 20)) idx sub v
    | 0x2810, 0x3 => s.plainIf (v < 64 || v == 0xFF) idx sub v
    | 0x2810, 0x4 => some (s.writeSeed v)
    | 0x2810, 0x7 => s.writeConsumed v
    | _, _ => s.plain idx sub v

/-- clear_degraded: back to NORMAL where the handler queue is empty and a phrase, an EE and a slice are in service (R424). -/
def State.clearDegraded (s : State) : Option State :=
  if s.svc.queue ≠ [] ∨ countIf 8 s.phraseUp = 0 ∨ countIf 16 s.eeUp = 0 ∨ countIf 12 s.sliceUp = 0 then none
  else if s.reg K.moduleState ≠ 1 then some s
  else some (((s.setReg K.moduleState 0).postSession 0x65 0xFF []).journalOwn 0x07 0x0B 0 0 0x00 0 0xFF)

/-- A service request written (R428); an op or a class it does not define is refused. -/
def State.writeService (s : State) (op : Nat) (r : ServiceReq) : Option State :=
  if op = 0 ∨ op > 3 ∨ r.cls = 0 ∨ r.cls > 8 then none else some (s.serviceRequest op r)

/-- The fields of a service request's bytes (R428): op, and the rest. -/
def serviceFields (b : List Byte) : Nat × ServiceReq :=
  (nb b 0 1, { cls := nb b 1 1, unit := nb b 2 2, mode := nb b 4 1 % 2, reserved := nb b 4 1 / 2 + nb b 5 11 })

/-- A write in the area of faults and service (R424, R428, R436). -/
def State.writeFaults (s : State) (idx sub v : Nat) (b : List Byte) : Option State :=
  match idx, sub with
  | 0x2900, 0x2 => if v = 1 then s.clearDegraded else some s
  | 0x2920, 0x1 =>
    let x := serviceFields b
    s.writeService x.1 x.2
  | _, _ => s.plain idx sub v

/-- A write of a debug entry (R36, R107, R454). -/
def State.writeDebug (s : State) (idx sub v : Nat) (b : List Byte) : Option State :=
  match idx, sub with
  | 0x5000, 0x2 => s.writeToken b
  | 0x5000, 0x4 => some (if v = 1 then s.endDebug else s)
  | 0x5010, _ => s.plainIf (!s.anyResident) idx sub v
  | 0x5011, _ => s.plainIf (bit s.trust.scope 1) idx sub v
  | _, _ => s.plain idx sub v

/-- The sum of a job's stage quotas of a tier. -/
def State.stageSum (s : State) (tier j : Nat) : Nat := ((List.range 64).map fun i => s.reg (stageQuota tier j i)).sum

/-- A write of a stage quota (R238). -/
def State.writeStage (s : State) (idx sub v : Nat) : Option State :=
  let j := (idx - 0x3000) / 16
  let tier := if sub ≤ 0x40 then 0 else 1
  let stage := if sub ≤ 0x40 then sub - 1 else sub - 0x41
  if v < s.reg (stageUsed tier j stage) then none
  else (s.plain idx sub v).bind (keepIf fun t => t.stageSum tier j ≤ t.reg (stashQuota tier j))

/-- Whether a code region is IDLE (R92). -/
def State.regionIdle (s : State) (j r : Nat) : Bool := bits (s.reg (K.codeLenState j r)) 24 2 == 0

/-- A write of a job's control and scheduling entries (R364, R384). -/
def State.writeControl (s : State) (j idx sub v : Nat) : Option State :=
  let st := s.reg (K.jobState j)
  match sub with
  | 0x2 => if 1 ≤ v ∧ v ≤ 6 then some (s.jobCommand j v) else none
  | 0xA | 0xB => s.plainIf (!(s.job j).ckpt) idx sub v
  | _ => s.plainIf (st == jsFree) idx sub v

/-- A write in a job's context (R92, R108, R157, R168, R237, R238, R366, R384, R493). -/
def State.writeJob (s : State) (idx sub v : Nat) : Option State :=
  let j := (idx - 0x3000) / 16
  let early := s.reg (K.jobState j) ≤ jsCreated
  match idx % 16 with
  | 0x0 => s.writeControl j idx sub v
  | 0x1 | 0x3 => s.plainIf early idx sub v
  | 0x8 => s.plainIf (s.regionIdle j (sub - 1) && v % 256 == 0) idx sub v
  | 0x9 => s.plainIf (s.regionIdle j (sub - 1) && bits v 24 2 == 0) idx sub v
  | 0xA => if s.jobBusy j then none else ((s.evictList j).dropListSlots j).plain idx sub v
  | 0xB => s.plainIf (!s.jobBusy j && v % 64 == 0) idx sub v
  | 0xC => s.plainIf (!s.jobBusy j && (sub != 3 || (128 ≤ v && v ≤ 4160 && v % 64 == 0))) idx sub v
  | 0xD => s.plainIf (!s.stepOpen j) idx sub v
  | _ => s.writeStage idx sub v

/-- A write of an entry whose value passed the checks; none where a rule of its chapter refuses it. -/
def State.writeEntry (s : State) (idx sub v : Nat) (b : List Byte) : Option State :=
  match idx / 256 with
  | 0x12 =>
    if 256 * idx + sub = K.alertStatus then
      let a := s.reg K.alertStatus
      some (s.setReg K.alertStatus (a - (a &&& v &&& 0xF0)))
    else s.plain idx sub v
  | 0x21 => s.writeDeepIdle v
  | 0x25 => if 0x2540 ≤ idx then s.writeStepEntry idx sub v else s.plain idx sub v
  | 0x26 => s.writeTiers idx sub v b
  | 0x27 => s.writeFabric idx sub v
  | 0x28 => s.writeCounters idx sub v
  | 0x29 => s.writeFaults idx sub v b
  | 0x2A => if 256 * idx + sub = K.attestNonce then s.writeNonce v else s.plain idx sub v
  | 0x30 | 0x31 | 0x32 | 0x33 => s.writeJob idx sub v
  | 0x50 => s.writeDebug idx sub v b
  | _ => s.plain idx sub v

/-! ### One write (R475, R476) -/

/-- The checks of R475 on a write, in their order, before the entry's own rules; `ok` where all pass. -/
def State.writeChecks (s : State) (p : Path) (idx sub ty : Nat) (b : List Byte) : OdResult :=
  if Dict.index idx = [] then .noIndex
  else match Dict.find idx sub with
    | none => if sub = 0 then .access else .noSubindex
    | some e =>
      if s.roleOf p < e.role then .role
      else if e.access = .ro ∨ e.access = .const then .access
      else if encodingOk e ty b = false then .typeMismatch
      else if setsReserved e idx sub b then .reservedNonzero
      else if s.indexAbsent idx then .unitAbsent
      else if inRange e (leNat b) then .ok
      else .refused

/-- debug_status follows a refused token (R455). -/
def State.afterRefusal (s : State) (idx sub : Nat) : State := if 256 * idx + sub = K.debugToken then s.tokenRefused else s

/-- One write of the dictionary: applied whole, or refused (R475, R476). -/
def State.odWrite (s : State) (p : Path) (idx sub ty : Nat) (b : List Byte) : OdResult × State :=
  match s.writeChecks p idx sub ty b with
  | .ok =>
    match s.writeEntry idx sub (leNat b) b with
    | some t => (.ok, t)
    | none => (.refused, (s.refuseItem .refused idx sub).afterRefusal idx sub)
  | r => (r, (s.refuseItem r idx sub).afterRefusal idx sub)

/-- A dictionary command that stands for one item core 3 applies; where core 3 serves none, nothing changes. -/
def State.odRow (s : State) (idx sub : Nat) (v : OdVal) : State :=
  if s.dictServed v.path then ((s.wake (.core 3)).odWrite v.path idx sub v.ty v.bytes).2 else s

/-! ### The commands -/

/-- TAKE_OVER (R346). -/
def execTakeOver (v : OdVal) (s : State) : Host.Outcome State Fault Refusal := finish s (s.odRow 0x2711 1 v)

/-- NODE_ID_WRITE (R312). -/
def execNodeIdWrite (v : OdVal) (s : State) : Host.Outcome State Fault Refusal := finish s (s.odRow 0x2700 1 v)

/-- PORT_SERVICE (R320). -/
def execPortService (p : Nat) (v : OdVal) (s : State) : Host.Outcome State Fault Refusal := finish s (s.odRow (0x2720 + p) 0xA v)

/-- DEEP_IDLE (R400). -/
def execDeepIdle (v : OdVal) (s : State) : Host.Outcome State Fault Refusal := finish s (s.odRow 0x2100 2 v)

/-- ATTEST_NONCE (R449): one that reaches the trust core in a live-update pause is kept for its end. -/
def execAttestNonce (v : OdVal) (s : State) : Host.Outcome State Fault Refusal :=
  finish s (
    let t := s.modTrust fun t => { t with updateReq := none }
    if t.dictServed v.path then ((s.wake (.core 3)).odWrite v.path 0x2A20 1 v.ty v.bytes).2 else s)

/-- DEBUG_CHALLENGE: a read of debug_challenge (R454). -/
def execDebugChallenge (p : Path) (s : State) : Host.Outcome State Fault Refusal :=
  finish s (if s.dictServed p then ((s.wake (.core 3)).odRead p 0x5000 1).2 else s)

/-- DEBUG_TOKEN (R454). -/
def execDebugToken (v : OdVal) (s : State) : Host.Outcome State Fault Refusal := finish s (s.odRow 0x5000 2 v)

/-- DEBUG_LOCK (R454). -/
def execDebugLock (v : OdVal) (s : State) : Host.Outcome State Fault Refusal := finish s (s.odRow 0x5000 4 v)

/-- CLEAR_DEGRADED (R424). -/
def execClearDegraded (v : OdVal) (s : State) : Host.Outcome State Fault Refusal := finish s (s.odRow 0x2900 2 v)

/-- SNAPSHOT (R464). -/
def execSnapshot (v : OdVal) (s : State) : Host.Outcome State Fault Refusal := finish s (s.odRow 0x2800 1 v)

/-- COUNTER_SELECT (R460). -/
def execCounterSelect (unit c : Nat) (v : OdVal) (s : State) : Host.Outcome State Fault Refusal :=
  finish s (s.odRow (0x2880 + unit) (0x0A + c) v)

/-- COUNT_CLEAR (R461). -/
def execCountClear (unit c : Nat) (v : OdVal) (s : State) : Host.Outcome State Fault Refusal :=
  finish s (s.odRow (0x2880 + unit) (0x02 + c) v)

/-- SAMPLE_SEED (R466). -/
def execSampleSeed (v : OdVal) (s : State) : Host.Outcome State Fault Refusal := finish s (s.odRow 0x2810 4 v)

/-- SAMPLE_CONSUMED (R469). -/
def execSampleConsumed (v : OdVal) (s : State) : Host.Outcome State Fault Refusal := finish s (s.odRow 0x2810 7 v)

/-- ALERT_STATUS (R408). -/
def execAlertStatus (v : OdVal) (s : State) : Host.Outcome State Fault Refusal := finish s (s.odRow 0x1220 5 v)

/-- DICT_WRITE (R475). -/
def execDictWrite (index sub : Nat) (v : OdVal) (s : State) : Host.Outcome State Fault Refusal := finish s (s.odRow index sub v)

/-- A map request as a command: the item's fields are the request's. -/
def State.mapRow (s : State) (op j : Nat) (p : Path) (r : MapReq) : State :=
  if s.dictServed p = false then s
  else
    let s := s.wake (.core 3)
    match s.writeMap j op r with
    | some t => t
    | none => s.refuseItem .refused (0x2640 + j) 2

/-- MAP (R278). -/
def execMap (j : Nat) (p : Path) (r : MapReq) (s : State) : Host.Outcome State Fault Refusal := finish s (s.mapRow 1 j p r)

/-- UNMAP (R278). -/
def execUnmap (j : Nat) (p : Path) (r : MapReq) (s : State) : Host.Outcome State Fault Refusal := finish s (s.mapRow 2 j p r)

/-- MAP_ALIAS (R278). -/
def execMapAlias (j : Nat) (p : Path) (r : MapReq) (s : State) : Host.Outcome State Fault Refusal := finish s (s.mapRow 3 j p r)

/-- RETARGET (R278). -/
def execRetarget (j : Nat) (p : Path) (r : MapReq) (s : State) : Host.Outcome State Fault Refusal := finish s (s.mapRow 4 j p r)

/-- A job command as a write of job_command. -/
def State.jobRow (s : State) (j v : Nat) (p : Path) : State :=
  s.odRow (0x3000 + 16 * j) 2 { path := p, ty := 2, bytes := leBytes 1 v }

/-- CREATE (R364). -/
def execCreate (j : Nat) (p : Path) (s : State) : Host.Outcome State Fault Refusal := finish s (s.jobRow j 1 p)

/-- START (R364). -/
def execStart (j : Nat) (p : Path) (s : State) : Host.Outcome State Fault Refusal := finish s (s.jobRow j 2 p)

/-- PARK (R364). -/
def execPark (j : Nat) (p : Path) (s : State) : Host.Outcome State Fault Refusal := finish s (s.jobRow j 3 p)

/-- UNPARK (R364). -/
def execUnpark (j : Nat) (p : Path) (s : State) : Host.Outcome State Fault Refusal := finish s (s.jobRow j 4 p)

/-- CHECKPOINT (R383). -/
def execCheckpoint (j : Nat) (p : Path) (s : State) : Host.Outcome State Fault Refusal := finish s (s.jobRow j 5 p)

/-- DESTROY (R364). -/
def execDestroy (j : Nat) (p : Path) (s : State) : Host.Outcome State Fault Refusal := finish s (s.jobRow j 6 p)

/-- A service request as a command: the role check, then the procedure or its refusal (R428). -/
def State.serviceRow (s : State) (op : Nat) (p : Path) (r : ServiceReq) : State :=
  if s.dictServed p = false then s
  else
    let s := s.wake (.core 3)
    if s.roleOf p < 1 then s.refuseItem .role 0x2920 1
    else match s.writeService op r with
      | some t => t
      | none => s.refuseItem .refused 0x2920 1

/-- SERVICE_REMOVE (R429). -/
def execServiceRemove (p : Path) (r : ServiceReq) (s : State) : Host.Outcome State Fault Refusal := finish s (s.serviceRow 1 p r)

/-- SERVICE_TEST (R429). -/
def execServiceTest (p : Path) (r : ServiceReq) (s : State) : Host.Outcome State Fault Refusal := finish s (s.serviceRow 2 p r)

/-- SERVICE_RETURN (R429). -/
def execServiceReturn (p : Path) (r : ServiceReq) (s : State) : Host.Outcome State Fault Refusal := finish s (s.serviceRow 3 p r)

end Sys2Proof.Machine
end

