-- ==== Sys2Proof/Machine/Mailbox.lean ====
section
/-! DEFINITION. Mailbox messages (R357 to R363, R378, R479 to R482, R488): their checks, the conditions under which they are answered
BUSY or by the always-on domain, and what each does. -/

namespace Sys2Proof.Machine

/-! ### Session messages (R357, R359, R360, R362) -/

/-- Refuses an open or resume: counted (R385). -/
def State.refuseOpen (s : State) (m : MsgHdr) (ty status : Nat) (body : List Byte) : State :=
  (s.bump K.refusedOpens 1).respond m ty status body

/-- The 9th accepted open or resume within 60 s begins a hold-off and is refused (R360). -/
def State.ninth (s : State) : Bool := s.recentReconnects.length ≥ 8

/-- Begins a hold-off. -/
def State.beginHoldOff (s : State) : State := s.modSess fun e => { e with holdOff := some s.tick }

/-- Whether a session event ring lies where R354 allows, with a number of entries that R362 allows. -/
def ringPlaceOk (base entries : Nat) : Bool := base % 4096 == 0 && ringCountOk entries && base + 64 * entries ≤ 0x800000

/-- SESSION_OPEN, after the checks of its header (R354, R359, R360). -/
def State.openSession (s : State) (m : MsgHdr) (b : List Byte) : State :=
  let host := nb b 0 4
  let force := nb b 4 1 % 2 == 1 && m.path == .sideband
  let base := nb b 8 8
  let entries := nb b 16 4
  let fw := s.reg K.fwInterfaceVersion
  let no (status : Nat) (body : List Byte) := s.refuseOpen m 0x0001 status body
  if b.length ≠ 20 then no 0x0007 []
  else if nb b 4 1 > 1 ∨ nb b 5 3 ≠ 0 then no 0x0006 []
  else if ringPlaceOk base entries = false then no 0x0007 []
  else if s.sess.holdOff.isSome then no 0x0004 []
  else if s.reg K.sessionState ≠ ssNone ∧ force = false then no 0x0002 []
  else if host / 2 ^ 16 ≠ fw / 2 ^ 16 ∨ host % 2 ^ 16 > fw % 2 ^ 16 then no 0x0001 (leBytes 4 fw)
  else if s.ninth then s.beginHoldOff.refuseOpen m 0x0001 0x0004 []
  else if s.reg K.sessionState = ssNone then s.openNow m host base entries
  else s.releaseAll (some (m.seq, host, base, entries))

/-- SESSION_RESUME, after the checks of its header (R360). -/
def State.resumeSession (s : State) (m : MsgHdr) (b : List Byte) : State :=
  let st := s.reg K.sessionState
  let no (status : Nat) := s.refuseOpen m 0x0002 status []
  if b.length ≠ 20 then no 0x0007
  else if s.sess.holdOff.isSome then no 0x0004
  else if st = ssOpen then no 0x0002
  else if st ≠ ssSilent then no 0x0005
  else if nb b 0 4 ≠ s.reg K.sessionNumber ∨ nb b 4 16 ≠ s.sess.token then no 0x0003
  else if s.ninth then s.beginHoldOff.refuseOpen m 0x0002 0x0004 []
  else
    let s := s.reconnected
    let s := s.postSession 0x40 0xFF (leBytes 8 s.sess.silentAt)
    s.respond m 0x0002 0 (leBytes 16 s.sess.token)

/-- Whether a message acts on the OPEN session: on VC1 it names it, on the sideband it does not (R351, R488). -/
def State.sessionFor (s : State) (m : MsgHdr) : Bool :=
  match m.path with
  | .vc1 => s.sessionOk m.session
  | .sideband => s.reg K.sessionState == ssOpen

/-- SESSION_CLOSE, after the checks of its header (R357). -/
def State.closeSession (s : State) (m : MsgHdr) (b : List Byte) : State :=
  if b.length ≠ 1 then s.respond m 0x0003 0x0007 []
  else if nb b 0 1 > 1 then s.respond m 0x0003 0x0006 []
  else if s.sessionFor m = false then s.respond m 0x0003 0x0005 []
  else if nb b 0 1 = 1 then (s.releaseAll none).respond m 0x0003 0 []
  else s.sessionNone.respond m 0x0003 0 []

/-- HEARTBEAT as a message, after the checks of its header (R358). -/
def State.beatMessage (s : State) (m : MsgHdr) (b : List Byte) : State :=
  s.respond m 0x0004 (if b ≠ [] then 0x0007 else if s.sessionFor m then 0 else 0x0005) []

/-! ### OD_READ (R479) -/

/-- One item of a read's response. -/
def readItem (sub : Nat) (x : OdResult × Nat × List Byte) : List Byte :=
  let v := x.2.2
  leBytes 1 sub ++ leBytes 1 x.1.code ++ leBytes 1 x.2.1 ++ zeros 1 ++ leBytes 2 v.length ++ zeros 2 ++ padTo (roundUp v.length 4) v

/-- How a read of one item is answered, with the state after it. -/
abbrev ItemReader := State → Nat → Nat → (OdResult × Nat × List Byte) × State

/-- Reads `n` subindices from `sub` upward for as long as the body holds them: items, their bytes, state. -/
def readItems (f : ItemReader) (idx : Nat) : Nat → Nat → Nat → List Byte → State → Nat × List Byte × State
  | 0, _, k, out, s => (k, out, s)
  | n + 1, sub, k, out, s =>
    let x := f s idx sub
    let item := readItem sub x.1
    if 8 + out.length + item.length > 4080 then (k, out, s) else readItems f idx n (sub + 1) (k + 1) (out ++ item) x.2

/-- The status with which a read's body is refused as a whole, or 0. -/
def readBodyStatus (b : List Byte) : Nat :=
  if b.length ≠ 8 ∨ nb b 3 1 = 0 ∨ nb b 3 1 > 64 ∨ nb b 2 1 + nb b 3 1 > 0x100 then 0x0007
  else if nb b 4 4 ≠ 0 then 0x0006
  else 0

/-- The response body of a read, and the state after it. -/
def readBody (f : ItemReader) (b : List Byte) (s : State) : List Byte × State :=
  let x := readItems f (nb b 0 2) (nb b 3 1) (nb b 2 1) 0 [] s
  (leBytes 2 (nb b 0 2) ++ leBytes 1 (nb b 2 1) ++ leBytes 1 x.1 ++ zeros 4 ++ x.2.1, x.2.2)

/-- OD_READ as core 3 serves it. -/
def State.serveOdRead (s : State) (m : MsgHdr) (b : List Byte) : State :=
  if m.path = .vc1 ∧ s.sessionFor m = false then s.respond m 0x0020 0x0005 []
  else if readBodyStatus b ≠ 0 then s.respond m 0x0020 (readBodyStatus b) []
  else
    let x := readBody (fun s i sub => s.odRead m.path i sub) b (s.bump K.requests 1)
    x.2.respond m 0x0020 0 x.1

/-! ### OD_WRITE (R480) -/

/-- One item of a write: index, subindex, type, value, and the sum of its reserved and padding bytes. -/
structure WriteItem where
  idx : Nat
  sub : Nat
  ty  : Nat
  val : List Byte
  pad : Nat
  deriving DecidableEq, Repr

/-- The items of a write's body, or none where counts and lengths are inconsistent. -/
def parseItems : Nat → List Byte → Option (List WriteItem)
  | 0, b => if b = [] then some [] else none
  | n + 1, b =>
    let len := nb b 4 2
    let span := 8 + roundUp len 4
    if b.length < span then none
    else
      let v := (b.drop 8).take len
      let it : WriteItem := { idx := nb b 0 2, sub := nb b 2 1, ty := nb b 3 1, val := v
                              pad := nb b 6 2 + ((b.drop (8 + len)).take (span - 8 - len)).foldl (fun a c => a + c.toNat) 0 }
      (parseItems n (b.drop span)).map fun l => it :: l

/-- Items applied in turn by `f`: the records of the response, and the state. -/
def writeItems (f : State → WriteItem → OdResult × State) : List WriteItem → State → List Byte × State
  | [], s => ([], s)
  | i :: l, s =>
    let x := f s i
    let y := writeItems f l x.2
    (leBytes 2 i.idx ++ leBytes 1 i.sub ++ leBytes 1 x.1.code ++ y.1, y.2)

/-- The items of a consistent body, or the status that refuses it. -/
def writeBody (b : List Byte) : Except Nat (List WriteItem) :=
  let n := nb b 0 1
  if b.length < 8 ∨ n = 0 ∨ n > 16 then .error 0x0007
  else match parseItems n (b.drop 8) with
    | none => .error 0x0007
    | some l => if nb b 1 7 ≠ 0 ∨ l.any (·.pad != 0) then .error 0x0006 else .ok l

/-- The response body of a write. -/
def writeResponse (n : Nat) (records : List Byte) : List Byte := leBytes 1 n ++ zeros 7 ++ records

/-- OD_WRITE as core 3 serves it. -/
def State.serveOdWrite (s : State) (m : MsgHdr) (b : List Byte) : State :=
  if m.path = .vc1 ∧ s.sessionFor m = false then s.respond m 0x0021 0x0005 []
  else match writeBody b with
    | .error e => s.respond m 0x0021 e []
    | .ok l =>
      let x := writeItems (fun s i => s.odWrite m.path i.idx i.sub i.ty i.val) l (s.bump K.requests 1)
      x.2.respond m 0x0021 0 (writeResponse l.length x.1)

/-! ### The always-on domain's answers (R425, R446, R482) -/

/-- Whether R425 names an entry: it is read in safe stop. -/
def stopReads (idx sub : Nat) : Bool := idx == 0x1220 || 256 * idx + sub == K.lastOffCause || idx == 0x2900 || idx == 0x2902

/-- A read in safe stop: entries R425 names, else UNAVAILABLE after the other checks. -/
def stopRead (s : State) (idx sub : Nat) : (OdResult × Nat × List Byte) × State :=
  let x := (s.odRead .sideband idx sub).1
  ((if x.1 = .ok ∧ stopReads idx sub = false then (.unavailable, x.2.1, []) else x), s)

/-- A write in safe stop: UNAVAILABLE after the other checks. -/
def stopWrite (s : State) (i : WriteItem) : OdResult × State :=
  let r := s.writeChecks .sideband i.idx i.sub i.ty i.val
  ((if r = .ok then .unavailable else r), s)

/-- A message while boot is not complete or the fast domains are off: the AON sideband controller answers reads of the entries that
R425 or R446 names; the rest is BUSY. -/
def State.aonAnswer (s : State) (m : MsgHdr) (ty : Nat) (b : List Byte) : State :=
  let stop := s.reg K.moduleState == 2
  let early := nb b 0 2 == 0x2A00 || nb b 0 2 == 0x1220
  if m.path = .vc1 then s.respond m ty 0x0008 []
  else if ty = 0x0020 ∧ (stop || early) then
    if readBodyStatus b ≠ 0 then s.respond m ty (readBodyStatus b) []
    else s.respond m ty 0 (readBody (if stop then stopRead else fun s i sub => ((s.odRead .sideband i sub).1, s)) b s).1
  else if ty = 0x0021 ∧ stop then
    match writeBody b with
    | .error e => s.respond m ty e []
    | .ok l => s.respond m ty 0 (writeResponse l.length (writeItems stopWrite l s).1)
  else s.respond m ty 0x0008 []

/-! ### A message (R361 to R363, R482, R488) -/

/-- What a message of a type does once it is served; an undefined type is MALFORMED. -/
def State.serveType (s : State) (m : MsgHdr) (ty : Nat) (b : List Byte) : State :=
  match ty with
  | 0x0001 => s.openSession m b
  | 0x0002 => s.resumeSession m b
  | 0x0003 => s.closeSession m b
  | 0x0004 => s.beatMessage m b
  | 0x0010 => s.fwStage m b
  | 0x0011 => s.fwActivate m b
  | 0x0020 => s.serveOdRead m b
  | 0x0021 => s.serveOdWrite m b
  | _ => s.respond m ty 0x0007 []

/-- Whether a type is an open or a resume. -/
def isOpening (ty : Nat) : Bool := ty == 0x0001 || ty == 0x0002

/-- Refuses a message by its header. -/
def State.refuseHeader (s : State) (m : MsgHdr) (ty status : Nat) : State :=
  if isOpening ty then s.refuseOpen m ty status [] else s.respond m ty status []

/-- A mailbox message at core 3: its header's checks, then BUSY or its service. In BOOT_FAILED the trust monitor serves staging and
activation over the sideband; a second FW_ACTIVATE in an update is refused (R445, R447). -/
def State.message (s : State) (m : MsgHdr) (ty : Nat) (b : List Byte) : State :=
  if m.response then s.dropResponse m.path
  else if m.major ≠ 1 ∨ b.length > 4080 then s.refuseHeader m ty 0x0007
  else if m.reserved ≠ 0 ∨ m.status ≠ 0 then s.refuseHeader m ty 0x0006
  else if s.booted = false then
    if s.powered ∧ s.reg K.bootStatus = 2 ∧ m.path = .sideband ∧ (ty = 0x0010 ∨ ty = 0x0011) then s.serveType m ty b
    else s.aonAnswer m ty b
  else if s.trust.updateReq.isSome ∧ ty = 0x0011 then s.fwActivate m b
  else if s.coreOut 3 then s.respond m ty 0x0008 []
  else (s.wake (.core 3)).serveType m ty b

/-- A mailbox message arrives whole on its path. -/
def mailbox (ty : Nat) (m : MsgHdr) (b : List Byte) (s : State) : State :=
  match m.path with
  | .vc1 => if s.ryUp then (s.ryReceived.count 0x52 0x12 1 none).message m ty b else s
  | .sideband => if s.pow.standby then s.message m ty b else s

/-- SESSION_OPEN (R359). -/
def execSessionOpen (m : MsgHdr) (body : List Byte) (s : State) : Host.Outcome State Fault Refusal := finish s (mailbox 0x0001 m body s)

/-- SESSION_RESUME (R360). -/
def execSessionResume (m : MsgHdr) (body : List Byte) (s : State) : Host.Outcome State Fault Refusal := finish s (mailbox 0x0002 m body s)

/-- SESSION_CLOSE (R357). -/
def execSessionClose (m : MsgHdr) (body : List Byte) (s : State) : Host.Outcome State Fault Refusal := finish s (mailbox 0x0003 m body s)

/-- HEARTBEAT as a mailbox message (R358). -/
def execHeartbeatMessage (m : MsgHdr) (body : List Byte) (s : State) : Host.Outcome State Fault Refusal :=
  finish s (mailbox 0x0004 m body s)

/-- FW_STAGE (R378). -/
def execFwStage (m : MsgHdr) (body : List Byte) (s : State) : Host.Outcome State Fault Refusal := finish s (mailbox 0x0010 m body s)

/-- FW_ACTIVATE (R445). -/
def execFwActivate (m : MsgHdr) (body : List Byte) (s : State) : Host.Outcome State Fault Refusal := finish s (mailbox 0x0011 m body s)

/-- OD_READ (R479). -/
def execOdRead (m : MsgHdr) (body : List Byte) (s : State) : Host.Outcome State Fault Refusal := finish s (mailbox 0x0020 m body s)

/-- OD_WRITE (R480). -/
def execOdWrite (m : MsgHdr) (body : List Byte) (s : State) : Host.Outcome State Fault Refusal := finish s (mailbox 0x0021 m body s)

end Sys2Proof.Machine
end

