-- ==== Sys2Proof/Machine/Sideband.lean ====
section
/-! DEFINITION. The 10BASE-T1S sideband (R483 to R489): which frames it accepts, the reassembly of requests, repeats, and PLCA. -/

namespace Sys2Proof.Machine

/-- A frame or a partial request is dropped, and counted (R486). -/
def State.sbDrop (s : State) : State := s.bump K.sbFramesDropped 1

/-- A partial request is discarded, and counted. -/
def State.sbDiscard (s : State) : State :=
  if s.sess.sbPartial.isSome then (s.modSess fun e => { e with sbPartial := none }).sbDrop else s

/-- Whether a frame is for this module, and its header is one that R485 defines. -/
def State.sbAccepts (s : State) (f : SbFrame) : Bool :=
  f.ethertype == 0x88B5 && f.dstOk && f.version == 1 && f.slot == s.reg K.slotId && f.kind == 1 && f.reserved == 0 &&
    1 ≤ f.fragLen && f.fragLen ≤ 1024 && f.fragLen ≤ f.data.length && 1 ≤ f.fragCount && f.fragCount ≤ 4 && f.fragIndex < f.fragCount

/-- The header of a mailbox message from its bytes (R361). -/
def headerOf (b : List Byte) : MsgHdr where
  path := .sideband
  seq := nb b 6 2
  session := 0
  major := nb b 2 1
  status := nb b 8 2
  response := nb b 10 1 % 2 == 1
  reserved := nb b 10 1 / 2 + nb b 11 5

/-- A whole request of exchange `x`: served, or answered again from the kept response (R486). -/
def State.sbRequest (s : State) (x : Nat) (b : List Byte) : State :=
  match s.sess.sbKept.filter (·.1 == x) with
  | some kept =>
    let s := (s.bump K.sbRepeatedExchanges 1).bump K.sbFramesTx (ceilDiv kept.2.length 1024)
    s.modSess fun e => { e with sbOut := e.sbOut ++ [kept] }
  | none =>
    let s := s.modSess fun e => { e with sbBusy := some x }
    let m := headerOf b
    let body := b.drop 16
    if b.length < 16 ∨ (m.response = false ∧ nb b 4 2 ≠ body.length) then s.refuseHeader m (nb b 0 2) 0x0007
    else s.message m (nb b 0 2) body

/-- One fragment in its place: kept, or the request is whole. -/
def State.sbTake (s : State) (f : SbFrame) (before : List Byte) : State :=
  let b := before ++ f.data.take f.fragLen
  let s := s.bump K.sbFramesRx 1
  if f.fragIndex + 1 = f.fragCount then (s.modSess fun e => { e with sbPartial := none }).sbRequest f.exchange b
  else s.modSess fun e => { e with sbPartial := some (f.exchange, f.fragIndex + 1, b) }

/-- A sideband frame (R484, R486). -/
def sidebandFrame (f : SbFrame) (s : State) : State :=
  if s.pow.standby = false then s
  else if s.sbAccepts f = false ∨ s.sess.sbBusy.isSome then s.sbDrop
  else match s.sess.sbPartial with
    | some (x, next, b) =>
      if x = f.exchange ∧ next = f.fragIndex then s.sbTake f b
      else
        let s := s.sbDiscard
        if f.fragIndex = 0 then s.sbTake f [] else s.sbDrop
    | none => if f.fragIndex = 0 then s.sbTake f [] else s.sbDrop

/-- SIDEBAND_FRAME (R486). -/
def execSidebandFrame (f : SbFrame) (s : State) : Host.Outcome State Fault Refusal := finish s (sidebandFrame f s)

/-- SIDEBAND_REASSEMBLY_TIMEOUT: 10 ms pass without the next fragment (R486). -/
def execSidebandReassemblyTimeout (s : State) : Host.Outcome State Fault Refusal := finish s (if s.pow.standby then s.sbDiscard else s)

/-- BEACON: the PHY enters PLCA (R483). -/
def execBeacon (s : State) : Host.Outcome State Fault Refusal := finish s (if s.pow.standby then s.setReg K.sbPlcaState 1 else s)

/-- BEACON_LOSS: 4 ms without a BEACON once one was received (R483). -/
def execBeaconLoss (s : State) : Host.Outcome State Fault Refusal :=
  finish s (if s.pow.standby ∧ s.reg K.sbPlcaState = 1 then s.setReg K.sbPlcaState 2 else s)

end Sys2Proof.Machine
end

