-- ==== Sys2Proof/Machine/Dispatch.lean ====
section
/-! DEFINITION. One arm per command: each arm is one call of the command's meaning. -/

namespace Sys2Proof.Machine

/-- The effect of a command on the block (the queue of waiting commands aside). -/
def exec (i : Instr) (s : State) : Host.Outcome State Fault Refusal :=
  match i with
  | .nop q => Sys2Proof.Machine.execNop q s
  | .clauseOpen q => Sys2Proof.Machine.execClauseOpen q s
  | .clauseDecl q => Sys2Proof.Machine.execClauseDecl q s
  | .fence q => Sys2Proof.Machine.execFence q s
  | .regionDefine q => Sys2Proof.Machine.execRegionDefine q s
  | .regionRelease q => Sys2Proof.Machine.execRegionRelease q s
  | .codeSwitch j => Sys2Proof.Machine.execCodeSwitch j s
  | .statLoad n flt => Sys2Proof.Machine.execStatLoad n flt s
  | .pass n flt => Sys2Proof.Machine.execPass n flt s
  | .readout n flt => Sys2Proof.Machine.execReadout n flt s
  | .scaleLoad n flt => Sys2Proof.Machine.execScaleLoad n flt s
  | .rescaleLoad n flt => Sys2Proof.Machine.execRescaleLoad n flt s
  | .elemwise n flt => Sys2Proof.Machine.execElemwise n flt s
  | .accClear n => Sys2Proof.Machine.execAccClear n s
  | .vunary n flt => Sys2Proof.Machine.execVunary n flt s
  | .vbinary n flt => Sys2Proof.Machine.execVbinary n flt s
  | .vternary n flt => Sys2Proof.Machine.execVternary n flt s
  | .vreduce n flt => Sys2Proof.Machine.execVreduce n flt s
  | .vquant n flt => Sys2Proof.Machine.execVquant n flt s
  | .vdequant n flt => Sys2Proof.Machine.execVdequant n flt s
  | .vcombine n flt => Sys2Proof.Machine.execVcombine n flt s
  | .vconvert n flt => Sys2Proof.Machine.execVconvert n flt s
  | .load n flt => Sys2Proof.Machine.execLoad n flt s
  | .store n flt => Sys2Proof.Machine.execStore n flt s
  | .tload n flt => Sys2Proof.Machine.execTload n flt s
  | .stashPut n flt => Sys2Proof.Machine.execStashPut n flt s
  | .stashGet n flt => Sys2Proof.Machine.execStashGet n flt s
  | .rbAdd n flt => Sys2Proof.Machine.execRbAdd n flt s
  | .rbRead n flt => Sys2Proof.Machine.execRbRead n flt s
  | .lookupPool k flt => Sys2Proof.Machine.execLookupPool k flt s
  | .gradScatter k flt => Sys2Proof.Machine.execGradScatter k flt s
  | .combineFlush k flt => Sys2Proof.Machine.execCombineFlush k flt s
  | .commit sl m => Sys2Proof.Machine.execCommit sl m s
  | .recipeLoad sl a => Sys2Proof.Machine.execRecipeLoad sl a s
  | .exportRows sl a => Sys2Proof.Machine.execExportRows sl a s
  | .allReduce q => Sys2Proof.Machine.execAllReduce q s
  | .reduceScatter q => Sys2Proof.Machine.execReduceScatter q s
  | .allGather q => Sys2Proof.Machine.execAllGather q s
  | .broadcast q => Sys2Proof.Machine.execBroadcast q s
  | .reduce q => Sys2Proof.Machine.execReduce q s
  | .allToAll q => Sys2Proof.Machine.execAllToAll q s
  | .agree q => Sys2Proof.Machine.execAgree q s
  | .gather q => Sys2Proof.Machine.execGather q s
  | .refetch q => Sys2Proof.Machine.execRefetch q s
  | .stepRelease q => Sys2Proof.Machine.execStepRelease q s
  | .remoteGet q => Sys2Proof.Machine.execRemoteGet q s
  | .remotePut q => Sys2Proof.Machine.execRemotePut q s
  | .remoteAdd q => Sys2Proof.Machine.execRemoteAdd q s
  | .remoteAtomic q => Sys2Proof.Machine.execRemoteAtomic q s
  | .remoteSignal q => Sys2Proof.Machine.execRemoteSignal q s
  | .debugBreak q => Sys2Proof.Machine.execDebugBreak q s
  | .accRead x => Sys2Proof.Machine.execAccRead x s
  | .accWrite x => Sys2Proof.Machine.execAccWrite x s
  | .debugHaltResume q => Sys2Proof.Machine.execDebugHaltResume q s
  | .debugHaltEnd q => Sys2Proof.Machine.execDebugHaltEnd q s
  | .rowFetchArrival k id flt => Sys2Proof.Machine.execRowFetchArrival k id flt s
  | .moveSectorArrival n id retries => Sys2Proof.Machine.execMoveSectorArrival n id retries s
  | .memoryWriteAck q id retries => Sys2Proof.Machine.execMemoryWriteAck q id retries s
  | .partialAck k id => Sys2Proof.Machine.execPartialAck k id s
  | .spillAddDone n flt => Sys2Proof.Machine.execSpillAddDone n flt s
  | .submissionEntry j => Sys2Proof.Machine.execSubmissionEntry j s
  | .stepEntry j => Sys2Proof.Machine.execStepEntry j s
  | .admitWaiting => Sys2Proof.Machine.execAdmitWaiting s
  | .handlerEntryDecide => Sys2Proof.Machine.execHandlerEntryDecide s
  | .quotaWaitExpiry q j => Sys2Proof.Machine.execQuotaWaitExpiry q j s
  | .overflowPageGrant k j => Sys2Proof.Machine.execOverflowPageGrant k j s
  | .commitReplay seq => Sys2Proof.Machine.execCommitReplay seq s
  | .insertedFlush q => Sys2Proof.Machine.execInsertedFlush q s
  | .insertedFlushDone q => Sys2Proof.Machine.execInsertedFlushDone q s
  | .codeRegionRetired j r => Sys2Proof.Machine.execCodeRegionRetired j r s
  | .sketchHalving k => Sys2Proof.Machine.execSketchHalving k s
  | .demotionSweep j t => Sys2Proof.Machine.execDemotionSweep j t s
  | .migrationWindow => Sys2Proof.Machine.execMigrationWindow s
  | .rowMoveSlotFree k => Sys2Proof.Machine.execRowMoveSlotFree k s
  | .keyedAdd x => Sys2Proof.Machine.execKeyedAdd x s
  | .pendingPageArrival k => Sys2Proof.Machine.execPendingPageArrival k s
  | .pageMoveCopyDone k => Sys2Proof.Machine.execPageMoveCopyDone k s
  | .pageFrameRelease k => Sys2Proof.Machine.execPageFrameRelease k s
  | .pageMigrationWindow => Sys2Proof.Machine.execPageMigrationWindow s
  | .pageSweep => Sys2Proof.Machine.execPageSweep s
  | .patrolScrub addr r => Sys2Proof.Machine.execPatrolScrub addr r s
  | .onDieScrub cls unit w r => Sys2Proof.Machine.execOnDieScrub cls unit w r s
  | .hbmTempReport st milli => Sys2Proof.Machine.execHbmTempReport st milli s
  | .hbmOvertemp st => Sys2Proof.Machine.execHbmOvertemp st s
  | .hbmReportTimeout st => Sys2Proof.Machine.execHbmReportTimeout st s
  | .map j p r => Sys2Proof.Machine.execMap j p r s
  | .unmap j p r => Sys2Proof.Machine.execUnmap j p r s
  | .mapAlias j p r => Sys2Proof.Machine.execMapAlias j p r s
  | .retarget j p r => Sys2Proof.Machine.execRetarget j p r s
  | .read f => Sys2Proof.Machine.execRead f s
  | .readResp f => Sys2Proof.Machine.execReadResp f s
  | .write f => Sys2Proof.Machine.execWrite f s
  | .writeAck f => Sys2Proof.Machine.execWriteAck f s
  | .add f => Sys2Proof.Machine.execAdd f s
  | .atomic f => Sys2Proof.Machine.execAtomic f s
  | .atomicResp f => Sys2Proof.Machine.execAtomicResp f s
  | .signal f => Sys2Proof.Machine.execSignal f s
  | .rowReq f => Sys2Proof.Machine.execRowReq f s
  | .rowResp f => Sys2Proof.Machine.execRowResp f s
  | .candidate f => Sys2Proof.Machine.execCandidate f s
  | .collData f => Sys2Proof.Machine.execCollData f s
  | .agreeContrib f => Sys2Proof.Machine.execAgreeContrib f s
  | .agreeResult f => Sys2Proof.Machine.execAgreeResult f s
  | .release f => Sys2Proof.Machine.execRelease f s
  | .releaseFloor f => Sys2Proof.Machine.execReleaseFloor f s
  | .gatherReq f => Sys2Proof.Machine.execGatherReq f s
  | .gatherResp f => Sys2Proof.Machine.execGatherResp f s
  | .aliasInstall f => Sys2Proof.Machine.execAliasInstall f s
  | .aliasAck f => Sys2Proof.Machine.execAliasAck f s
  | .unreachable f => Sys2Proof.Machine.execUnreachable f s
  | .agreeQuery f => Sys2Proof.Machine.execAgreeQuery f s
  | .fabricLinkAck p seq => Sys2Proof.Machine.execFabricLinkAck p seq s
  | .fabricLinkNak p seq => Sys2Proof.Machine.execFabricLinkNak p seq s
  | .fabricLinkCredit p n => Sys2Proof.Machine.execFabricLinkCredit p n s
  | .keyingFrame p m => Sys2Proof.Machine.execKeyingFrame p m s
  | .fabricReplayTimeout p => Sys2Proof.Machine.execFabricReplayTimeout p s
  | .portSignalDetect p lanes => Sys2Proof.Machine.execPortSignalDetect p lanes s
  | .portTrainingDone p lanes => Sys2Proof.Machine.execPortTrainingDone p lanes s
  | .portTrainingTimeout p => Sys2Proof.Machine.execPortTrainingTimeout p s
  | .portTrainingRetry p => Sys2Proof.Machine.execPortTrainingRetry p s
  | .keyingTimeout p => Sys2Proof.Machine.execKeyingTimeout p s
  | .portLossOfSignal p => Sys2Proof.Machine.execPortLossOfSignal p s
  | .quarantineEnd p => Sys2Proof.Machine.execQuarantineEnd p s
  | .laneLossOfLock p l => Sys2Proof.Machine.execLaneLossOfLock p l s
  | .laneFecWindow p l corrected received => Sys2Proof.Machine.execLaneFecWindow p l corrected received s
  | .rekeyDue p => Sys2Proof.Machine.execRekeyDue p s
  | .prevKeyExpiry p => Sys2Proof.Machine.execPrevKeyExpiry p s
  | .planeReportExpiry p node => Sys2Proof.Machine.execPlaneReportExpiry p node s
  | .requestTimeout tag => Sys2Proof.Machine.execRequestTimeout tag s
  | .retryWindowExpiry node => Sys2Proof.Machine.execRetryWindowExpiry node s
  | .agreeTimeout j g step => Sys2Proof.Machine.execAgreeTimeout j g step s
  | .agreeResultQueryTimer j step => Sys2Proof.Machine.execAgreeResultQueryTimer j step s
  | .collTimeout q => Sys2Proof.Machine.execCollTimeout q s
  | .releaseTimeout sl => Sys2Proof.Machine.execReleaseTimeout sl s
  | .takeOver v => Sys2Proof.Machine.execTakeOver v s
  | .takeoverRetry => Sys2Proof.Machine.execTakeoverRetry s
  | .nodeIdWrite v => Sys2Proof.Machine.execNodeIdWrite v s
  | .portService p v => Sys2Proof.Machine.execPortService p v s
  | .memRead h => Sys2Proof.Machine.execMemRead h s
  | .memWrite h data => Sys2Proof.Machine.execMemWrite h data s
  | .doorbellSubmission job index session => Sys2Proof.Machine.execDoorbellSubmission job index session s
  | .doorbellCompletion job index session => Sys2Proof.Machine.execDoorbellCompletion job index session s
  | .doorbellEvent job index session => Sys2Proof.Machine.execDoorbellEvent job index session s
  | .heartbeat session => Sys2Proof.Machine.execHeartbeat session s
  | .msgResp p => Sys2Proof.Machine.execMsgResp p s
  | .ryeveLinkAck l => Sys2Proof.Machine.execRyeveLinkAck l s
  | .ryeveReplayTimeout => Sys2Proof.Machine.execRyeveReplayTimeout s
  | .ryeveTrainingDone => Sys2Proof.Machine.execRyeveTrainingDone s
  | .ryeveSignalDetect => Sys2Proof.Machine.execRyeveSignalDetect s
  | .sessionOpen m body => Sys2Proof.Machine.execSessionOpen m body s
  | .sessionResume m body => Sys2Proof.Machine.execSessionResume m body s
  | .sessionClose m body => Sys2Proof.Machine.execSessionClose m body s
  | .heartbeatMessage m body => Sys2Proof.Machine.execHeartbeatMessage m body s
  | .fwStage m body => Sys2Proof.Machine.execFwStage m body s
  | .fwActivate m body => Sys2Proof.Machine.execFwActivate m body s
  | .odRead m body => Sys2Proof.Machine.execOdRead m body s
  | .odWrite m body => Sys2Proof.Machine.execOdWrite m body s
  | .heartbeatTimeout => Sys2Proof.Machine.execHeartbeatTimeout s
  | .leaseEnd => Sys2Proof.Machine.execLeaseEnd s
  | .holdOffEnd => Sys2Proof.Machine.execHoldOffEnd s
  | .create j p => Sys2Proof.Machine.execCreate j p s
  | .start j p => Sys2Proof.Machine.execStart j p s
  | .park j p => Sys2Proof.Machine.execPark j p s
  | .unpark j p => Sys2Proof.Machine.execUnpark j p s
  | .checkpoint j p => Sys2Proof.Machine.execCheckpoint j p s
  | .destroy j p => Sys2Proof.Machine.execDestroy j p s
  | .checkpointDone j => Sys2Proof.Machine.execCheckpointDone j s
  | .jobScrubDone j => Sys2Proof.Machine.execJobScrubDone j s
  | .governorWindow measured => Sys2Proof.Machine.execGovernorWindow measured s
  | .powerSample mv ma => Sys2Proof.Machine.execPowerSample mv ma s
  | .dieSensorRead temps => Sys2Proof.Machine.execDieSensorRead temps s
  | .standbyStart mv slot => Sys2Proof.Machine.execStandbyStart mv slot s
  | .standbyStop => Sys2Proof.Machine.execStandbyStop s
  | .inrushEnd => Sys2Proof.Machine.execInrushEnd s
  | .inputUndervoltage mv us => Sys2Proof.Machine.execInputUndervoltage mv us s
  | .inputOvervoltage mv us => Sys2Proof.Machine.execInputOvervoltage mv us s
  | .railFault group => Sys2Proof.Machine.execRailFault group s
  | .undervoltageRecovery mv us => Sys2Proof.Machine.execUndervoltageRecovery mv us s
  | .railGroupGood g => Sys2Proof.Machine.execRailGroupGood g s
  | .railGroupOff g => Sys2Proof.Machine.execRailGroupOff g s
  | .pllLock => Sys2Proof.Machine.execPllLock s
  | .pllUnlock p => Sys2Proof.Machine.execPllUnlock p s
  | .pllRelock p => Sys2Proof.Machine.execPllRelock p s
  | .modEnAssert => Sys2Proof.Machine.execModEnAssert s
  | .modEnDeassert => Sys2Proof.Machine.execModEnDeassert s
  | .modRstAssert => Sys2Proof.Machine.execModRstAssert s
  | .modRstRelease slot => Sys2Proof.Machine.execModRstRelease slot s
  | .pfwHold => Sys2Proof.Machine.execPfwHold s
  | .pfwRelease => Sys2Proof.Machine.execPfwRelease s
  | .unitIdleEntry u => Sys2Proof.Machine.execUnitIdleEntry u s
  | .napDelayExpiry u => Sys2Proof.Machine.execNapDelayExpiry u s
  | .offDelayExpiry u => Sys2Proof.Machine.execOffDelayExpiry u s
  | .deepIdle v => Sys2Proof.Machine.execDeepIdle v s
  | .watchdogExpiry c => Sys2Proof.Machine.execWatchdogExpiry c s
  | .fwCoreRestart c => Sys2Proof.Machine.execFwCoreRestart c s
  | .updateHandoverDone accepted => Sys2Proof.Machine.execUpdateHandoverDone accepted s
  | .handoverDeadline => Sys2Proof.Machine.execHandoverDeadline s
  | .bootComplete failed => Sys2Proof.Machine.execBootComplete failed s
  | .fuseCommit kind => Sys2Proof.Machine.execFuseCommit kind s
  | .lockstepMismatch => Sys2Proof.Machine.execLockstepMismatch s
  | .attestNonce v => Sys2Proof.Machine.execAttestNonce v s
  | .attestReportReady => Sys2Proof.Machine.execAttestReportReady s
  | .debugChallenge p => Sys2Proof.Machine.execDebugChallenge p s
  | .debugToken v => Sys2Proof.Machine.execDebugToken v s
  | .debugLock v => Sys2Proof.Machine.execDebugLock v s
  | .debugLifetimeEnd => Sys2Proof.Machine.execDebugLifetimeEnd s
  | .challengeExpiry => Sys2Proof.Machine.execChallengeExpiry s
  | .serviceRemove p r => Sys2Proof.Machine.execServiceRemove p r s
  | .serviceTest p r => Sys2Proof.Machine.execServiceTest p r s
  | .serviceReturn p r => Sys2Proof.Machine.execServiceReturn p r s
  | .serviceRemovalDone => Sys2Proof.Machine.execServiceRemovalDone s
  | .selfTestDone pass => Sys2Proof.Machine.execSelfTestDone pass s
  | .clearDegraded v => Sys2Proof.Machine.execClearDegraded v s
  | .snapshot v => Sys2Proof.Machine.execSnapshot v s
  | .snapshotPeriodExpiry => Sys2Proof.Machine.execSnapshotPeriodExpiry s
  | .counterSelect unit c v => Sys2Proof.Machine.execCounterSelect unit c v s
  | .countClear unit c v => Sys2Proof.Machine.execCountClear unit c v s
  | .sampleSeed v => Sys2Proof.Machine.execSampleSeed v s
  | .sampleConsumed v => Sys2Proof.Machine.execSampleConsumed v s
  | .alertStatus v => Sys2Proof.Machine.execAlertStatus v s
  | .dictWrite index sub v => Sys2Proof.Machine.execDictWrite index sub v s
  | .beacon => Sys2Proof.Machine.execBeacon s
  | .beaconLoss => Sys2Proof.Machine.execBeaconLoss s
  | .sidebandReassemblyTimeout => Sys2Proof.Machine.execSidebandReassemblyTimeout s
  | .restore j container => Sys2Proof.Machine.execRestore j container s
  | .sidebandFrame f => Sys2Proof.Machine.execSidebandFrame f s
  | .notifyIntervalEnd r => Sys2Proof.Machine.execNotifyIntervalEnd r s
  | .rawInputEdge p level => Sys2Proof.Machine.execRawInputEdge p level s
  | .corruptFabricFrame p e => Sys2Proof.Machine.execCorruptFabricFrame p e s
  | .memoryReadArrival id flt => Sys2Proof.Machine.execMemoryReadArrival id flt s

end Sys2Proof.Machine
end

