-- ==== Sys2Proof/Safety.lean ====
section
/-! DEFINITION. What counts as a safe run: the forms that every state keeps, the state that follows from other state, and runs of
several steps. -/

namespace Sys2Proof.Machine

/-- A register file is in canonical form: keys strictly rising, no value at its reset value. -/
abbrev Regs.wf (r : Regs) : Prop := r.Pairwise (·.1 < ·.1) ∧ ∀ c ∈ r, c.2 ≠ Dict.reset c.1

/-- ALERT_N and the level bits of alert_status follow their conditions (R408): the output is high exactly while no enabled bit is
set. -/
def State.alertFollows (s : State) : Prop :=
  s.reg K.alertStatus % 16 = s.alertLevels ∧ s.pow.alertN = decide (s.reg K.alertStatus &&& s.reg K.alertMask = 0)

/-- The in-service entries 0x1011.01 to .07 tell what is in service (R34). -/
def State.healthFollows (s : State) : Prop := s.regsFrom K.phrasesInService 7 = s.inService

/-- The state that follows from other state does. -/
def State.settled (s : State) : Prop := s.alertFollows ∧ s.healthFollows

/-- Byte memory, the session window and the on-die reduction buffer are in canonical form. -/
def State.formed (s : State) : Prop := Memory.wf s.mem.bytes ∧ Memory.wf s.mem.window ∧ Memory.wf s.mem.rb ∧ Regs.wf s.regs

/-! ### Commands at the head of a queue -/

/-- `c`, of clause `cl`, stands at the head of a queue and may issue: no halt and nothing in execution before it, the gate open, the
clock running and the clause not held (R71, R376, R394); its bytes could be read (R69), physical binding does not name, at the clause's
first command, a unit that is absent or out of service (R36, R105), and the class of the queue accepts its opcode (R65, R76). -/
def State.mayIssue (s : State) (q : QueueId) (c : QCmd) (cl : Clause) : Prop :=
  s.headOf q = some (c, cl) ∧ c.bad = none ∧ (c.idx = 0 → c.again = false → s.unitMissing q cl = none) ∧
    s.accepts q.cls c.word = true

/-- No word of a unit's memories holds an error that its code cannot correct (R204, R227, R421). -/
def State.soundWords (s : State) : Prop := s.svc.badWords = []

/-- The state after a command has completed with the unit's work done in `u`: it has left its queue, a clause whose last command it
was has completed (R97, R417), and what follows from the state is derived afresh. -/
def retired (s u : State) (q : QueueId) : State := settle s (u.completeCmd q none)

/-- The state in which a command has entered execution, with `f` under way in `u`. -/
def entered (s u : State) (q : QueueId) (f : InFlight) : State :=
  settle s (u.modQueue q fun Q => { Q with infl := some f })

/-- The head bits that every vector and array command has are in range: no reserved bit is set, the rounding mode is defined and the
count lies from 1 to `m` (R72, R73, R46). -/
def headOk (w : Nat) (fields : List (Nat × Nat)) (m : Nat) : Prop :=
  reservedSet w fields = false ∧ rndOf w ≠ 3 ∧ 0 < countOf w ∧ countOf w ≤ m

/-- The operands of a vector command let it go: each is defined, declared and in bounds (R90), no destination overlaps a source
(R215), and no earlier clause holds it back. -/
def State.vectorGoes (s : State) (cl : Clause) (l : List Opnd) (dsts : List (Nat × Nat)) (srcs : List (Nat × Nat × Bool)) : Prop :=
  checkOpnds (s.ctx cl.unit) cl l = none ∧ (∀ d ∈ dsts, ∀ x ∈ srcs, overlapBad d.1 d.2 x = false) ∧
    ∀ o ∈ l, s.mustWait cl cl.unit (opRes o.v) o.write = false

/-- A vector command's end: `k` elements and one command counted (R230, R463), and the conversion unit's state and flags kept. -/
def vectorEnd (u : State) (n : Nat) (c : QCmd) (cl : Clause) (k : Nat) (cv : Cv) : State :=
  (((u.saveCv cl.unit c.seq cv).bump (K.vecElements cl.unit) k).count (3 * n + 1) 0x10 k (some cl.job)).bump (K.vecCommands cl.unit) 1

/-- A run is safe: it neither faults nor is refused, and it ends settled. -/
def safeRun (n : Nat) (s : State) : Prop := ∃ t, Host.Core.run Sys2Proof.core n s = .next t ∧ State.settled t

end Sys2Proof.Machine
end

