-- ==== Sys2Proof/Certificates/Slice0/Obligations.lean ====
section
/-! DEFINITION. The statements for the provers, from the numbered rules of the spec. -/

open Sys2Proof Sys2Proof.Machine

/-! ### Commands of every engine -/

/-- NOP does nothing and FENCE orders (R76, R77); CLAUSE_OPEN and CLAUSE_DECL stand at their places (R85 to R87). Each, where it may
issue, completes and leaves all else as issuing left it. REGION_DEFINE gives a region its base and length, in place of what it had;
REGION_RELEASE takes them away (R76 to R78). DEBUG_BREAK halts its engine with its tag as the detail, and completes when it is resumed;
the vendor role's resume and end of that halt continue the command or end its clause (R98, R106). -/
def Obligations.ControlCommandsComplete : Prop :=
  (∀ (s : State) (q : QueueId) (c : QCmd) (cl : Clause), s.mayIssue q c cl →
    (isOp 0x00 c.word = true → reservedSet c.word [(0, 8)] = false → exec (.nop q) s = .next (retired s (s.started q c cl) q)) ∧
    (isOp 0x01 c.word = true → c.idx = 0 → exec (.clauseOpen q) s = .next (retired s (s.started q c cl) q)) ∧
    (isOp 0x02 c.word = true → 0 < c.idx → c.idx ≤ cl.declCount → exec (.clauseDecl q) s = .next (retired s (s.started q c cl) q)) ∧
    (isOp 0x03 c.word = true → reservedSet c.word [(0, 8), (32, 1)] = false →
      (bit c.word 32 = true → ∀ e ∈ s.clauses, ¬ (clsOfPhrase e.cls = true ∧ e.unit = cl.unit ∧ e.job = cl.job ∧ e.seq < cl.seq)) →
      exec (.fence q) s = .next (retired s (s.started q c cl) q))) ∧
  (∀ (s : State) (q : QueueId) (c : QCmd) (cl : Clause), s.mayIssue q c cl → declaresWrite cl (cb c.word 4 1) = true →
    s.mustWait cl cl.unit (cb c.word 4 1) true = false →
    (isOp 0x04 c.word = true → reservedSet c.word [(0, 8), (32, 8), (64, 11), (80, 12)] = false →
      0 < bits c.word 80 12 → bits c.word 64 11 + bits c.word 80 12 ≤ 2048 →
      (∀ x ∈ (s.ctx cl.unit).regions, x.1 ≠ cb c.word 4 1 → overlap (bits c.word 64 11) (bits c.word 80 12) x.2.1 x.2.2 = false) →
      exec (.regionDefine q) s = .next (retired s ((s.started q c cl).modCtx cl.unit fun x => { x with
        regions := x.regions.filter (·.1 != cb c.word 4 1) ++ [(cb c.word 4 1, bits c.word 64 11, bits c.word 80 12)] }) q)) ∧
    (isOp 0x05 c.word = true → reservedSet c.word [(0, 8), (32, 8)] = false → ((s.ctx cl.unit).region (cb c.word 4 1)).isSome = true →
      exec (.regionRelease q) s = .next (retired s ((s.started q c cl).modCtx cl.unit fun x => { x with
        regions := x.regions.filter (·.1 != cb c.word 4 1) }) q))) ∧
  ((∀ (s : State) (q : QueueId) (c : QCmd) (cl : Clause), s.mayIssue q c cl → isOp 0xF0 c.word = true →
    reservedSet c.word [(0, 8), (128, 64)] = false →
    (c.again = false → exec (.debugBreak q) s = .next (settle s ((s.started q c cl).haltCmd q c cl 0xF0 (cb c.word 16 8) 0 0 false))) ∧
    (c.again = true → exec (.debugBreak q) s = .next (retired s (s.started q c cl) q))) ∧
  (∀ (s : State) (q : QueueId) (Q : Queue) (h : Halt), s.trust.unlocked = true → s.coreOut 3 = false → s.queue q = some Q →
    Q.halt = some h → h.reason = 0xF0 →
    exec (.debugHaltResume q) s = .next (settle s ((s.wake (.core 3)).resume q h)) ∧
    exec (.debugHaltEnd q) s = .next (settle s ((s.wake (.core 3)).endHalted q h))))

/-- An engine whose queue head may not issue, because it has halted, executes, has an empty queue, or its gate is closed, issues nothing:
no data-path row of its queue changes anything (R71, R97, R394). A gather that waits for a COMMIT's end is tried again at every COMMIT
(R338). -/
def Obligations.BlockedQueuesIssueNothing : Prop :=
  (∀ (s : State) (q : QueueId), s.headOf q = none →
    ∀ c ∈ [Instr.nop q, .clauseOpen q, .clauseDecl q, .fence q, .regionDefine q, .regionRelease q, .debugBreak q],
      exec c s = .next (settle s s)) ∧
  (∀ (s : State) (n : Nat) (f : Option HwFault) (a : MemAccess),
    (s.headOf ⟨.array, n⟩ = none →
      ∀ c ∈ [Instr.statLoad n f, .pass n f, .readout n f, .scaleLoad n f, .rescaleLoad n f, .elemwise n f, .accClear n, .accRead ⟨n, f⟩,
          .accWrite ⟨n, f⟩], exec c s = .next (settle s s)) ∧
    (s.headOf ⟨.vector, n⟩ = none →
      ∀ c ∈ [Instr.vunary n f, .vbinary n f, .vternary n f, .vreduce n f, .vquant n f, .vdequant n f, .vcombine n f, .vconvert n f],
        exec c s = .next (settle s s)) ∧
    (s.headOf ⟨.move, n⟩ = none →
      ∀ c ∈ [Instr.load n f, .store n f, .tload n f, .stashPut n f, .stashGet n f, .rbAdd n f, .rbRead n f],
        exec c s = .next (settle s s)) ∧
    (s.headOf ⟨.embed, n⟩ = none → ∀ c ∈ [Instr.lookupPool n f, .gradScatter n f, .combineFlush n f], exec c s = .next (settle s s)) ∧
    (s.headOf ⟨.update, n⟩ = none → exec (.commit n ⟨a, f⟩) s = .next (settle s s.gathersGoOn) ∧
      ∀ c ∈ [Instr.recipeLoad n a, .exportRows n a], exec c s = .next (settle s s)) ∧
    (s.headOf ⟨.fabric, n⟩ = none →
      ∀ c ∈ [Instr.remoteGet n, .remotePut n, .remoteAdd n, .remoteAtomic n, .remoteSignal n, .gather n, .refetch n],
        exec c s = .next (settle s s)))

/-! ### The matrix array -/

/-- STAT_LOAD fills the staging plane with its rows (R188). PASS swaps, streams its rows and adds their products into the bank of its
product; one that spills stays in execution until the addition to its spill tile is done, any other completes (R185 to R199).
SPILL_ADD_DONE: the spilled bank has been added into its spill tile, or written where it is the product's first spill; the bank is free
and the PASS completes (R198, R199). A tile that a swap retired frees its bytes when the last pass that streams over it has left (R190). -/
def Obligations.StationaryLoadAndPassComplete : Prop :=
  (∀ (s : State) (q : QueueId) (c : QCmd) (cl : Clause), s.mayIssue q c cl → s.soundWords → ∀ n, q = ⟨.array, n⟩ →
    (isOp 0x20 c.word = true → (∀ x ∈ statChecks c.word, x.1 = false) → s.board cl cl.unit (statOpnds c.word) = .go →
      exec (.statLoad n none) s = .next (retired s ((s.started q c cl).modCtx cl.unit fun x => { x with
        staging := statStaged x c.word (countOf c.word) }) q)) ∧
    (isOp 0x21 c.word = true → (∀ x ∈ passChecks (s.ctx cl.unit) c.word, x.1 = false) →
      s.board cl cl.unit (passOpnds (s.ctx cl.unit) c.word) = .go → passFull (s.ctx cl.unit) c.word = false →
      (passSpills (s.ctx cl.unit) c.word = false →
        exec (.pass n none) s = .next (retired s
          (((passWork (s.started q c cl) c cl (countOf c.word)).freeRetired cl.unit).bump (K.aryPasses cl.unit) 1) q)) ∧
      (passSpills (s.ctx cl.unit) c.word = true →
        exec (.pass n none) s = .next (entered s (passWork (s.started q c cl) c cl (countOf c.word)) q
          { progress := countOf c.word, pos := 0, waits := [] })))) ∧
  (∀ (s : State) (n : Nat) (Q : Queue) (c : QCmd) (rest : List QCmd) (f : InFlight) (cl : Clause) (b t : Nat) (first : Bool),
    s.queue ⟨.array, n⟩ = some Q → Q.cmds = c :: rest → Q.infl = some f → s.clause c.seq = some cl → s.soundWords →
    (s.ctx n).spilling = some (b, t, first) →
    let r := spillAdd ((s.ctx n).bank b) first (satOf c.word) 16384 ((s.ctx n).tile t)
    exec (.spillAddDone n none) s = .next (retired s
      (((s.modCtx n fun x => { x with spill := x.spill.modify t fun _ => r.1, spilling := none, retired := [] }).raise c.seq r.2.1 r.2.2).bump
        (K.aryPasses n) 1) ⟨.array, n⟩))

/-- READOUT writes its rows and closes the product (R200); SCALE_LOAD and RESCALE_LOAD set their entries (R53, R59, R80); ELEMWISE writes
the elements' sums or products (R205). ACC_CLEAR opens a product with every row at +0 (R197); ACC_READ writes the rows of the open
product's bank as raw fp32 and ACC_WRITE loads them, opening a product where none is open (R210). -/
def Obligations.ArrayResultsComplete : Prop :=
  (∀ (s : State) (q : QueueId) (c : QCmd) (cl : Clause), s.mayIssue q c cl → s.soundWords → ∀ n, q = ⟨.array, n⟩ →
    let w := c.word
    let x := s.ctx cl.unit
    let u := s.started q c cl
    let entries := (List.range (countOf w)).map fun i => x.entryAt (cb w 4 4) i
    (isOp 0x22 w = true → (∀ y ∈ readoutChecks x w, y.1 = false) → s.board cl cl.unit (readoutOpnds x w) = .go →
      exec (.readout n none) s = .next (retired s (readoutWork u c cl (countOf w)) q)) ∧
    (isOp 0x23 w = true → headOk w (headFields ++ [(32, 32), (176, 12)]) 4096 → bits w 176 12 + countOf w ≤ 4096 →
      s.board cl cl.unit [opnd (cb w 4 4) (8 * countOf w) false] = .go → (∀ e ∈ entries, scaleOk e = true) →
      exec (.scaleLoad n none) s = .next (retired s (u.modCtx cl.unit fun y => { y with
        scale := putTable 0 y.scale (bits w 176 12) entries }) q)) ∧
    (isOp 0x24 w = true → headOk w (headFields ++ [(32, 32), (192, 12)]) 4096 → bits w 192 12 + countOf w ≤ 4096 →
      s.board cl cl.unit [opnd (cb w 4 4) (8 * countOf w) false] = .go →
      exec (.rescaleLoad n none) s = .next (retired s (u.modCtx cl.unit fun y => { y with
        rescale := putTable 0x3F800000 y.rescale (bits w 192 12) entries }) q)) ∧
    (isOp 0x25 w = true → cb w 21 1 ≤ 1 →
      headOk w (headFields ++ [(32, 32), (64, 32), (96, 32), (128, 8), (136, 4), (168, 8)]) 16384 →
      isMult (bits w 128 4) = true → isMult (bits w 132 4) = true → isFloat (bits w 136 4) = true →
      s.board cl cl.unit [elemOpnd (cb w 4 4) (packedBytes (bits w 128 4) (countOf w)) false,
        elemOpnd (cb w 8 4) (packedBytes (bits w 136 4) (countOf w)) true,
        elemOpnd (cb w 12 4) (packedBytes (bits w 132 4) (countOf w)) false] = .go →
      let a := (x.readElems (cb w 4 4) (bits w 128 4) (countOf w)).map (decodeNum (bits w 128 4))
      let b := (x.readElems (cb w 12 4) (bits w 132 4) (countOf w)).map (decodeNum (bits w 132 4))
      let r := elemwiseCodes (cb w 21 1 == 1) (bits w 136 4) (a.zip b) (u.cvOf cl.unit .array w)
      exec (.elemwise n none) s = .next (retired s
        (((u.putLocal cl.unit (cb w 8 4) (bits w 136 4) r.1).saveCv cl.unit c.seq r.2).bump (K.aryElemwiseElements cl.unit)
          (countOf w)) q))) ∧
  (∀ (s : State) (q : QueueId) (c : QCmd) (cl : Clause), s.mayIssue q c cl → s.soundWords → ∀ n, q = ⟨.array, n⟩ →
    let w := c.word
    let x := s.ctx cl.unit
    let u := s.started q c cl
    (isOp 0x26 w = true → reservedSet w [(0, 8), (8, 1), (9, 2)] = false → rndOf w ≠ 3 →
      exec (.accClear n) s = .next (retired s (u.modCtx cl.unit fun y => y.openProduct 0 0 true) q)) ∧
    (isOp 0xF1 w = true → reservedSet w [(0, 8), (16, 16), (64, 32)] = false → 0 < countOf w → countOf w ≤ 128 →
      s.board cl cl.unit [opnd (cb w 8 4) (512 * countOf w) true] = .go → ∀ p, x.product = some p →
      exec (.accRead ⟨n, none⟩) s = .next (retired s (u.modCtx cl.unit fun y => y.writeLocal (opRes (cb w 8 4)) (opOff (cb w 8 4))
        ((List.range (128 * countOf w)).flatMap fun i => leBytes 4 (bufGet (x.bank p.bank) i 32))) q)) ∧
    (isOp 0xF2 w = true → reservedSet w [(0, 8), (16, 16), (32, 32)] = false → 0 < countOf w → countOf w ≤ 128 →
      s.board cl cl.unit [opnd (cb w 4 4) (512 * countOf w) false] = .go →
      exec (.accWrite ⟨n, none⟩) s = .next (retired s (u.modCtx cl.unit fun y =>
        let z := if y.product.isSome then y else y.openProduct 0 0 true
        let b := match z.product with | some p => p.bank | none => 0
        z.setBank b (bufPutAll (z.bank b) 0 (y.readElems (cb w 4 4) fmF32 (128 * countOf w)))) q)))

/-- A mismatch that the array's check finds halts its command with ARRAY_CHECK, and the detail tells the column, 128 for the check of a
row, and the product's pass number; the progress counts the rows that were done, and both banks and the open product's spill tile hold
nothing promised (R203, R209). A command that reads a word with an error that its code cannot correct halts with UNCORRECTABLE; the detail
tells the structure and the word's byte offset (R204). -/
def Obligations.ArrayFaultsHaltWithProgress : Prop :=
  (∀ (s : State) (q : QueueId) (c : QCmd) (cl : Clause), s.mayIssue q c cl → s.soundWords → ∀ n, q = ⟨.array, n⟩ → ∀ h : HwFault,
    h.reason = 0x31 →
    let u := s.started q c cl
    (isOp 0x21 c.word = true → (∀ x ∈ passChecks (s.ctx cl.unit) c.word, x.1 = false) →
      s.board cl cl.unit (passOpnds (s.ctx cl.unit) c.word) = .go → passFull (s.ctx cl.unit) c.word = false →
      let pass := match passInto (s.ctx cl.unit) c.word with | some p => p.passes | none => 0
      let done := min h.progress (countOf c.word)
      let sums := passSums u cl.unit c.word (min h.progress (countOf c.word - 1))
      ∀ column, (column < 128 ∧ h.detail % 2 ^ 16 = column) ∨ (column = 128 ∧ h.detail % 2 ^ 16 = 128 ∧ sums.1.isFin = true ∧
          checkRow (decodeNum fmF32 (bits h.detail 16 32)) sums.2.1 sums.2.2 = true) →
        exec (.pass n (some h)) s = .next (settle s (((passWork u c cl done).arrayHalt cl.unit).haltCmd q c cl 0x31
          (column + 2 ^ 16 * pass) done 0 (done != 0)))) ∧
    (isOp 0x22 c.word = true → (∀ y ∈ readoutChecks (s.ctx cl.unit) c.word, y.1 = false) →
      s.board cl cl.unit (readoutOpnds (s.ctx cl.unit) c.word) = .go → h.detail % 2 ^ 16 < 128 →
      let done := min h.progress (countOf c.word)
      exec (.readout n (some h)) s = .next (settle s (((readoutWork u c cl done).arrayHalt cl.unit).haltCmd q c cl 0x31
        (h.detail % 2 ^ 16 + 2 ^ 16 * ((s.ctx cl.unit).passNo - 1)) done 0 (done != 0))))) ∧
  (∀ (s : State) (q : QueueId) (n : Nat) (words : List Words) (check : HwFault → Option HwFault)
    (flt : Option HwFault), (∃ m ∈ s.svc.badWords, hitWords q n words m = true) →
    ∃ m ∈ s.svc.badWords, hitWords q n words m = true ∧ s.unitFault q n words check flt =
      some { reason := 0x30, detail := m.2.2.1 + 256 * m.2.2.2, progress := 0 }) ∧
  (∀ (s : State) (q : QueueId) (c : QCmd) (cl : Clause) (h : HwFault), s.mayIssue q c cl → ∀ n, q = ⟨.array, n⟩ → cl.cls = .array →
    cl.unit = n → isOp 0x20 c.word = true → (∀ x ∈ statChecks c.word, x.1 = false) → s.board cl n (statOpnds c.word) = .go →
    s.unitFault q n (boardWords (s.ctx n) false (statOpnds c.word)) noCheck none = some h → h.reason = 0x30 → h.progress = 0 →
    exec (.statLoad n none) s = .next (settle s ((((s.started q c cl).modCtx n fun x => { x with
      staging := statStaged x c.word 0 }).arrayHalt n).haltCmd q c cl 0x30 h.detail 0 0 false)))

/-! ### The vector engine -/

/-- VUNARY, VBINARY and VTERNARY write, element by element, what their operation gives of their sources, and count the elements (R215 to
R219, R230). -/
def Obligations.VectorElementwiseComplete : Prop :=
  ∀ (s : State) (q : QueueId) (c : QCmd) (cl : Clause), s.mayIssue q c cl → s.soundWords → ∀ n, q = ⟨.vector, n⟩ →
    let w := c.word
    let k := countOf w
    let fa := bits w 128 4
    let fb := bits w 132 4
    let fd := bits w 136 4
    let op := cb w 18 1
    let bc := bits w 152 2
    let x := s.ctx cl.unit
    let u := s.started q c cl
    let cv := u.cvOf cl.unit .vector w
    let a := x.readElems (cb w 4 4) fa k
    let b := if bc = 3 then [] else x.readElems (cb w 8 4) fb (bcastCount bc k)
    let noSpill (v : Nat) : Prop := isSpill (opRes v) = false
    let opA := vecOpnd (cb w 4 4) (packedBytes fa k) false false
    let opB := if bc = 3 then [] else [vecOpnd (cb w 8 4) (packedBytes fb (bcastCount bc k)) false false]
    let opD := vecOpnd (cb w 12 4) (packedBytes fd k) true false
    let srcB : List (Nat × Nat × Bool) := if bc = 3 then [] else [(cb w 8 4, packedBytes fb (bcastCount bc k), bc == 0)]
    (isOp 0x30 w = true → (op ≤ 0x0A ∨ op = 0x10 ∨ op = 0x11) → headOk w vecFields 16384 → isFloat fa = true →
      (if op = 0x10 ∨ op = 0x11 then fd = fmBit else isFloat fd = true) → noSpill (cb w 4 4) → noSpill (cb w 12 4) →
      s.vectorGoes cl [opA, opD] [(cb w 12 4, packedBytes fd k)] [(cb w 4 4, packedBytes fa k, true)] →
      let r := mapPut (fun i cv => unaryElem op fa fd (a.getD i 0) cv) k cv
      exec (.vunary n none) s = .next (retired s (vectorEnd (u.putLocal cl.unit (cb w 12 4) fd r.1) cl.unit c cl k r.2) q)) ∧
    (isOp 0x31 w = true → op ≤ 0x07 → headOk w (vecFields ++ [(64, 32), (132, 4), (152, 2), (192, 32)]) 16384 →
      (bc = 3 → cb w 8 4 = 0 ∧ fb = 0) → binaryBad op fa fb fd = none →
      noSpill (cb w 4 4) → noSpill (cb w 8 4) → noSpill (cb w 12 4) →
      s.vectorGoes cl ([opA] ++ opB ++ [opD]) [(cb w 12 4, packedBytes fd k)] ([(cb w 4 4, packedBytes fa k, true)] ++ srcB) →
      let r := mapPut (fun i cv => binaryElem op fa fb fd (a.getD i 0) (bcastElem bc b (cb w 24 4) i) cv) k cv
      exec (.vbinary n none) s = .next (retired s (vectorEnd (u.putLocal cl.unit (cb w 12 4) fd r.1) cl.unit c cl k r.2) q)) ∧
    (isOp 0x32 w = true → op ≤ 0x02 → headOk w (vecFields ++ [(64, 32), (132, 4), (152, 2), (192, 32), (224, 32)]) 16384 →
      (bc = 3 → cb w 8 4 = 0 ∧ fb = 0) → isFloat fa = true → isFloat fb = true → isFloat fd = true →
      noSpill (cb w 4 4) → noSpill (cb w 8 4) → noSpill (cb w 12 4) → noSpill (cb w 28 4) →
      let fc := if op = 0x02 then fmBit else fd
      s.vectorGoes cl ([opA] ++ opB ++ [opD, vecOpnd (cb w 28 4) (packedBytes fc k) false false]) [(cb w 12 4, packedBytes fd k)]
        ([(cb w 4 4, packedBytes fa k, true), (cb w 28 4, packedBytes fc k, true)] ++ srcB) →
      let r := mapPut (fun i cv => ternaryElem op fa fb fd (a.getD i 0) (bcastElem bc b (cb w 24 4) i)
        ((x.readElems (cb w 28 4) fc k).getD i 0) cv) k cv
      let t := u.putLocal cl.unit (cb w 12 4) fd r.1
      let half := opRes (cb w 4 4) < 256 ∧ opRes (cb w 28 4) < 256 ∧ bc = 0 ∧ opRes (cb w 8 4) < 256
      ((half → exec (.vternary n none) s =
          .next (retired s (vectorEnd ((u.bump (K.vecHalfRateCommands cl.unit) 1).putLocal cl.unit (cb w 12 4) fd r.1) cl.unit c cl k r.2) q)) ∧
        (¬ half → exec (.vternary n none) s = .next (retired s (vectorEnd t cl.unit c cl k r.2) q))))

/-- VREDUCE writes each row's reduction, once or spread over the row (R222); VCONVERT converts (R220); VCOMBINE adds wide partials (R225).
VQUANT writes each row's codes, and its scale and zero point as an 8-byte record (R223); VDEQUANT expands codes by such records where each
is valid (R224). -/
def Obligations.VectorReductionsAndFormatsComplete : Prop :=
  (∀ (s : State) (q : QueueId) (c : QCmd) (cl : Clause), s.mayIssue q c cl → s.soundWords → ∀ n, q = ⟨.vector, n⟩ →
    let w := c.word
    let k := countOf w
    let fa := bits w 128 4
    let fb := bits w 132 4
    let fd := bits w 136 4
    let op := cb w 18 1
    let len := cb w 20 2
    let x := s.ctx cl.unit
    let u := s.started q c cl
    let cv := u.cvOf cl.unit .vector w
    let a := x.readElems (cb w 4 4) fa k
    let src : Nat × Nat × Bool := (cb w 4 4, packedBytes fa k, true)
    let ends (t : State) (m : Nat) (cv : Cv) : State := retired s (vectorEnd t cl.unit c cl m cv) q
    (isOp 0x33 w = true → bits w 144 4 ≤ 4 → bits w 148 3 = 0 → headOk w (vecFields ++ [(160, 16)]) 16384 → 0 < len → len ≤ 16384 →
      isFloat fa = true → (isFloat fd = true ∨ (fd = fmW48 ∧ (bits w 144 4 = 0 ∨ bits w 144 4 = 3 ∨ bits w 144 4 = 4))) →
      isSpill (opRes (cb w 4 4)) = false → isSpill (opRes (cb w 12 4)) = false →
      let rows := ceilDiv k len
      let kd := if bit w 151 then k else rows
      s.vectorGoes cl [vecOpnd (cb w 4 4) (packedBytes fa k) false false, vecOpnd (cb w 12 4) (packedBytes fd kd) true false]
        [(cb w 12 4, packedBytes fd kd)] [src] →
      let v := a.map (decodeNum fa)
      let r := mapPut (fun j cv => reduceRow (bits w 144 4) fd s.free j (rowOf v len j) cv) rows cv
      let out := if bit w 151 then r.1.zipIdx.flatMap fun y => List.replicate (rowOf v len y.2).length y.1 else r.1
      exec (.vreduce n none) s = .next (ends (u.putLocal cl.unit (cb w 12 4) fd out) out.length r.2)) ∧
    (isOp 0x37 w = true → op ≤ 1 → headOk w vecFields 16384 →
      (if op = 1 then fa = fmBit ∧ isFloat fd = true else (isWide fa = true ∨ fa = fmI32) ∧ (isWide fd = true ∨ fd = fmI32)) →
      (isSpill (opRes (cb w 4 4)) = true → fa = fmW48) → (isSpill (opRes (cb w 12 4)) = true → fd = fmW48) →
      s.vectorGoes cl [vecOpnd (cb w 4 4) (packedBytes fa k) false true, vecOpnd (cb w 12 4) (packedBytes fd k) true true]
        [(cb w 12 4, packedBytes fd k)] [src] →
      let r := mapPut (fun i cv => convertElem op fa fd (a.getD i 0) cv) k cv
      exec (.vconvert n none) s = .next (ends (u.putLocal cl.unit (cb w 12 4) fd r.1) k r.2)) ∧
    (isOp 0x36 w = true → op = 0 → headOk w (vecFields ++ [(64, 32), (132, 4)]) 16384 →
      (fa = fmF32 ∨ fa = fmW48) → (fb = fmF32 ∨ fb = fmW48) → isWide fd = true →
      (isSpill (opRes (cb w 4 4)) = true → fa = fmW48) → (isSpill (opRes (cb w 8 4)) = true → fb = fmW48) →
      (isSpill (opRes (cb w 12 4)) = true → fd = fmW48) →
      s.vectorGoes cl [vecOpnd (cb w 4 4) (packedBytes fa k) false true, vecOpnd (cb w 8 4) (packedBytes fb k) false true,
          vecOpnd (cb w 12 4) (packedBytes fd k) true true]
        [(cb w 12 4, packedBytes fd k)] [src, (cb w 8 4, packedBytes fb k, true)] →
      let b := x.readElems (cb w 8 4) fb k
      let r := mapPut (fun i cv => combineElem fa fb fd (a.getD i 0) (b.getD i 0) cv) k cv
      exec (.vcombine n none) s = .next (ends (u.putLocal cl.unit (cb w 12 4) fd r.1) k r.2))) ∧
  (∀ (s : State) (q : QueueId) (c : QCmd) (cl : Clause), s.mayIssue q c cl → s.soundWords → ∀ n, q = ⟨.vector, n⟩ →
    let w := c.word
    let k := countOf w
    let fa := bits w 128 4
    let fd := bits w 136 4
    let op := cb w 18 1
    let len := cb w 20 2
    let rows := ceilDiv k len
    let x := s.ctx cl.unit
    let u := s.started q c cl
    let cv := u.cvOf cl.unit .vector w
    let src : Nat × Nat × Bool := (cb w 4 4, packedBytes fa k, true)
    (isOp 0x34 w = true → op ≤ 1 → headOk w (vecFields ++ [(160, 16), (224, 32)]) 16384 → 0 < len → len ≤ 16384 →
      (op = 1 → len % 2 = 0 ∧ k % 2 = 0) → fa ≤ 2 → fd = (if op = 0 then fmI8 else fmI4) →
      isSpill (opRes (cb w 4 4)) = false → isSpill (opRes (cb w 12 4)) = false → isSpill (opRes (cb w 28 4)) = false →
      s.vectorGoes cl [vecOpnd (cb w 4 4) (packedBytes fa k) false false, vecOpnd (cb w 12 4) (packedBytes fd k) true false,
          vecOpnd (cb w 28 4) (8 * rows) true false] [(cb w 12 4, packedBytes fd k), (cb w 28 4, 8 * rows)] [src] →
      let r := quantRows (if op = 0 then 8 else 4) len ((x.readElems (cb w 4 4) fa k).map (decodeNum fa)) rows cv
      let codes := (r.1.reverse.flatMap (·.codes)).take k
      exec (.vquant n none) s = .next (retired s (vectorEnd
        ((u.modCtx cl.unit fun y => y.writeLocal (opRes (cb w 28 4)) (opOff (cb w 28 4)) (r.1.reverse.flatMap quantRecord)).putLocal
          cl.unit (cb w 12 4) fd codes) cl.unit c cl (k + rows) r.2) q)) ∧
    (isOp 0x35 w = true → op = 0 → headOk w (vecFields ++ [(64, 32), (160, 16)]) 16384 → 0 < len → len ≤ 16384 →
      isCode fa = true → isFloat fd = true →
      isSpill (opRes (cb w 4 4)) = false → isSpill (opRes (cb w 8 4)) = false → isSpill (opRes (cb w 12 4)) = false →
      s.vectorGoes cl [vecOpnd (cb w 4 4) (packedBytes fa k) false false, vecOpnd (cb w 8 4) (8 * rows) false false,
          vecOpnd (cb w 12 4) (packedBytes fd k) true false] [(cb w 12 4, packedBytes fd k)] [src, (cb w 8 4, 8 * rows, false)] →
      (∀ j < rows, recordOk fa (x.entryAt (cb w 8 4) j) = true) →
      let a := x.readElems (cb w 4 4) fa k
      let r := mapPut (fun i cv => cv.put fd (dequant (bits (x.entryAt (cb w 8 4) (i / len)) 0 32) (a.getD i 0)
        (bits (x.entryAt (cb w 8 4) (i / len)) 32 8))) k cv
      exec (.vdequant n none) s = .next (retired s (vectorEnd (u.putLocal cl.unit (cb w 12 4) fd r.1) cl.unit c cl k r.2) q)))

/-! ### The MOVE engine -/

/-- LOAD, TLOAD and STASH_GET enter execution with their first chunks requested, 4,096 at most (R282); STORE and STASH_PUT with their
first chunks written, from where a resumed command stood (R98, R239, R240). -/
def Obligations.MoveTransfersBegin : Prop :=
  ∀ (s : State) (q : QueueId) (c : QCmd) (cl : Clause), s.mayIssue q c cl → s.soundWords → ∀ n, q = ⟨.move, n⟩ → cl.unit = n →
    (∀ x ∈ moveChecks c.word, x.1 = false) → s.board cl n [moveOpnd (moveGeom c.word)] = .go →
    let g := moveGeom c.word
    let u := s.started q c cl
    let put (t : State) : State := t.overwrite ⟨cl.cls, n⟩ n (boardWords (s.ctx n) true [moveOpnd g])
    let asked (stash : Bool) : State × InFlight := u.moveRequest q cl.job g stash 4097 { progress := 0, pos := 0, waits := [] }
    let pos := if c.again then c.pos else 0
    (isOp 0x40 c.word = true → u.scaleWait cl g = false → exec (.load n none) s = .next (entered s (put (asked false).1) q (asked false).2)) ∧
    (isOp 0x42 c.word = true → exec (.tload n none) s = .next (entered s (put (asked false).1) q (asked false).2)) ∧
    (isOp 0x44 c.word = true → u.scaleWait cl g = false →
      exec (.stashGet n none) s = .next (entered s (put (asked true).1) q (asked true).2)) ∧
    (∀ t f, u.moveWrite n c cl g g.rows 4097 { progress := g.doneBytes pos, pos := pos, waits := [] } = .ok t f →
      (isOp 0x41 c.word = true → exec (.store n none) s = .next (entered s t q f)) ∧
      (isOp 0x43 c.word = true → exec (.stashPut n none) s = .next (entered s t q f)))

/-- A chunk that arrives is converted and written to its place in the local operand, and the next chunks are requested; a write that is
acknowledged makes room for the next ones. The last arrival or acknowledgement completes the command (R282, R82). What the controller met
is counted, and a unit that it could not correct poisoned (R303 to R305). A fourth parity failure of a chunk ends its transfer with
UNCORRECTABLE and the chunk's address as detail; a sector written stays poisoned (R304). -/
def Obligations.MoveArrivalsAndAcksGoOn : Prop :=
  (∀ (s : State) (n id : Nat) (a : MemAccess) (c : QCmd) (cl : Clause) (f : InFlight) (x : Xfer),
    let q : QueueId := ⟨.move, n⟩
    let g := moveGeom c.word
    let r := s.accessAt cl.job x.va x.len a
    s.moving q = some (c, cl, f) → f.waits.find? (·.id == id) = some x → a.retries ≤ 3 →
    (moveInto g.op = true → s.heldAt cl.job x.va = false → ∀ bs, r.readMem cl.job x.va x.len (g.op == 0x44) = .ok bs →
      let u := (r.didRead cl.job x.va x.len).count (3 * n + 2) 0x10 1 (some cl.job)
      let v := convBytes g.sf g.df bs (u.cvOf n .move c.word)
      let m := (((u.modCtx n fun y => y.writeLocal (opRes g.local') x.dst v.1).saveCv n c.seq v.2).modClause c.seq
        fun y => { y with wrote := true }).moveRequest q cl.job g (g.op == 0x44) 4097
        { f with progress := f.progress + x.len, waits := f.waits.filter (·.id != id) }
      exec (.moveSectorArrival n id a) s = .next (settle s (m.1.moveEnd q g m.2))) ∧
    ((g.op = 0x41 ∨ g.op = 0x43) → a.bad = none → (∀ e ∈ s.fab.reqs, ¬ (e.owner = q ∧ e.xid = id)) →
      exec (.memoryWriteAck q id a) s = .next (settle s (State.moveSent q c cl g
        (r.moveWrite n c cl g g.rows 4097 { f with waits := f.waits.filter (·.id != id) }))))) ∧
  (∀ (s : State) (n id : Nat) (a : MemAccess) (c : QCmd) (cl : Clause) (f : InFlight) (x : Xfer),
    let q : QueueId := ⟨.move, n⟩
    let g := moveGeom c.word
    let r := s.accessAt cl.job x.va x.len a
    s.moving q = some (c, cl, f) → f.waits.find? (·.id == id) = some x →
    (3 < a.retries → moveInto g.op = true → s.heldAt cl.job x.va = false → exec (.moveSectorArrival n id a) s =
      .next (settle s (r.haltCmd q c cl 0x30 x.va (g.progress f.progress) f.pos (f.progress != 0)))) ∧
    (3 < a.retries ∨ a.bad.isSome = true → g.op = 0x41 ∨ g.op = 0x43 → (∀ e ∈ s.fab.reqs, ¬ (e.owner = q ∧ e.xid = id)) →
      ∀ p, r.physOf cl.job x.va = some p → exec (.memoryWriteAck q id a) s =
        .next (settle s ((r.poison p).haltCmd q c cl 0x30 x.va (g.progress f.progress) f.pos true))))

/-- RB_ADD, where no block that it reaches is DIRTY with an earlier epoch, marks its blocks and adds its rows into the window; RB_READ
converts the window's rows into local storage. Each completes when every row is done and nothing that it sent is outstanding, and is in
execution until then (R244, R273). Adds into an on-die run of the window are fp32 sums rounded once to nearest even, and leave every other
byte of the reduction buffer as it was; a run beyond the window is refused (R62, R244). -/
def Obligations.ReductionWindowsRoundOnce : Prop :=
  (∀ (s : State) (q : QueueId) (c : QCmd) (cl : Clause), s.mayIssue q c cl → s.soundWords → ∀ n, q = ⟨.move, n⟩ → cl.unit = n →
    (∀ x ∈ moveChecks c.word, x.1 = false) → s.board cl n [moveOpnd (moveGeom c.word)] = .go →
    let g := moveGeom c.word
    let u := s.started q c cl
    let put (t : State) : State := t.overwrite ⟨cl.cls, n⟩ n (boardWords (s.ctx n) true [moveOpnd g])
    let bs := u.inWindow cl.job g.blocks
    let start := if c.again then c.pos else 0
    let ends (i : Instr) (t : State) (pos : Nat) : Prop :=
      (t.asks q = false → exec i s = .next (retired s (put t) q)) ∧
      (t.asks q = true → exec i s = .next (entered s (put t) q { progress := g.doneBytes pos, pos := pos, waits := [] }))
    (isOp 0x45 c.word = true → (∀ b ∈ bs, ∀ e, u.dirtyOf cl.job b = some e → u.epochOf cl ≤ e) → ∀ t pos,
      ((if c.again then u.resend q else u).markDirty cl.job (u.epochOf cl) bs).rbAddRun n c cl g g.rows (2 ^ 20 * (g.rows + 1)) start =
        .done t pos → ends (.rbAdd n none) t pos) ∧
    (isOp 0x46 c.word = true → ∀ t pos, u.rbReadRun n c cl g g.rows (2 ^ 20 * (g.rows + 1)) start = .done t pos →
      ends (.rbRead n none) t pos)) ∧
  (∀ (s : State) (j o : Nat) (sat : Bool) (xs : List Sys2Proof.Machine.Num), Memory.wf s.mem.rb →
    (xs ≠ [] → o + 4 * xs.length ≤ s.reg (K.rbLen j) → ∃ t f, s.windowAdd j o sat xs = .ok (t, f) ∧
      elemsOf fmF32 (readRun t.mem.rb (s.reg (K.rbBase j) + o) (4 * xs.length)) xs.length =
        ((List.range xs.length).map fun k => (encode fmF32 0 sat 0
          ((decodeNum fmF32 ((elemsOf fmF32 (readRun s.mem.rb (s.reg (K.rbBase j) + o) (4 * xs.length)) xs.length).getD k 0)).add
            (xs.getD k zeroNum))).code) ∧
      (∀ a, a < s.reg (K.rbBase j) + o ∨ s.reg (K.rbBase j) + o + 4 * xs.length ≤ a → byteAt t.mem.rb a = byteAt s.mem.rb a)) ∧
    (s.reg (K.rbLen j) + s.reg (K.extLen j) < o + 4 * xs.length → ∃ d, s.windowAdd j o sat xs = .fail 0x21 d))

/-! ### The embedding engines -/

/-- LOOKUP_POOL, with its descriptors, batch and region in order, accepts index positions from its first unwritten bag on; it completes
when every bag is written, and is in execution until then (R119, R131 to R136). A row that arrives enters the hot-row cache where its
table's rows allocate, and is pooled into every bag that waits for it; a map entry that arrives sends the row's own request, or halts a
look-up whose entry is invalid with UNMAPPED_ADDRESS (R119, R126, R140). Counting an index adds 1, saturating, to the least of its key's
four counters (R122, R124); SKETCH_HALVING halves every counter, rounding down, each time that many indices have been accepted as the
decay entry says (R123). Both keep the sketch's form. -/
def Obligations.LookupsPoolTheirRows : Prop :=
  (∀ (s : State) (k : Nat) (c : QCmd) (cl : Clause), s.mayIssue ⟨.embed, k⟩ c cl → s.soundWords → cl.unit = k →
    isOp 0x50 c.word = true →
    let u := s.started ⟨.embed, k⟩ c cl
    (∀ x ∈ u.embChecks cl c.word, x.1 = false) → u.sharedWritable cl.job = .ok none →
    ∀ t B, u.tableOf cl.job (embTable c.word) = .ok t → u.batchOf cl.job c.word t = .ok B →
      let out := opnd (embRegion c.word) (4 * t.dim * countOf c.word) true
      s.board cl cl.declUnit [out] = .go →
      let put (v : State) : State := v.overwrite ⟨cl.cls, k⟩ cl.declUnit (boardWords (s.ctx cl.declUnit) true [out])
    ∀ v pos, (u.modEe k Ee.drop).acceptRun k c cl t B lookupFuel (if c.again then 2 ^ 17 * c.prog else 0) = .stop v pos →
      (countOf c.word ≤ pos / 2 ^ 17 → (v.ee k).trackers = [] →
        exec (.lookupPool k none) s = .next (retired s (put (v.modEe k fun e => { e with fetches := [] })) ⟨.embed, k⟩)) ∧
      (pos / 2 ^ 17 < countOf c.word ∨ (v.ee k).trackers ≠ [] → exec (.lookupPool k none) s = .next (entered s (put v) ⟨.embed, k⟩
        { progress := v.lookupProgress k (countOf c.word) pos, pos := pos, waits := [] }))) ∧
  (∀ (s : State) (k id : Nat) (a : MemAccess) (c : QCmd) (cl : Clause) (x : InFlight) (f : Fetch) (b : List Byte),
    s.embedding k = some (c, cl, x) → isOp 0x50 c.word = true → (s.ee k).fetches.find? (·.id == id) = some f →
    (∀ r ∈ s.fab.reqs, ¬ (r.owner = ⟨.embed, k⟩ ∧ r.xid = id)) → s.heldAt cl.job f.addr = false → a.retries ≤ 3 →
    let n := if f.stage = .map then 8 else rowStride (f.table.fmt f.level) f.table.dim
    let r := s.accessAt cl.job f.addr n a
    let u := r.didRead cl.job f.addr n
    r.embRead cl.job f.addr n = .ok b →
    (f.stage = .row → exec (.rowFetchArrival k id a) s = .next (settle s (u.poolArrival k c cl f f.level f.gen b))) ∧
    (f.stage = .map → exec (.rowFetchArrival k id a) s = .next (settle s (u.mapArrival k c cl f (leNat b))))) ∧
  ((∀ (e : Ee) (key row : Nat), (e.countKey key row).estimate key row = min 65535 (e.estimate key row + 1) ∧
    (e.sketch.Pairwise (·.1 < ·.1) → (e.countKey key row).sketch.Pairwise (·.1 < ·.1))) ∧
  (∀ (s : State) (k : Nat), s.eePresent k = true → k < s.ees.length → s.reg (K.eeSketchDecay k) ≤ (s.ee k).accepted →
    (s.ee k).sketch.Pairwise (·.1 < ·.1) → ∃ t, exec (.sketchHalving k) s = .next t ∧
      (t.ee k).accepted = (s.ee k).accepted - s.reg (K.eeSketchDecay k) ∧
      (t.ee k).sketch.Pairwise (·.1 < ·.1) ∧ ∀ p, cellGet 0 p (t.ee k).sketch = cellGet 0 p (s.ee k).sketch / 2))

/-- GRAD_SCATTER combines the positions of its bags in the combining table (R147 to R153); COMBINE_FLUSH sends the job's entries of a
table as partials (R154, R155). Each completes once every partial that its clause sent is acknowledged, and is in execution until then. An
acknowledged partial leaves its EE and frees its sectors; a COMBINE_FLUSH that sent it counts it; then the EE's commands go on (R155). The
owner's grant of overflow pages resumes a flush that it had halted: the held command returns to its queue, or the inserted flush's halt
of that EE ends, and refused partials depart again (R98, R162). -/
def Obligations.GradientsScatterAndFlush : Prop :=
  (∀ (s : State) (k : Nat) (c : QCmd) (cl : Clause), s.mayIssue ⟨.embed, k⟩ c cl → s.soundWords → cl.unit = k →
    let q : QueueId := ⟨.embed, k⟩
    let u := s.started q c cl
    let u1 := if c.again then u.resendPartials k cl.job else u
    let mine (v : State) : Prop := ∃ p ∈ (v.ee k).partials, p.seq = cl.seq
    (isOp 0x51 c.word = true → (∀ x ∈ u.embChecks cl c.word, x.1 = false) →
      ∀ t g B, u.tableOf cl.job (embTable c.word) = .ok t → u.writeGuard cl.job t = false → u.gradDesc cl.job t.num = .ok g →
        u.batchOf cl.job c.word t = .ok B → s.board cl cl.declUnit [opnd (embRegion c.word) (4 * t.dim * countOf c.word) false] = .go →
      ∀ v pos, u1.scatterRun k c cl t B (u.epochOf cl % 2 ^ 32) lookupFuel (if c.again then c.pos else 0) = .stop v pos →
        (countOf c.word ≤ pos / 2 ^ 17 → ¬ mine v → exec (.gradScatter k none) s = .next (retired s v q)) ∧
        (pos / 2 ^ 17 < countOf c.word ∨ mine v → exec (.gradScatter k none) s =
          .next (entered s v q { progress := pos / 2 ^ 17, pos := pos, waits := [] }))) ∧
    (isOp 0x52 c.word = true → reservedSet c.word [(0, 8), (8, 1), (9, 2), (32, 8)] = false → rndOf c.word ≠ 3 →
      let t := embTable c.word
      (u.flushTables cl.job (if t = 0xFF then (((u.ee k).comb.filter fun x => x.job == cl.job).map (·.table)).eraseDups else [t])) = .ok () →
      let v := u1.flushSome k cl.seq (flushes cl.job t) 4097
      let left : Prop := (∃ x ∈ (v.ee k).comb, flushes cl.job t x = true) ∨ mine v
      (¬ left → exec (.combineFlush k none) s = .next (retired s v q)) ∧
      (left → exec (.combineFlush k none) s = .next (entered s v q { progress := c.prog, pos := 0, waits := [] })))) ∧
  (∀ (s : State) (k id : Nat) (p : Partial), (s.ee k).partials.find? (·.id == id) = some p → p.landed = true →
    exec (.partialAck k id) s = .next (settle s (((s.modEe k fun e => { e with partials := e.partials.filter (·.id != id) }).modQueue
      ⟨.embed, k⟩ fun Q => { Q with infl := match Q.cmds, Q.infl with
        | c :: _, some f => if c.seq == p.seq && cb c.word 0 1 == 0x52 then some { f with progress := f.progress + 1 } else some f
        | _, f => f }).embedGoOn k))) ∧
  (∀ (s : State) (k j : Nat), s.coreOut 2 = false → s.grantFits k j = true →
    (∀ h, s.heldOf ⟨.embed, k⟩ j = some h →
      exec (.overflowPageGrant k j) s = .next (settle s ((s.releaseHold ⟨.embed, k⟩ h).resendPartials k j))) ∧
    (s.heldOf ⟨.embed, k⟩ j = none → ∀ t, (s.steps.find? fun t => t.job == j && t.flushHalts.any (heldFlush k)) = some t →
      exec (.overflowPageGrant k j) s = .next (settle s ((s.modStep j t.number fun t => { t with
        flushHalts := t.flushHalts.filter fun h => !heldFlush k h }).resendPartials k j))))

/-- A keyed add, of a partial that this module's EE holds for its own rows or of a PARTIAL frame, first received or tried again: landed, it
waits no longer, its stall is counted, and the partial is marked or the frame answered; before the COMMIT of an earlier epoch it waits, and
a stall where R171 says keeps it waiting, each wait being counted once; a full overflow log refuses it, and so does a sector that cannot be
read at the fourth try (R160 to R164, R167, R171, R304). The add waits for its epoch, goes to its bucket where the row's state is in tier
0, and stalls where its state's page is away and no pending bucket takes it (R164, R167, R169, R171). A keyed add into a bucket that holds
its row and epoch adds to that way's sums; otherwise it takes the first way of another epoch, and the overflow log takes the rest (R160).
-/
def Obligations.KeyedAddsLandOrWait : Prop :=
  (∀ (s v : State) (src : KeyedSrc) (m : MemAccess) (i : Instr) (a : KeyedArg),
    (∃ k id, src = .ee k id ∧ i = .keyedAdd ⟨src, m⟩ ∧ v = s) ∨
      (∃ f, src = .frame f ∧ i = .keyedAdd ⟨src, m⟩ ∧ v = s ∧ ∃ w ∈ s.fab.kaWait, w.src = src) ∨
      (∃ f g, src = .frame g ∧ i = .keyedAdd ⟨.frame f, m⟩ ∧ (∀ w ∈ s.fab.kaWait, w.src ≠ .frame f) ∧ s.arrive 0x0B f = (some g, v)) →
    v.keyedArg src = some a →
    let u := match v.keyedMet a m with | some x => x.2 | none => v
    let land := u.landKeyed a.job a.table a.row a.epoch a.sums
    let waits (t : State) (stall : Bool) : Prop := ∃ w ∈ t.fab.kaWait, w.src = src ∧ w.stall = stall ∧ w.page = false
    let recorded (t : State) (stall : Bool) (key : Nat) : State := (t.modFab fun F => { F with
      kaWait := F.kaWait.filter (fun w => w.src != src) ++ [{ src := src, stall := stall, since := t.tick }] }).bump key 1
    (m.retries ≤ 3 →
      (∀ t nf, land = .done t nf → exec i s = .next (settle s ((t.keyedOver src a.job).keyedMade src nf))) ∧
      (land = .epochWait → (waits u false → exec i s = .next (settle s u)) ∧
        (¬ waits u false → exec i s = .next (settle s (recorded u false K.epochWaits)))) ∧
      (∀ t, land = .stall t → (waits t true → exec i s = .next (settle s t)) ∧
        (¬ waits t true → exec i s = .next (settle s (recorded t true (K.flushStalls a.job))))) ∧
      (∀ size, land = .quota size → exec i s =
        .next (settle s ((u.keyedOver src a.job).keyedRefused src 0x22 (256 * size + 2 ^ 101 * (256 + a.table)))))) ∧
    (3 < m.retries → ∀ d w, v.keyedMet a m = some (d, w) →
      exec i s = .next (settle s ((w.keyedOver src a.job).keyedRefused src 0x30 d)))) ∧
  (∀ (s : State) (j table row e : Nat) (sums : List Byte) (t : Table) (g : GradDesc),
    (s.epochHolds j table e = true → s.landKeyed j table row e sums = .epochWait) ∧
    (s.epochHolds j table e = false → s.tableOf j table = .ok t → s.gradDesc j table = .ok g →
      let all := padTo (4 * t.dim) sums
      (∀ v, (s.statePage j t row = none ∧ v = s) ∨
          (∃ h, s.statePage j t row = some h ∧ (h.allocated = false ∨ h.tier = 0) ∧ v = s.pinPage h table e) →
        (∀ x nf, v.keyedFold j g t.dim row e all = .done x nf → s.landKeyed j table row e sums = .done (x.markTouched j table e) nf) ∧
        (v.keyedFold j g t.dim row e all = .full → s.landKeyed j table row e sums = .quota (64 + gradStride t.dim))) ∧
      (∀ h, s.statePage j t row = some h → h.allocated = true → h.tier ≠ 0 → s.fetchFailed h.job h.va = none →
        let u := s.requestPage j h table e
        (u.reg (K.pendBucketBits j) = 0 ∨ u.parkPartial j table row e (2 ^ 48 * u.ownNode + h.va) all = .full) →
          s.landKeyed j table row e sums = .stall u))) ∧
  (∀ (s : State) (j : Nat) (g : GradDesc) (d row e : Nat) (sums b : List Byte) (w : Nat),
    let u := bucketOf row g.bits'
    s.readVa j (g.dir + 512 * u) 512 = .ok b → w < 32 →
    ((wayOf b w = (row, e) ∧ ∀ v < w, wayOf b v ≠ (row, e)) →
      s.keyedFold j g d row e sums = foldAcc (s.addRun j (d / 8 + 4) (g.data + (32 * u + w) * gradStride d) sums false)) ∧
    ((∀ v < 32, wayOf b v ≠ (row, e)) → (wayOf b w).2 ≠ e → (∀ v < w, (wayOf b v).2 = e) → ∀ t t2,
      s.writeVa j (g.data + (32 * u + w) * gradStride d) (padTo (gradStride d) sums) = .ok t →
      t.writeVa j (g.dir + 512 * u + 16 * w) (leBytes 8 row ++ leBytes 4 e ++ zeros 4) = .ok t2 →
      s.keyedFold j g d row e sums = .done t2 false) ∧
    ((∀ v < 32, wayOf b v ≠ (row, e) ∧ (wayOf b v).2 = e) →
      s.keyedFold j g d row e sums = s.appendOverflow j g row e sums (gradStride d)))

/-! ### The conjugator slices -/

/-- COMMIT on a slice, once its step has its result: a sparse set's rows of the epoch, or a dense set's rows, take the recipe in turn, and
the last slice ends the COMMIT; it completes once nothing that it sent is outstanding. In an ellipsis it completes and changes nothing;
before the result it waits (R26, R233, R262, R263). Gathers that wait for a COMMIT's end are tried again (R338). A row's record that a
COMMIT of an epoch finds at that epoch or a later one keeps every byte; any other takes the epoch, in one write of its record (R182, R263,
R265). -/
def Obligations.CommitsUpdateRows : Prop :=
  (∀ (s : State) (sl : Nat) (a : MemAccess) (c : QCmd) (cl : Clause), s.mayIssue ⟨.update, sl⟩ c cl → isOp 0x60 c.word = true →
    reservedSet c.word commitFields = false → a.retries ≤ 3 →
    let q : QueueId := ⟨.update, sl⟩
    let u := if c.again then (s.started q c cl).resend q else s.started q c cl
    let j := cl.job
    let E := cb c.word 8 8
    let len := cb c.word 24 4
    let p := cb c.word 4 1
    let slot := bits c.word 40 4
    let v := u.fillRecipes j sl
    let done (t : State) : Prop := exec (.commit sl ⟨a, none⟩) s = .next (settle s (t.completeCmd q none).gathersGoOn)
    ∀ t r P prog, (u.steps.find? fun t => t.job == j && t.epoch == E) = some t → u.rowSetOf j p len (cb c.word 16 8) = .ok r →
      u.recipesDue cl = false → (v.slice sl).recipe j slot = some prog → v.soundWords →
    let G : CommitG := { j := j, sl := sl, slot := slot, P := P, prog := prog, ks := commitKs P t, epoch := E }
    let rowsDone (w : State) (rows : List (Nat × List Nat)) (f : State → Cv → Nat × List Nat → Acc (State × Cv × Bool)) : Prop :=
      ∀ x, State.placeRecords j P rows w = .ok x → x.awayPages j P rows = [] → (∀ y ∈ rows, x.stranded G y.1 = false) →
        let mine := x.sliceRows sl G rows
        let y := match mine with
          | [] => x
          | m :: _ => x.accessAt j (P.recAddr m.1) (16 + P.elems * (4 + P.count * P.ssize)) a
        let o := commitRun y sl G mine mine.length f
        o.stop = none → o.need = none →
        let z := (commitLeft sl c { cl with unit := sl } G o).modClause c.seq fun y => { y with rows := y.rows + o.rows }
        let e := if z.lastSlice sl c then z.commitEnd G r len t.number else z
        (e.asks q = false → done e) ∧
        (e.asks q = true → exec (.commit sl ⟨a, none⟩) s = .next (settle s (e.modQueue q fun Q => { Q with
          infl := some { progress := o.rows, pos := 0, waits := [] } }).gathersGoOn))
    (r.sparse = true → ∀ T, u.tableOf j r.table = .ok T → u.psetOf j p T.dim false = .ok P → T.pset = p → T.readOnly = false →
      (beforeResult t = true → exec (.commit sl ⟨a, none⟩) s = .next (settle s s.gathersGoOn)) ∧
      (t.state = .ellipsis → done v) ∧
      (t.state = .committing → v.pendingLeft j T.num (E % 2 ^ 32) = .ok [] → ∀ g rows, v.gradDesc j T.num = .ok g →
        v.gradRows j g T.dim (E % 2 ^ 32) = .ok rows → rowsDone v rows fun s cv x => s.commitSparse G T cv x.1 x.2)) ∧
    (r.sparse = false → u.psetOf j p 256 true = .ok P →
      (beforeResult t = true → exec (.commit sl ⟨a, none⟩) s = .next (settle s s.gathersGoOn)) ∧
      (t.state = .ellipsis → done v) ∧
      (t.state = .committing →
        let xs := v.shardsIn j p r.first len
        (∀ x ∈ xs, x.retain = 0 ∨ (256 * r.first ≤ x.first ∧ x.first + x.elems ≤ 256 * r.first + r.elems)) →
        (∀ x ∈ xs, v.shardHeld x = false) → ∀ w, State.retainAll q P xs v = .ok w →
        rowsDone w ((List.range len).map fun i => (r.first + i, [])) fun s cv x => s.commitDense G r cv x.1))) ∧
  (∀ (s : State) (G : CommitG) (row live : Nat) (grads : List (List Nat)) (b : List Byte),
    let n := 16 + G.P.elems * (4 + G.P.count * G.P.ssize)
    let u := s.didRead G.j (G.P.recAddr row) n
    s.unitRead G.j (G.P.recAddr row) n = .ok b →
    (G.epoch ≤ nb b 0 8 → ∃ x, s.commitRecord G row live grads = .ok x ∧ x.state = u ∧ u.mem.bytes = s.mem.bytes ∧ x.found = true ∧
      x.master = (elemsOf fmF32 (b.drop 16) G.P.elems).map (decodeNum fmF32)) ∧
    (nb b 0 8 < G.epoch → ∀ x, s.commitRecord G row live grads = .ok x → x.found = false ∧
      ∃ body t, u.queueWrite G.q G.j (G.P.recAddr row) body = .ok t ∧ x.state = t.count (0x30 + G.sl) 0x12 live (some G.j) ∧
        body.take 8 = leBytes 8 G.epoch))

/-- RECIPE_LOAD puts its instructions in the job's slot of its slice, in place of what the slot held; the first slice that runs it gives
them also to the slices that will not run it and to the firmware's copy (R257, R258). EXPORT writes its records in row order and its header
last, and completes once its writes are acknowledged; the slices that reach the command after it is done pass it, and so does one whose
step is an ellipsis (R267, R268). COMMIT_REPLAY: core 2 admits a COMMIT that a slice's loss withdrew to the slices in service, which hold
the job's recipes; its credits are charged again and the replay is counted (R265). -/
def Obligations.RecipesExportsAndReplays : Prop :=
  (∀ (s : State) (sl : Nat) (a : MemAccess) (c : QCmd) (cl : Clause), s.mayIssue ⟨.update, sl⟩ c cl → isOp 0x61 c.word = true →
    reservedSet c.word [(0, 8), (40, 4), (128, 64), (192, 32)] = false → a.retries ≤ 3 →
    let len := cb c.word 24 4
    let u := (s.started ⟨.update, sl⟩ c cl).accessAt cl.job (cb c.word 16 8) len a
    0 < len → len % 4 = 0 → len ≤ 96 → ∀ b, u.unitRead cl.job (cb c.word 16 8) len = .ok b →
    let l := (List.range (len / 4)).map fun i => nb b (4 * i) 4
    (∀ w ∈ l, instrOk w = true) → exec (.recipeLoad sl a) s = .next (retired s
      ((u.didRead cl.job (cb c.word 16 8) len).deliver sl c { cl with unit := sl } (bits c.word 40 4) l) ⟨.update, sl⟩)) ∧
  (∀ (s : State) (sl : Nat) (c : QCmd) (cl : Clause) (slot : Nat) (l : List Nat), sl < s.slices.length →
    let t := s.deliver sl c cl slot l
    (t.slice sl).recipe cl.job slot = some l ∧
    (cl.next ≤ c.idx → ∀ k < s.slices.length, k < 12 → s.sliceUp k = true →
      (∀ Q, s.queue ⟨.update, k⟩ = some Q → Q.hasCmd c.seq c.idx = false) →
      (t.slice k).recipe cl.job slot = some l)) ∧
  (∀ (s : State) (sl : Nat) (a : MemAccess) (c : QCmd) (cl : Clause), s.mayIssue ⟨.update, sl⟩ c cl → isOp 0x62 c.word = true →
    reservedSet c.word [(0, 8), (32, 8), (128, 64), (192, 32)] = false →
    let q : QueueId := ⟨.update, sl⟩
    let u := s.started q c cl
    let j := cl.job
    let p := cb c.word 4 1
    (c.idx < cl.next → exec (.exportRows sl a) s = .next (retired s u q)) ∧
    (cl.next ≤ c.idx → ∀ d T? P, u.exportOf j p (cb c.word 16 8) = .ok d →
      (if d.sparse then ∃ T, T? = some T ∧ u.tableOf j d.table = .ok T ∧ T.pset = p else T? = none) →
      u.psetOf j p (match T? with | some T => T.dim | none => 256) (!d.sparse) = .ok P →
      ((∃ n t, cl.step = some n ∧ u.stepOf j n = some t ∧ t.state = .ellipsis) → exec (.exportRows sl a) s = .next (retired s u q)) ∧
      ((∀ n t, cl.step = some n → u.stepOf j n = some t → beforeResult t = false ∧ t.state ≠ .ellipsis) → u.exportReady sl c = true →
        64 ≤ d.cap → a.retries ≤ 3 →
        let v := u.accessAt j d.dest 64 a
        let o := State.exportRows q j d P T? (v.exportRange j d P T?)
          { state := v, bytes := 0, rows := 0, full := false, stop := none, need := none }
        o.stop = none → o.need = none → o.full = false →
        ∀ t, o.state.queueWrite q j d.dest (exportHeader d P T? (v.reg (K.agreedEpoch j)) o.rows true) = .ok t →
          let e := (t.modClause c.seq fun y => { y with wrote := y.wrote || o.rows != 0 }).modClause c.seq fun y => { y with
            next := max y.next (c.idx + 1) }
          (e.asks q = false → exec (.exportRows sl a) s = .next (retired s e q)) ∧
          (e.asks q = true → exec (.exportRows sl a) s = .next (entered s e q { progress := o.rows, pos := 0, waits := [] }))))) ∧
  (∀ (s : State) (seq : Nat) (c : Clause), s.powered = true → s.coreOut 2 = false → s.clause seq = some c → c.cls = .update →
    c.unitsLeft = [] → s.retireWait c.job true c.base (32 * c.count) = false → s.covers c.energy = true →
    let up := (List.range 12).filter s.sliceUp
    up ≠ [] → exec (.commitReplay seq) s = .next (settle s (up.foldl (fun s k => (s.fillRecipes c.job k).enqueue ⟨.update, k⟩ c)
      (((s.chargeJob c.job (s.chargeOf c.energy)).bump32 (K.commitReplays c.job) 1).modClause seq fun x => { x with
        unitsLeft := up, replays := x.replays + 1 }))))

/-! ### The fabric engine: REMOTE and agreement -/

/-- REMOTE_GET, PUT, ADD, ATOMIC and SIGNAL issue their pieces while fewer than 4,096 requests are outstanding, a resumed one from where it
stood; each completes when every piece is issued and no request is outstanding, and is in execution until then (R98, R326 to R328). A
SIGNAL to a counter of this module waits for the earlier writes, adds and atomics of its queue toward the node, and then adds its number to
the counter, modulo 2^64, and wakes the job's core; where that core is awake no other entry changes (R327, R328). -/
def Obligations.RemoteCommandsRun : Prop :=
  (∀ (s : State) (n : Nat) (c : QCmd) (cl : Clause), s.mayIssue ⟨.fabric, n⟩ c cl → cl.unit = n →
    let q : QueueId := ⟨.fabric, n⟩
    let u := if c.again then (s.started q c cl).resend q else s.started q c cl
    (∀ x ∈ (s.started q c cl).remoteChecks c.word, x.1 = false) → ∀ v, u.landAll q cl = (none, v) →
    let o := v.remoteRun q c cl (remoteFuel c.word) (if c.again then c.pos else 0)
    let held : State × Bool := match o.at' with | some a => o.state.countWait cl.job a false | none => (o.state, false)
    o.stop = none →
    ∀ i k, (k, i) ∈ [(0, Instr.remoteGet n), (1, .remotePut n), (2, .remoteAdd n), (3, .remoteAtomic n), (4, .remoteSignal n)] →
      isFab 0x74 k c.word = true →
      (remoteBytes c.word ≤ o.pos → o.state.reqsOf q = [] → exec i s = .next (retired s o.state q)) ∧
      (o.pos < remoteBytes c.word ∨ o.state.reqsOf q ≠ [] → exec i s = .next (entered s held.1 q
        { progress := o.state.remoteDone q c.word o.pos, pos := o.pos, waits := [], waited := held.2 }))) ∧
  (∀ (s : State) (q : QueueId) (c : QCmd) (cl : Clause) (off : Nat), isFab 0x74 4 c.word = true →
    let node := fabDesc c.word / 2 ^ 48
    ((∃ r ∈ s.fab.reqs, r.owner = q ∧ r.node = node ∧ (r.what = 0x03 ∨ r.what = 0x05 ∨ r.what = 0x06)) →
      s.remoteStep q c cl off = .hold s none) ∧
    ((∀ r ∈ s.fab.reqs, ¬ (r.owner = q ∧ r.node = node ∧ (r.what = 0x03 ∨ r.what = 0x05 ∨ r.what = 0x06))) → s.isMe node = true →
      s.remoteStep q c cl off = .ok ((s.signal cl.job (bits (fabDesc c.word) 0 4) (fabArg c.word)).began cl.seq))) ∧
  (∀ (s : State) (j c n : Nat), j < 64 → c < 16 →
    (s.signal j c n).reg (K.arrivalCounter j c) = (s.reg (K.arrivalCounter j c) + n) % 2 ^ 64 ∧
    (s.powerOf (.core (j % 2)) = 0 → ∀ i, i ≠ K.arrivalCounter j c → (s.signal j c n).reg i = s.reg i))

/-- An AGREE reaches issue once its step's earlier clauses have ended: first the flush of the step's epoch is inserted (R154, R234); when
that is over the AGREE issues and the module's contribution departs, and the step is AGREEING (R234, R247, R252). A step commits exactly
where every member of its group has contributed, no contribution has a flag set, and every one carries the root's scale and clean count
(R248, R249, R253). A result that reaches a step which is not AGREEING changes nothing: a step takes one result, once (R236, R248). -/
def Obligations.StepsAgree : Prop :=
  ((∀ (s : State) (n : Nat) (cl : Clause) (t : Step), s.agreeAhead n = some (cl, t) → t.state = .opened →
    exec (.insertedFlush n) s = .next (settle s ((s.modStep cl.job t.number fun t => { t with
      state := .flushing, agreeSeq := some cl.seq }).insertedSends cl.job (t.epoch % 2 ^ 32) cl.seq))) ∧
  (∀ (s : State) (n : Nat) (c : QCmd) (cl : Clause) (t : Step) (l : List Nat), s.mayIssue ⟨.fabric, n⟩ c cl → cl.unit = n →
    isFab 0x71 0 c.word = true → reservedSet c.word [(0, 8), (32, 8), (48, 16), (192, 64)] = false →
    let u := s.started ⟨.fabric, n⟩ c cl
    u.stepOf cl.job (fabArg c.word) = some t → u.earlierOpen cl (fabArg c.word) = false →
    u.groupOf cl.job (fabGroup c.word) = .ok l → (t.state = .flushing ∧ u.flushOver t = true ∨ t.state = .abandoned) →
    let after := settle s (((u.contribute n c cl t l).modQueue ⟨.fabric, n⟩ fun Q => { Q with
      infl := some { progress := 0, pos := 2 * rootOf l, waits := [] } }).agreeGoOn n)
    exec (.agree n) s = .next after ∧
      (s.agreeAhead n = some (cl, t) → t.state = .flushing → s.flushOver t = true → exec (.insertedFlushDone n) s = .next after))) ∧
  (∀ (s : State) (j g n : Nat) (l : List Nat),
    (nb (s.decision j g n l) 16 1 = 0 ↔ (∀ m ∈ l, ∃ x ∈ s.contribsOf j g n, x.node = m) ∧
      ∀ x ∈ s.contribsOf j g n, x.flags % 8 = 0 ∧ x.scale = s.reg (K.lossScale j) ∧ x.clean = s.reg (K.cleanSteps j)) ∧
    nb (s.decision j g n l) 0 8 = n % 2 ^ 64) ∧
  (∀ (s : State) (j : Nat) (body : List Byte), (∀ t, s.stepOf j (nb body 0 8) = some t → t.state ≠ .agreeing) →
    s.applyResult j body = s)

/-- The frames of agreement that a module receives for a resident job: a contribution joins the root's, or draws the stored result; a
result is relayed down the tree and taken; a query is answered with the result held, or with none; a release and a release floor are
recorded (R248, R251, R330, R339). The timers of agreement: the root decides without the members that are missing; a module without a
result asks the other members in ascending order; a COMMIT's wait for a release floor ends by dropping the versions that it waited for
(R248, R251, R340). STEP_RELEASE, once its step has its result and no COMMIT or EXPORT of the step is left, departs to the group's root
and closes the step (R234, R339). -/
def Obligations.AgreementGoesOnAndCloses : Prop :=
  (∀ (s u : State) (f g : Frame) (j : Nat),
    (s.inbound 0x0E f = (some (j, g), u) → ∀ l, u.groupOf j g.arg = .ok l → u.isMe (rootOf l) = true → g.acting ∈ l →
      exec (.agreeContrib f) s = .next (settle s (u.takeContrib {
        job := j, group := g.arg, step := nb g.payload 0 8, node := g.acting, flags := nb g.payload 8 1, scale := nb g.payload 12 4,
        clean := nb g.payload 16 4 }))) ∧
    (s.inbound 0x0F f = (some (j, g), u) →
      (bit g.flags 1 = false → ∀ l, u.groupOf j g.arg = .ok l →
        exec (.agreeResult f) s = .next (settle s ((u.relay j 0x0F g.arg l g.payload).applyResult j g.payload))) ∧
      (bit g.flags 1 = true → bit g.flags 2 = false → g.payload ≠ [] → ∀ r, u.reqOf g.tag = some r → r.what = 0x17 →
        exec (.agreeResult f) s = .next (settle s ((u.dropReq g.tag).applyResult j g.payload)))) ∧
    (s.inbound 0x17 f = (some (j, g), u) →
      let held := match u.recordOf j (nb g.payload 0 8), u.resultAt j g.arg (nb g.payload 0 8) with
        | some r, _ => r
        | none, some r => r
        | none, none => []
      exec (.agreeQuery f) s = .next (settle s (u.reply g 0x0F g.arg 0 held))) ∧
    (s.inbound 0x10 f = (some (j, g), u) → ∀ l, u.groupOf j g.arg = .ok l →
      exec (.release f) s = .next (settle s (u.takeRelease j g.arg g.acting (nb g.payload 0 8)))) ∧
    (s.inbound 0x11 f = (some (j, g), u) → ∀ l, u.groupOf j g.arg = .ok l →
      let n := nb g.payload 0 8
      exec (.releaseFloor f) s = .next (settle s (((u.relay j 0x11 g.arg l g.payload).modFab fun F => { F with
        reqs := F.reqs.filter fun r => !(r.what == 0x10 && r.job == j && r.arg == g.arg && decide (nb r.data 0 8 ≤ n)) }).setFloor j g.arg n)))) ∧
  ((∀ (s : State) (j g n : Nat) (l : List Nat), s.groupOf j g = .ok l → s.isMe (rootOf l) = true → s.contribsOf j g n ≠ [] →
    exec (.agreeTimeout j g n) s = .next (settle s (s.decide' j g n l))) ∧
  (∀ (s : State) (j n q : Nat) (c : QCmd) (cl : Clause) (f : InFlight) (l : List Nat), s.agreeQueue j n = some q →
    s.fabRun q = some (c, cl, f) → s.groupOf j (fabGroup c.word) = .ok l → f.pos % 2 = 0 →
    let asking := s.modQueue ⟨.fabric, q⟩ fun Q => { Q with infl := Q.infl.map fun f => { f with pos := f.pos + 1 } }
    exec (.agreeResultQueryTimer j n) s = .next (settle s (((l.filter fun m => !asking.isMe m).foldl (fun s m =>
      s.request 0x17 j ⟨.fabric, q⟩ 0 m (2 ^ 48 * m) (fabGroup c.word) 0 (padTo 16 (leBytes 8 n))) asking).loseAgree j n))) ∧
  (∀ (s : State) (sl : Nat) (c : QCmd) (cl : Clause), s.headOf ⟨.update, sl⟩ = some (c, cl) → isOp 0x60 c.word = true →
    exec (.releaseTimeout sl) s = .next (settle s ((s.fab.shards.filter fun x => x.job == cl.job && x.pset == cb c.word 4 1 &&
      x.waiting).foldl (fun s x => (s.bump (K.retainDrops x.job) 1).modShard x fun y => { y with prev := none, waiting := false }) s)))) ∧
  (∀ (s : State) (n : Nat) (c : QCmd) (cl : Clause) (t : Step) (l : List Nat), s.mayIssue ⟨.fabric, n⟩ c cl → cl.unit = n →
    isFab 0x73 0 c.word = true → reservedSet c.word [(0, 8), (32, 8), (48, 16), (192, 64)] = false →
    let u := s.started ⟨.fabric, n⟩ c cl
    let root := rootOf l
    u.stepOf cl.job (fabArg c.word) = some t → u.groupOf cl.job (fabGroup c.word) = .ok l → beforeResult t = false →
    t.stuck = false → (∀ e ∈ u.clauses, ¬ (e.job = cl.job ∧ e.step = some (fabArg c.word) ∧ e.cls = .update ∧ e.keeps = true)) →
    exec (.stepRelease n) s = .next (settle s (((if (u.began cl.seq).isMe root then u.began cl.seq
      else (u.began cl.seq).request 0x10 cl.job ⟨.fabric, n⟩ 0 root (2 ^ 48 * root) (fabGroup c.word) 0
        (padTo 16 (leBytes 8 (fabArg c.word)))).modQueue ⟨.fabric, n⟩ fun Q => { Q with
          infl := some { progress := 0, pos := 0, waits := [] } }).releaseGoOn n)))

/-! ### The fabric engine: collectives, gathers, peers and ports -/

/-- A collective, the nth of its group, declares itself to every other member and goes on as declarations, contributions and results come;
a resumed one goes on from where it stood (R98, R331 to R334). COLL_DATA is acknowledged, and joins its collective's entry under its
sender: a declaration, a contribution or a result (R334). A member that has not declared itself within coll_timeout halts the command with
the lowest such node (R335). GATHER and REFETCH ask the owners of their shards for them, and serve those that this module owns; each
completes when every shard has been written (R336, R338, R341). -/
def Obligations.CollectivesAndShardGathersRun : Prop :=
  (∀ (s : State) (n : Nat) (c : QCmd) (cl : Clause), s.mayIssue ⟨.fabric, n⟩ c cl → cl.unit = n →
    (∀ x ∈ collChecks c.word, x.1 = false) →
    let u := s.started ⟨.fabric, n⟩ c cl
    let g := fabGroup c.word
    ∀ l T, u.groupOf cl.job g = .ok l → u.raggedOf cl.job c.word l.length = .ok T → T.dst % alignOf (fabFmt c.word) = 0 →
    let seq := cellGet 0 g (u.job cl.job).collSeq
    let v := u.modJob cl.job fun x => { x with collSeq := cellPut 0 g (seq + 1) x.collSeq }
    let t := (l.filter fun m => !v.isMe m).foldl (fun s m => s.sendColl n cl.job g seq m 0 (declBytes (declOf c.word T))) v
    ∀ i k, (k, i) ∈ [(0, Instr.allReduce n), (1, .reduceScatter n), (2, .allGather n), (3, .broadcast n), (4, .reduce n), (5, .allToAll n)] →
      isFab 0x70 k c.word = true →
      (c.again = false → exec i s = .next (settle s ((t.modQueue ⟨.fabric, n⟩ fun Q => { Q with
        infl := some { progress := 0, pos := 4 * seq, waits := [] } }).collGoOn n))) ∧
      (c.again = true → exec i s = .next (settle s ((u.modQueue ⟨.fabric, n⟩ fun Q => { Q with
        infl := some { progress := 0, pos := c.pos, waits := [] } }).collGoOn n)))) ∧
  ((∀ (s u : State) (f g : Frame) (j : Nat), s.inbound 0x0D f = (some (j, g), u) →
    let grp := g.addr % 65536
    let v := u.reply g 0x04 0 0 []
    let mine (q : Nat) : Bool := match v.fabRun q with
      | some (c, cl, x) => cl.job == j && cb c.word 0 1 == 0x70 && fabGroup c.word == grp && x.pos / 4 == g.arg
      | none => false
    let w := v.modColl j grp g.arg g.acting fun y => match bits g.addr 16 2 with
      | 0 => { y with decl := some (declRead g.payload) }
      | 1 => { y with part := some g.payload }
      | _ => { y with final := some g.payload }
    (∀ q, (List.range 16).find? mine = some q → exec (.collData f) s = .next (settle s (w.collGoOn q))) ∧
    ((List.range 16).find? mine = none → cellGet 0 grp (v.job j).collSeq ≤ g.arg → exec (.collData f) s = .next (settle s w)) ∧
    ((List.range 16).find? mine = none → g.arg < cellGet 0 grp (v.job j).collSeq → exec (.collData f) s = .next (settle s v))) ∧
  (∀ (s : State) (q : Nat) (c : QCmd) (cl : Clause) (f : InFlight) (l : List Nat) (n : Nat), s.fabRun q = some (c, cl, f) →
    isOp 0x70 c.word = true → f.pos % 4 = 0 → s.groupOf cl.job (fabGroup c.word) = .ok l →
    (l.find? fun n => !s.isMe n && ((s.collOf cl.job (fabGroup c.word) (f.pos / 4) n).bind (·.decl)).isNone) = some n →
    exec (.collTimeout q) s = .next (settle s ((s.collDrop cl.job (fabGroup c.word) (f.pos / 4)).haltCmd ⟨.fabric, q⟩ c cl 0x41 n 0
      f.pos false)))) ∧
  (∀ (s : State) (n : Nat) (c : QCmd) (cl : Clause), s.mayIssue ⟨.fabric, n⟩ c cl → cl.unit = n →
    reservedSet c.word [(0, 8), (32, 8), (48, 16), (64, 64), (128, 64), (192, 64)] = false →
    let q : QueueId := ⟨.fabric, n⟩
    let u := s.started q c cl
    ∀ l G, u.groupOf cl.job (fabGroup c.word) = .ok l → u.gatherOf cl.job (fabDesc c.word) (fabArg c.word) = .ok G →
      fabLocal c.word % alignOf G.fmt = 0 →
    let start := u.gatherLand q c cl G { state := u, mask := if c.again then c.pos else 0, stop := none, at' := none }
    let o := (List.range G.shards.length).foldl (fun (o : GatherOut) i => o.state.gatherOne q c cl G o i) start
    let held : State × Bool := match o.at' with | some a => o.state.countWait cl.job a false | none => (o.state, false)
    o.stop = none → ∀ i k, (k, i) ∈ [(0, Instr.gather n), (1, .refetch n)] → isFab 0x72 k c.word = true →
      (o.mask = 2 ^ G.shards.length - 1 → o.state.reqsOf q = [] → exec i s = .next (retired s o.state q)) ∧
      (o.mask ≠ 2 ^ G.shards.length - 1 ∨ o.state.reqsOf q ≠ [] → exec i s = .next (entered s held.1 q
        { progress := gatherDone G o.mask, pos := o.mask, waits := [], waited := held.2 })))

/-- Integer reductions of a collective are exact sums that wrap, or the greatest or least of the members' values (R61, R334). -/
def Obligations.IntegerReductionsAreExact : Prop :=
  ∀ (f seed i : Nat) (cs : List Nat), f = fmI32 ∨ f = fmI64 → cs ≠ [] →
    (∃ v, reduceElem f 0 seed i cs = (v, false, false) ∧ v < 2 ^ fmtBits f ∧ v % 2 ^ fmtBits f = cs.sum % 2 ^ fmtBits f) ∧
    ((∀ c ∈ cs, c < 2 ^ fmtBits f) → (∃ v ∈ cs, reduceElem f 1 seed i cs = (v, false, false) ∧
        ∀ c ∈ cs, toSigned (fmtBits f) c ≤ toSigned (fmtBits f) v) ∧
      (∃ v ∈ cs, reduceElem f 2 seed i cs = (v, false, false) ∧ ∀ c ∈ cs, toSigned (fmtBits f) v ≤ toSigned (fmtBits f) c))

/-- A data frame for another node, or on a port that is not UP, is none of this module's: it changes nothing (R316, R320). A request whose
key is no resident job's changes no memory and no arrival counter: it is counted and refused (R325). -/
def Obligations.StrayRequestsChangeNothing : Prop :=
  (∀ (s : State) (f : Frame) (a : MemAccess), s.isMe f.dst = false ∨ s.portUp f.port = false →
    ∀ c ∈ [Instr.read f, .readResp f, .write ⟨f, a⟩, .writeAck f, .add ⟨f, a⟩, .atomic ⟨f, a⟩, .atomicResp f, .signal f, .rowReq f, .rowResp f,
        .candidate f, .collData f, .agreeContrib f, .agreeResult f, .release f, .releaseFloor f, .gatherReq f, .gatherResp f,
        .aliasInstall f, .aliasAck f, .unreachable f, .agreeQuery f],
      exec c s = .next (settle s s)) ∧
  (∀ (s u : State) (f g : Frame) (op : Nat), s.arrive op f = (some g, u) → g.key ≠ 0 → u.jobByKey g.key = none →
    (s.inboundAny op f).1 = none ∧ (s.inboundAny op f).2.mem.bytes = u.mem.bytes ∧
      ∀ j < 64, ∀ c < 16, (s.inboundAny op f).2.reg (K.arrivalCounter j c) = u.reg (K.arrivalCounter j c))

/-- Requests of a resident job that reach this module: a READ that may be served waits for memory, a WRITE is made, an ADD and an ATOMIC
are made in tier 0, a SIGNAL counts, a ROW_REQ and a GATHER_REQ are taken, a CANDIDATE joins its shard's queue (R121, R124, R317, R323 to
R327, R338). A write, an add or an atomic at a page that moves waits (R297); one whose access fails a fourth time is refused
UNCORRECTABLE (R304). -/
def Obligations.PeerRequestsAreServed : Prop :=
  (∀ (s u : State) (f g : Frame) (a : MemAccess) (j op n : Nat) (c : Instr), (op, c, n) ∈ [(0x03, Instr.write ⟨f, a⟩, g.arg), (0x05, .add ⟨f, a⟩, 64),
      (0x06, .atomic ⟨f, a⟩, atomicBytes (g.arg % 16))] → s.inboundAny op f = (some (some j, g), u) → u.isMe (g.addr / 2 ^ 48) = true →
    (op = 0x05 → isMsa (g.arg % 16) = true) →
    (op = 0x06 → (g.arg % 16 = 8 ∨ g.arg % 16 = 9 ∨ (g.arg % 16 = 0 ∧ bits g.arg 4 4 ≠ 1 ∧ bits g.arg 4 4 ≠ 2)) ∧
      bits g.arg 4 4 ≤ 4 ∧
      g.addr % alignOf (g.arg % 16) = 0) →
    (u.translate .fabric j g.addr n).writeWaits j g.addr = false → a.retries > 3 →
    exec c s = .next (settle s (((u.translate .fabric j g.addr n).met j g.addr n true a).refuse op g 0x30 g.addr))) ∧
  ∀ (s u : State) (f g : Frame) (a : MemAccess) (j : Nat), a.retries ≤ 3 →
    let through (n : Nat) : State := (u.translate .fabric j g.addr n).met j g.addr n true a
    let free (n : Nat) : Prop := (u.translate .fabric j g.addr n).writeWaits j g.addr = false
    (s.inboundAny 0x01 f = (some (some j, g), u) → u.isMe (g.addr / 2 ^ 48) = true → (∀ r d, u.readVa j g.addr g.arg ≠ .fail r d) →
      exec (.read f) s = .next (settle s (u.pend 0x01 g []))) ∧
    (s.inboundAny 0x03 f = (some (some j, g), u) → u.isMe (g.addr / 2 ^ 48) = true → free g.arg →
      let v := through g.arg
      ∀ t, v.writeFor .unit j g.addr (g.payload.take g.arg) v.freshPend = .ok t → t.fab.reqs.length = v.fab.reqs.length →
      exec (.write ⟨f, a⟩) s = .next (settle s (t.reply g 0x04 g.arg 0 []))) ∧
    (s.inboundAny 0x03 f = (some (some j, g), u) → u.isMe (g.addr / 2 ^ 48) = true →
      let v := u.translate .fabric j g.addr g.arg
      v.writeWaits j g.addr = true → v.writeFor .unit j g.addr (g.payload.take g.arg) v.freshPend = .wait →
      exec (.write ⟨f, a⟩) s = .next (settle s (v.pendWait j g.addr 0x03 g 0 none))) ∧
    (s.inboundAny 0x05 f = (some (some j, g), u) → u.isMe (g.addr / 2 ^ 48) = true → isMsa (g.arg % 16) = true → free 64 → ∀ t nf,
      (through 64).addSectors j (g.arg % 16) (g.addr / 64 * 64) 33 0 g.payload false = .ok t nf →
      exec (.add ⟨f, a⟩) s = .next (settle s (t.reply g 0x04 (if nf then 1 else 0) 0 []))) ∧
    (s.inboundAny 0x06 f = (some (some j, g), u) → u.isMe (g.addr / 2 ^ 48) = true →
      let ty := g.arg % 16
      let op := bits g.arg 4 4
      (ty = 8 ∨ ty = 9 ∨ (ty = 0 ∧ op ≠ 1 ∧ op ≠ 2)) → op ≤ 4 → g.addr % alignOf ty = 0 → free (atomicBytes ty) → ∀ t old nf,
      (through (atomicBytes ty)).atomicVa j g.addr ty op (nb g.payload 0 8) (nb g.payload 8 8) = .ok (t, old, nf) →
      exec (.atomic ⟨f, a⟩) s = .next (settle s (t.reply g 0x07 g.arg 0 (padTo 16 (leBytes (atomicBytes ty) old))))) ∧
    (s.inboundAny 0x08 f = (some (some j, g), u) → g.arg ≤ 15 →
      exec (.signal f) s = .next (settle s ((u.signal j g.arg (nb g.payload 0 8)).reply g 0x04 g.arg 0 []))) ∧
    (s.inboundAny 0x09 f = (some (some j, g), u) → exec (.rowReq f) s = .next (settle s (u.takeRow j g))) ∧
    (s.inboundAny 0x0C f = (some (some j, g), u) → ∀ t e b v, u.tableOf j (g.arg % 256) = .ok t →
      u.shardOf j t (nb g.payload 0 8) = .ok (some e) → u.owns t e = true → u.candAppend j e (g.payload.take 16) = .ok (b, v) →
      exec (.candidate f) s = .next (settle s v)) ∧
    (s.inboundAny 0x12 f = (some (some j, g), u) → ∀ t, u.knowShard (u.askOf j g) = .ok t →
      exec (.gatherReq f) s = .next (settle s (t.pend 0x12 g [])))

/-- Responses reach the units that asked: the bytes of a READ, the acknowledgement of a write, an atomic's old value, a row, a shard; each
ends its request, and what waited for it goes on (R121, R323, R326, R336). A response with a status fails its request (R325). -/
def Obligations.ResponsesReachTheirUnits : Prop :=
  ∀ (s u : State) (f g : Frame) (r : Req),
    (∀ op c, (op, c) ∈ [(0x02, Instr.readResp f), (0x04, .writeAck f), (0x07, .atomicResp f), (0x0A, .rowResp f), (0x13, .gatherResp f)] →
      s.response op f = (some (r, g), u) → bit g.flags 2 = true →
      exec c s = .next (settle s (u.failReq r (refusalOf r g).1 (refusalOf r g).2))) ∧
    (bit g.flags 2 = false →
      (s.response 0x02 f = (some (r, g), u) → r.owner.cls = .move → ∀ c cl x, u.moving r.owner = some (c, cl, x) →
        (∃ y ∈ x.waits, y.id = r.xid) → exec (.readResp f) s = .next (settle s (moveSectorArrival r.owner.unit r.xid MemAccess.clean
          ((u.dropReq r.tag).putFarData r.node (r.addr % 2 ^ 48) (padTo r.arg g.payload))))) ∧
      (s.response 0x04 f = (some (r, g), u) →
        (r.owner.cls = .move → ∀ c cl x, (u.dropReq r.tag).moving r.owner = some (c, cl, x) →
          (cb c.word 0 1 ≠ 0x45 → exec (.writeAck f) s = .next (settle s (memoryWriteAck r.owner r.xid MemAccess.clean (u.dropReq r.tag)))) ∧
          (cb c.word 0 1 = 0x45 → r.xid ≠ noXfer →
            exec (.writeAck f) s = .next (settle s (((u.dropReq r.tag).addFlags cl.seq (bit g.arg 0)).moveGoOn r.owner.unit)))) ∧
        (r.owner.cls = .embed → exec (.writeAck f) s = .next (settle s ((u.dropReq r.tag).ackPartial r (bit g.arg 0)))) ∧
        (r.owner.cls = .update → exec (.writeAck f) s = .next (settle s (((u.dropReq r.tag).sliceGoOn r.owner.unit).gathersGoOn)))) ∧
      (s.response 0x07 f = (some (r, g), u) → ∀ c cl x, u.fabRun r.owner.unit = some (c, cl, x) → isOp 0x74 c.word = true →
        let ty := r.arg % 16
        let old := nb g.payload 0 (atomicBytes ty)
        let new := atomicNew ty (bits r.arg 4 4) old (nb r.data 0 8 % 2 ^ fmtBits ty) (nb r.data 8 8 % 2 ^ fmtBits ty)
        ∀ t, ((u.addFlags cl.seq new.2).began cl.seq).landReq r.owner cl r (leBytes (atomicBytes ty) old) = (none, t) →
        exec (.atomicResp f) s = .next (settle s (t.fabGoOn r.owner.unit))) ∧
      (s.response 0x0A f = (some (r, g), u) → ∀ c cl y x, (u.dropReq r.tag).embedding r.owner.unit = some (c, cl, y) →
        ((u.dropReq r.tag).ee r.owner.unit).fetches.find? (·.id == r.xid) = some x →
        exec (.rowResp f) s = .next (settle s ((u.dropReq r.tag).poolArrival r.owner.unit c cl { x with addr := g.addr } (nb g.payload 0 1)
          (nb g.payload 1 1) (padTo (rowStride (x.table.fmt (nb g.payload 0 1)) x.table.dim) (g.payload.drop 16))))) ∧
      (s.response 0x13 f = (some (r, g), u) → exec (.gatherResp f) s =
        .next (settle s ((u.modReq r.tag fun x => { x with what := 0x13, data := g.payload }).fabGoOn r.owner.unit))))

/-- A request that goes unanswered makes its node unreachable, is held, and is sent again where it only reads; a plane's report makes the
request depart by another port; the retry window's end gives the held ones up; a plane's report is forgotten after 1 s (R313, R328, R344).
A spare that acts as a node takes over its number: a write of take_over installs its own entry and tells the other members; an ALIAS
installs and answers; the last answer completes the switch; until then it is failed and told again at retry_window (R345, R346). -/
def Obligations.UnansweredRequestsAndTakeovers : Prop :=
  ((∀ (s : State) (tag : Nat) (r : Req), s.reqOf tag = some r → timedOp r.what = true → r.sent = true →
    s.realNode (r.node % 2 ^ 16) = r.phys →
    let v := (s.modFab fun F => { F with dead := if F.dead.contains r.phys then F.dead else F.dead ++ [r.phys] }).modReq tag fun x => { x with
      held := true }
    let w := if readOp r.what then v.sendReqNow r else v
    exec (.requestTimeout tag) s = .next (settle s w.noWindow)) ∧
  (∀ (s u : State) (f g : Frame) (r : Req), s.arrive 0x16 f = (some g, u) → u.reqOf g.arg = some r → r.sent = true →
    let v := (u.modFab fun F => { F with
      reports := if F.reports.contains (f.port, r.phys) then F.reports else F.reports ++ [(f.port, r.phys)] }).modReq r.tag
        fun x => { x with sent := false }
    exec (.unreachable f) s = .next (settle s ((v.sendReqFrame { r with sent := false }).holdCut.noWindow))) ∧
  (∀ (s : State) (node : Nat), exec (.retryWindowExpiry node) s = .next (settle s ((s.fab.reqs.filter fun r => r.held &&
    r.node % 2 ^ 16 == node).foldl (fun s r => match s.reqOf r.tag with | some x => s.giveUp x | none => s)
    (s.modFab fun F => { F with dead := F.dead.filter (· != s.realNode node) })))) ∧
  (∀ (s : State) (p node : Nat), (p, node) ∈ s.fab.reports →
    exec (.planeReportExpiry p node) s = .next (settle s ((s.modFab fun F => { F with reports := F.reports.filter (· != (p, node)) }).flowOn)))) ∧
  ((∀ (s v : State) (f : Frame), s.isMe f.dst = true → s.portUp f.port = true → frameReserved f = false →
    (∀ a ∈ (s.received f).aliases, a.1 ≠ f.src) → (s.received f).installAlias (f.arg % 65536) f.src false = some v →
    let w := v.sendPhys 0x15 f.src 0 f.tag 3 f.addr f.arg 0 []
    exec (.aliasInstall f) s = .next (settle s (w.sendHeld (f.arg % 65536)).flowOn)) ∧
  (∀ (s u : State) (f g : Frame) (r : Req), s.response 0x15 f = (some (r, g), u) →
    let v := (u.dropReq r.tag).modFab fun F => { F with takeover := F.takeover.filter (· != r.node) }
    ((∀ n ∈ u.fab.takeover, n = r.node) → v.fab.takeover = [] ∧ exec (.aliasAck f) s = .next (settle s (v.setReg K.takeoverStatus 2))) ∧
    ((∃ n ∈ u.fab.takeover, n ≠ r.node) → exec (.aliasAck f) s = .next (settle s v))) ∧
  (∀ (s : State), s.fab.takeover ≠ [] → exec .takeoverRetry s = .next (settle s
    ((s.fab.reqs.filter fun r => r.what == 0x14).foldl (fun s r => s.sendReqFrame r) (s.setReg K.takeoverStatus 3)))))

/-! ### The scheduler and core 2 -/

/-- A submission entry that breaks a rule completes NOT_STARTED and is consumed; a clause that needs no credits is admitted at once; at
ADMIT_WAITING the first waiting clause is, once its credits cover it; a sound STEP entry opens its step, an unsound one does not (R86,
R231, R365, R372, R376). CODE_SWITCH makes its new region ACTIVE and its old one RETIRING, and the last of its clause completes it; one
that breaks a rule of R94 ends its clause (R68, R94). A RETIRING region that no admitted clause fetches from becomes IDLE, and its lines
leave the command caches (R93, R96). -/
def Obligations.SchedulerTakesItsWork : Prop :=
  ((∀ (s : State) (j r d : Nat) (e : SubEntry), j < 64 → s.admits j = true → s.reg K.sessionState = ssOpen → s.homeless j = false →
    s.nextEntry j = some (.ok e) → (s.job j).terminated = false → e.kind ≠ 2 → s.entryRefusal j e = some (r, d) → s.slotFree j = true →
    exec (.submissionEntry j) s = .next (settle s ((s.refuseEntry j e (plainRefusal r d)).wake (.core (j % 2))))) ∧
  (∀ (s t : State) (j : Nat) (e : SubEntry) (d : Draft) (c : Clause), j < 64 → s.attempt j = .ready t e d c → d.energy = 0 →
    exec (.submissionEntry j) s = .next (settle s ((t.wake (.core (j % 2))).admitted j e d c))) ∧
  (∀ (s t : State) (w : Waiting) (e : SubEntry) (d : Draft) (c : Clause), s.coreOut 0 = false →
    s.clauses.filter isHomeless = [] → s.waitOrder = [w] → s.attempt w.job = .ready t e d c → t.covers d.energy = true →
    exec .admitWaiting s = .next (settle s
      (((t.waitOver w).bump (K.creditWaitTicks w.job) ((t.waitOver w).tick - w.since)).admitted w.job e d c))) ∧
  (∀ (s : State) (j : Nat) (e : SubEntry) (b : List Byte), j < 64 → s.admits j = true → s.reg K.sessionState = ssOpen →
    s.nextEntry j = some (.ok e) → e.kind = 2 → (s.job j).terminated = false → (s.steps.filter (·.job == j)).length < 2 →
    e.reserved = false →
    let u := s.wake (.core (j % 2))
    u.readVa j e.desc 64 = .ok b →
    (u.stepOk j b = true → exec (.stepEntry j) s = .next (settle s (((u.openStep j e.idx b).didRead j e.desc 64).consume j))) ∧
    (u.stepOk j b = false → exec (.stepEntry j) s = .next (settle s (((u.refuseDesc j e.idx b).didRead j e.desc 64).consume j))))) ∧
  ((∀ (s : State) (j : Nat) (r : SchedRun) (c : QCmd) (rest : List QCmd), s.coreOut (j % 2) = false →
    s.sched.find? (fun r => r.clause.job == j) = some r → r.left = c :: rest → c.bad = none → cb c.word 0 1 = 0x10 →
    reservedSet c.word [(0, 8), (32, 8), (40, 8), (48, 1)] = false →
    let w := c.word
    (∀ n, s.switchBad j (cb w 4 1) (cb w 5 1) (bit w 48) = some n →
      exec (.codeSwitch j) s = .next (settle s (s.schedEnds r c 0x13 (1 + 256 * n)))) ∧
    (s.switchBad j (cb w 4 1) (cb w 5 1) (bit w 48) = none →
      let cl := { r.clause with wrote := true, next := r.next + 1 }
      let t := s.switchCode j (cb w 4 1) (cb w 5 1) (bit w 48)
      let u : State := { t with clauses := t.clauses.map fun (x : Clause) => if x.seq == cl.seq then cl else x }
      (rest = [] → exec (.codeSwitch j) s = .next (settle s
        (({ u with sched := u.sched.filter fun x => x.clause.seq != cl.seq }).finishClause cl ccComplete (completeRecord cl 0 0x10 0)))) ∧
      (rest ≠ [] → exec (.codeSwitch j) s = .next (settle s
        { u with sched := u.sched.map fun x =>
          if x.clause.seq == cl.seq then { clause := cl, next := r.next + 1, left := rest } else x })))) ∧
  (∀ (s : State) (j r : Nat), j < 64 → r < 16 → s.coreOut (j % 2) = false → s.codeState j r = 2 →
    (∀ c ∈ s.clauses, ¬ (c.job = j ∧ c.region = r ∧ c.cls ≠ .sched)) →
    exec (.codeRegionRetired j r) s = .next (settle s ((s.dropRegion j r).setCode j r 0))))

/-- Core 2 takes the first entry of the handler queue and writes its journal record; of the halt that the entry names it holds a quota
halt while quota_wait lasts, leaves one of DEBUG_BREAK, and ends any other that no grant resumes; a hold that has lasted quota_wait ends
(R98, R302, R420, R421). -/
def Obligations.HaltsAreDecided : Prop :=
  (∀ (s : State) (e : Handler) (rest : List Handler), s.powered = true → s.coreOut 2 = false → s.svc.queue = e :: rest →
    exec .handlerEntryDecide s = .next (settle s
      ((({ s with svc := { s.svc with queue := rest } } : State).wake (.core 2)).decideEntry e).decideRest)) ∧
  (∀ (s : State) (q : QueueId) (Q : Queue) (h : Halt), s.queue q = some Q → Q.halt = some h → h.decided = false →
    (h.reason = 0xF0 → s.decideQueue q h.job h.reason = (0x00, s.modQueue q fun Q => { Q with halt := some { h with decided := true } })) ∧
    (h.reason = 0x22 → s.reg (K.quotaWait h.job) ≠ 0 → s.decideQueue q h.job h.reason = (0x00, s.holdHalt q h)) ∧
    (h.reason = 0x22 → s.reg (K.quotaWait h.job) = 0 → s.decideQueue q h.job h.reason = (0x02, s.endHalt q h)) ∧
    (h.reason ≠ 0xF0 → h.reason ≠ 0x22 → h.reason ≠ 0x23 → s.decideQueue q h.job h.reason = (0x02, s.endHalt q h))) ∧
  (∀ (s : State) (q : QueueId) (j : Nat) (h : HeldJob), s.powered = true → s.coreOut 2 = false → s.heldOf q j = some h →
    exec (.quotaWaitExpiry q j) s = .next (settle s (s.endHalt q h.halt)))

/-! ### Migration, scrub and the stacks' temperature -/

/-- The windows of row and page migration, the sweeps, and the ends of moves do their work (R170, R173 to R177, R294 to R297, R309). A row
that its table's age lets sink moves to the next enabled level below; a row's old slot is free once no fetch that names it is out; the
page that a request waits for moves into tier 0 and draws its energy; at the end of its copy the page's entry names the new place, and
then the old place is free; a page that is not accessed ages by one a sweep. -/
def Obligations.RowsAndPagesMigrate : Prop :=
  (∀ (s : State) (j : Nat) (t : Table) (e : ShardE), s.powered = true → s.reg K.rowMigrateBudget ≠ 0 →
    let u := (s.modMem fun m => { m with rowsMoved := [], rowWant := false }).rowMovesGoOn
    u.residents = [j] → u.reg (K.tableCount j) = 1 → u.tableOf j 0 = .ok t → u.migrates j t = true → t.shards = 1 →
    u.shardAt j t 0 = .ok e → u.owns t e = true →
    exec .migrationWindow s = .next (settle s (State.readCandidates j t e (2 ^ (8 + e.size)) u).sweepsGoOn)) ∧
  (∀ (s u : State) (j n : Nat) (t : Table) (e : ShardE) (m : List Byte) (lv : Nat), s.powered = true → s.isResident j = true →
    (∀ x ∈ s.mem.sweeps, ¬ (x.job = j ∧ x.table = n)) →
    s.tableOf j n = .ok t → t.age ≠ 0 → s.migrates j t = true → t.shards = 1 → s.shardAt j t 0 = .ok e → s.owns t e = true →
    e.rows = 1 → s.readVa j (mapAddr e e.first) 8 = .ok m → mapOk t e (leNat m) = true → mapMigrating (leNat m) = false →
    t.below (mapLevel (leNat m)) = some lv → t.age ≤ mapAge (leNat m) →
    (s.didRead j (mapAddr e e.first) 8).moveRow j t e e.first (leNat m) lv = .made u →
    exec (.demotionSweep j n) s = .next (settle s u)) ∧
  (∀ (s : State) (i : Nat) (m : RowMove) (t : Table) (e : ShardE), s.mem.rowMoves[i]? = some m → m.done = true →
    (∀ f ∈ m.fetches, s.fetchOut m.row f = false) →
    let u := s.modMem fun x => { x with rowMoves := x.rowMoves.eraseIdx i }
    u.tableOf m.job m.table = .ok t → u.shardOf m.job t m.row = .ok (some e) →
    exec (.rowMoveSlotFree i) s = .next (settle s (u.freeSlot t e m.level m.slot))) ∧
  (∀ (s t : State) (r : PageReq) (l : Leaf), s.powered = true → s.reg K.pageMigratePages = 0 → s.mem.pageReqs = [r] →
    let u := s.modMem fun m => { m with retired := 0 }
    u.leafOf r.job r.va = some l → r.failed = none → l.allocated = true → l.tier ≠ 0 → u.movable l = true → u.drawsMove r.job 1 = true →
    u.quotaFits 0 r.job 65536 = true → u.startMove l 0 false = some t →
    exec .pageMigrationWindow s = .next (settle s (t.chargeJob l.job (Config.migrationNj 1)))) ∧
  (∀ (s u : State) (i dst : Nat) (m : PageMove) (l : Leaf), s.mem.moves[i]? = some m → m.stage = .copying → m.srcTier ≠ 2 →
    m.dstTier ≠ 2 → s.leafOf m.job m.va = some l →
    s.putCopy m (s.pageHere l) (s.poisonHere l (if m.dstTier = 0 then 64 else 128)) = some (dst, u) →
    let v := ((u.evictPage m).dropTlb m.job m.va).modLeaf m.job m.va fun l => { l with
      tier := m.dstTier, frame := dst, node := 0, migrating := false, idle := 0 }
    let w := if m.dstTier < m.srcTier then v.bump (K.pagesPromoted m.job) 1
      else if m.srcTier < m.dstTier then v.bump (K.pagesDemoted m.job) 1 else v
    exec (.pageMoveCopyDone i) s = .next (settle s (w.modMem fun x => { x with moves := x.moves.map fun y =>
      if y == m then { y with stage := .releasing, dst := dst } else y }).goOn)) ∧
  (∀ (s : State) (i : Nat) (m : PageMove), s.mem.moves[i]? = some m → m.stage = .releasing → m.srcTier ≠ m.dstTier →
    exec (.pageFrameRelease i) s = .next (settle s ((((s.dropMove m).freeTierPlace m.srcTier m.src).dropLines
      (placeBase m.srcTier m.src) 65536).release (dataUsed m.srcTier m.job) 65536))) ∧
  (∀ (s : State) (i : Nat) (r : PageReq) (l : Leaf), s.mem.pageReqs[i]? = some r → s.leafOf r.job r.va = some l → l.allocated = true →
    l.tier = 0 → l.migrating = false → r.table = 0x100 →
    exec (.pendingPageArrival i) s = .next (settle s
      ((s.modMem fun m => { m with pageReqs := m.pageReqs.filter (· != r) }).goOn))) ∧
  (∀ (s : State), s.powered = true → exec .pageSweep s = .next (settle s (s.modMem fun m => { m with leaves := m.leaves.map fun l =>
    if l.src.isNone && l.allocated && l.tier == 0 && !l.pinned then
      { l with idle := if l.accessed then 0 else l.idle + 1, accessed := false }
    else l })))

/-- Patrol scrub of a sector of tier 0 counts corrected data and poisons an uncorrectable sector, one of a unit of tier 1 counts corrected
data and poisons the block of an uncorrectable unit, and the last of each counts a pass (R305, R307). Scrub on the die counts a corrected
word; an uncorrectable one is journalled, and reaches a command that later reads it (R416). A stack's report sets its temperature and, by
the entry and exit temperatures, its throttle level, and a missing one sets level 2; a changed level is told; a stack that has been at
level 3 for 100 ms is told (R308, R371, R412). -/
def Obligations.ScrubAndTemperatureTakeEffect : Prop :=
  (∀ (s : State) (addr : Nat), s.powered = true → addr < t0Frames * 65536 →
    let f := addr / 65536
    let passEnd (u : State) : State := if addr / 64 * 64 = t0LastSector then u.bump32 K.scrubPassesT0 1 else u
    s.channelUp (frameStack f) (frameChannel f) = true →
    exec (.patrolScrub addr .clean) s = .next (settle s (passEnd s)) ∧
    exec (.patrolScrub addr .corrected) s = .next (settle s (passEnd (((s.bump (K.hbmCorrected (frameStack f)) 1).count
      (0x40 + frameStack f) 0x13 1 none).corrected 4 (32 * frameStack f + 2 * frameChannel f + addr / 256 % 2) 0))) ∧
    exec (.patrolScrub addr .uncorrectable) s = .next (settle s (passEnd (s.poison (addr / 64 * 64))))) ∧
  (∀ (s : State) (c u : Nat), s.powered = true → c < s.chunksTotal → u < 64 → s.chunkOk c = true →
    let addr := t1Base + 4096 * c + 64 * u
    let passEnd (t : State) : State := if 64 * c + u = 64 * t.chunksTotal - 1 then t.bump32 K.scrubPassesT1 1 else t
    t0Frames * 65536 ≤ t1Base ∧
    exec (.patrolScrub addr .clean) s = .next (settle s (passEnd s)) ∧
    exec (.patrolScrub addr .corrected) s = .next (settle s (passEnd ((s.bump K.t1Corrected 1).corrected 6 (c % 16) 0))) ∧
    ∀ x b, s.mem.containers.find? (·.chunks.contains c) = some x → x.blockAt (64 * x.chunks.idxOf c + u) = some b →
      exec (.patrolScrub addr .uncorrectable) s = .next (settle s (passEnd (s.poison (t1Base + 65536 * x.id + 128 * b))))) ∧
  (∀ (s : State) (cls unit structure_ off : Nat), s.powered = true → s.scrubUnit cls unit = true → scrubCode cls structure_ = true →
    exec (.onDieScrub cls unit ⟨structure_, off⟩ .clean) s = .next (settle s s) ∧
    exec (.onDieScrub cls unit ⟨structure_, off⟩ .corrected) s = .next (settle s
      ((if cls = 1 ∧ 6 ≤ structure_ ∧ structure_ ≤ 9 then s.bump32 (K.vecTileCorrected unit) 1 else s).corrected cls unit structure_)) ∧
    exec (.onDieScrub cls unit ⟨structure_, off⟩ .uncorrectable) s = .next (settle s
      (({ s with svc := { s.svc with badWords := s.svc.badWords.filter (· != (cls, unit, structure_, off)) ++
          [(cls, unit, structure_, off)] } } : State).detected.handle 0x01 cls unit none 0xFF 0x30 (structure_ + 256 * off)))) ∧
  (∀ (s : State) (st : Nat) (milli : Int), s.powered = true → st < 12 →
    exec (.hbmTempReport st milli) s = .next (settle s
      ((s.setReg (K.hbmTemperature st) (milli % 2 ^ 32).toNat).setThrottle st
        (throttleLevel (s.reg K.hbmThreshold) (s.reg K.hbmHysteresis) milli (s.reg (K.hbmThrottleLevel st))))) ∧
    exec (.hbmReportTimeout st) s = .next (settle s (s.setThrottle st 2))) ∧
  (∀ (s : State) (st level : Nat),
    let u := s.throttledTime st
    let was := u.reg (K.hbmThrottleLevel st)
    (was = level → s.setThrottle st level = u) ∧
    (was ≠ level → was ≠ 0 → level ≠ 0 →
      let v := (u.setReg (K.hbmThrottleLevel st) level).postSession 0x44 0xFF (leBytes 1 st ++ leBytes 1 level)
      s.setThrottle st level = if was = 3 then v.goOn else v)) ∧
  (∀ (s : State) (st : Nat), st < 12 → s.reg (K.hbmThrottleLevel st) = 3 →
    exec (.hbmOvertemp st) s = .next (settle s (s.postSession 0x45 0xFF (leBytes 1 st)))) ∧
  ∀ (t h : Nat) (milli : Int),
    (96000 ≤ milli → ∀ l, l ≤ 3 → throttleLevel t h milli l = 3) ∧
    (93000 ≤ milli → milli < 96000 → throttleLevel t h milli 3 = 3) ∧
    (1000 * t + 4000 - 1000 * h ≤ milli → milli < 96000 → throttleLevel t h milli 2 = 2) ∧
    (1000 * t - 1000 * h ≤ milli → milli < 1000 * t + 4000 → milli < 96000 → throttleLevel t h milli 1 = 1) ∧
    (milli < 1000 * t → milli < 96000 → throttleLevel t h milli 0 = 0)

/-! ### The fabric's ports -/

/-- A port that is DOWN trains on signal, and again after a training that failed; it goes to KEYING with the lanes that lock, or back to
DOWN where fewer than 2 do or its time is up; loss of signal takes it down (R320). A port that leaves UP counts a flap, is quarantined at
the 9th within 60 s, and its frames go on by other ports; the end of a quarantine leaves it DOWN (R315, R321). A write of port_service
takes a port out of service, or returns it to DOWN (R320, R348). A lane that loses lock, or whose corrected symbols exceed 10^−5 of those
received, is retired; with fewer than 2 lanes left the port goes down (R322). -/
def Obligations.PortsComeUpAndGoDown : Prop :=
  ∀ (s : State) (p : Nat), p < 16 →
    (∀ P, s.fab.ports[p]? = some P → s.reg (K.portState p) = psUp →
      let times := s.tick :: P.flapTimes.filter fun t => s.tick - t < 60 * 25000000
      let u := (((s.bump32 (K.portFlaps p) 1).modPort p fun P => { P.down with flapTimes := times }).setReg (K.portState p)
        (if 9 ≤ times.length then psQuarantined else psDown)).setReg (K.portLanesInService p) 0
      s.portDown p psDown = ((((P.replay ++ P.waitTx).foldl (fun s t => s.moveFrame t) u).holdCut).noWindow).flowOn) ∧
    (s.reg (K.portState p) ≠ psUp →
      s.portDown p psDown = ((s.modPort p Port.down).setReg (K.portState p) psDown).setReg (K.portLanesInService p) 0) ∧
    (∀ lanes, s.portsLive = true → s.reg (K.portState p) = psDown → 2 ≤ lanes →
      exec (.portSignalDetect p lanes) s = .next (settle s (s.setReg (K.portState p) psTraining)) ∧
      exec (.portTrainingRetry p) s = .next (settle s (s.setReg (K.portState p) psTraining))) ∧
    (s.reg (K.portState p) = psTraining →
      exec (.portTrainingTimeout p) s = .next (settle s (s.portDown p psDown)) ∧
      ∀ lanes, (lanesIn (s.laneMask p lanes) < 2 → exec (.portTrainingDone p lanes) s = .next (settle s (s.portDown p psDown))) ∧
        (2 ≤ lanesIn (s.laneMask p lanes) → exec (.portTrainingDone p lanes) s = .next (settle s
          ((((s.setReg (K.portState p) psKeying).setReg (K.portLanesInService p) (s.laneMask p lanes)).modPort p fun P => { P with
            lanesUp := s.laneMask p lanes }).startKeying p)))) ∧
    (s.reg (K.portState p) = psTraining ∨ s.reg (K.portState p) = psKeying ∨ s.reg (K.portState p) = psUp →
      exec (.portLossOfSignal p) s = .next (settle s (s.portDown p psDown))) ∧
    (s.reg (K.portState p) = psQuarantined → exec (.quarantineEnd p) s = .next (settle s (s.setReg (K.portState p) psDown))) ∧
    (∀ v : OdVal, s.dictServed v.path = true → (s.wake (.core 3)).writeChecks v.path (0x2720 + p) 0xA v.ty v.bytes = .ok →
      let u := (s.wake (.core 3)).setReg (K.portService p) (leNat v.bytes)
      (leNat v.bytes = 1 → u.reg (K.portState p) ≠ psOut →
        exec (.portService p v) s = .next (settle s ((u.portDown p psOut).setReg (K.portServiceState p) 2))) ∧
      (leNat v.bytes = 1 → u.reg (K.portState p) = psOut → exec (.portService p v) s = .next (settle s u)) ∧
      (leNat v.bytes ≠ 1 → u.reg (K.portState p) = psOut → exec (.portService p v) s = .next (settle s
        ((u.setReg (K.portState p) psDown).setReg (K.portServiceState p) 0))) ∧
      (leNat v.bytes ≠ 1 → u.reg (K.portState p) ≠ psOut → exec (.portService p v) s = .next (settle s u))) ∧
    (∀ l, s.portUp p = true → bit (s.reg (K.portLanesInService p)) l = true →
      let m := s.reg (K.portLanesInService p) - 2 ^ l
      let t := (s.setReg (K.portLanesInService p) m).modPort p fun P => { P with lanesUp := m }
      exec (.laneLossOfLock p l) s = .next (settle s (if lanesIn m < 2 then t.portDown p psDown else t)) ∧
      ∀ corrected received, exec (.laneFecWindow p l corrected received) s = .next (settle s
        (if corrected * 100000 > received then (s.bump (K.portFecCorrected p) corrected).retireLane p l
         else s.bump (K.portFecCorrected p) corrected)))

/-- Acknowledged frames leave a port's replay buffer, a nak or a missing acknowledgement sends the rest again, the 16th replay in a row of
one frame takes the port down, and buffers that return are credited (R316, R319). A frame that fails its CRC is dropped; one whose tag
fails is counted, and the 64th within 1 s takes the port down (R318); one of no op is received, dropped and counted (R317). A peer's
chain and then its signature are verified; where one fails, or the time is up, the failure is counted and the port goes down; else the
first exchange brings the port UP, and a rekey gives the next generation, while the one before is accepted for 1 ms more (R451, R452).
The 512 buffers that a peer has at first are the model's choice (log 90). -/
def Obligations.LinkFramesAndKeysTakeEffect : Prop :=
  ∀ (s : State) (p : Nat),
    (s.portUp p = true → ∀ n,
      exec (.fabricLinkAck p n) s = .next (settle s ((s.ackFrames p n).portGoesOn p)) ∧
      exec (.fabricLinkNak p n) s = .next (settle s (((s.ackFrames p n).portGoesOn p).replayPort p)) ∧
      exec (.fabricLinkCredit p n) s = .next (settle s ((s.modPort p fun P => { P with credits := P.credits + n }).portGoesOn p)) ∧
      exec (.fabricReplayTimeout p) s = .next (settle s (s.replayPort p)) ∧
      exec (.corruptFabricFrame p .crc) s = .next (settle s s) ∧
      exec (.corruptFabricFrame p (.undefined n)) s = .next (settle s ((s.receivedOn p n).bump K.fabRefusedInbound 1)) ∧
      ∀ P, s.fab.ports[p]? = some P →
        let times := s.tick :: P.tagFails.filter fun t => s.tick - t < 25000000
        let t := (s.bump (K.portAuthFailures p) 1).modPort p fun P => { P with tagFails := times }
        exec (.corruptFabricFrame p .tag) s = .next (settle s (if times.length ≥ 64 then t.portDown p psDown else t))) ∧
    (∀ P n, s.fab.ports[p]? = some P →
      ((∃ t ∈ P.replay, t.seq = n) → ((s.ackFrames p n).fab.ports[p]?).map (·.replay) = some (P.replay.filter fun t => !seqUpTo t.seq n)) ∧
      ((∀ t ∈ P.replay, t.seq ≠ n) → ((s.ackFrames p n).fab.ports[p]?).map (·.replay) = some P.replay) ∧
      (P.replay = [] → s.replayPort p = s) ∧
      (P.replay ≠ [] →
        let t := ((s.bump (K.portLinkReplays p) 1).count 0x51 0x12 1 none).modPort p fun P => { P with replay := P.replay.map fun t => { t with
          replays := t.replays + 1 } }
        s.replayPort p = if P.replay.any fun t => t.replays + 1 ≥ 16 then t.portDown p psDown else t)) ∧
    (∀ P, s.fab.ports[p]? = some P →
      (s.reg (K.portState p) = psKeying ∨ (s.reg (K.portState p) = psUp ∧ P.rekeying = true) →
        let fails := (s.bump K.keyingFailures 1).portDown p psDown
        exec (.keyingTimeout p) s = .next (settle s fails) ∧
        (∀ own r k c, P.keying = [own] →
          (Config.chainVerify c s.linkRoot = true → exec (.keyingFrame p (.hello r k c)) s =
            .next (settle s (s.modPort p fun P => { P with keying := [own, .hello r k c] }))) ∧
          (Config.chainVerify c s.linkRoot = false → exec (.keyingFrame p (.hello r k c)) s = .next (settle s fails))) ∧
        (∀ r0 k0 c0 r k c g, P.keying = [.hello r0 k0 c0, .hello r k c] →
          let digest := Config.sha512 (keyingBytes (.hello r0 k0 c0) ++ keyingBytes (.hello r k c))
          (Config.ed25519Verify (Config.chainKey c) (leBytes 64 digest) g = false →
            exec (.keyingFrame p (.sign g)) s = .next (settle s fails)) ∧
          (Config.ed25519Verify (Config.chainKey c) (leBytes 64 digest) g = true →
            let ks := linkKeys P.secret k r0 r 1
            (s.reg (K.portState p) = psKeying → exec (.keyingFrame p (.sign g)) s = .next (settle s
              (((s.modPort p fun P => { P with
                gen := 1, prevGen := none, txKey := ks.1, rxKey := ks.2, count := 0
                keying := [], secret := 0, rekeying := false, replay := [], waitTx := [], txSeq := 0, rxSeq := 0
                credits := 512 }).setReg (K.portState p) psUp).flowOn))) ∧
            (s.reg (K.portState p) = psUp → exec (.keyingFrame p (.sign g)) s = .next (settle s
              (s.modPort p fun P => { P with keying := P.keying ++ [.sign g] })))))) ∧
      (s.reg (K.portState p) = psUp → P.rekeying = false →
        exec (.rekeyDue p) s = .next (settle s ((s.modPort p fun P => { P with rekeying := true }).startKeying p))) ∧
      (s.reg (K.portState p) = psUp → P.rekeying = true → ∀ r0 k0 c0 r k c g,
        P.keying = [.hello r0 k0 c0, .hello r k c, .sign g] →
        let ks := linkKeys P.secret k r0 r (P.gen + 1)
        exec (.keyingFrame p .confirm) s = .next (settle s
          (((s.modPort p fun P => { P with
            gen := P.gen + 1, prevGen := some P.gen, txKey := ks.1, rxKey := ks.2, count := 0, keying := [], secret := 0
            rekeying := false }).bump K.linkRekeys 1).portGoesOn p)))) ∧
    exec (.prevKeyExpiry p) s = .next (settle s (s.modPort p fun P => { P with prevGen := none }))

/-! ### The Ryeve link, memory operations, doorbells and sessions -/

/-- Link frames free the replay buffer, send it again or return buffers; one with an undefined op is dropped and counted, and a doorbell
of no defined kind is ignored and counted (R352, R353); the 16th replay in a row of a frame takes the link down to train; signal
wakes it, and training brings it UP (R350, R355, R400). A doorbell that counts moves its index and wakes the job's core; one that runs
past its ring, moves backward or names no open session is ignored and counted (R353, R354). A heartbeat of the session is answered (R356,
R358). A message with the response flag is dropped (R361). The end of a NOTIFY interval sends a deferred NOTIFY (R370). -/
def Obligations.RyeveLinkAndDoorbells : Prop :=
  (∀ (s : State),
    (s.ryUp = true →
      (∀ n, exec (.ryeveLinkAck (.ack n)) s = .next (settle s ((s.ryAcked n).ryDrain 256)) ∧
        exec (.ryeveLinkAck (.nak n)) s = .next (settle s ((s.ryAcked n).ryDrain 256).ryReplay)) ∧
      (∀ a b c, exec (.ryeveLinkAck (.credit a b c)) s = .next (settle s
        ((s.modSess fun e => { e with credits := addCredits e.credits a b c }).ryDrain 256))) ∧
      exec (.ryeveLinkAck (.undefined false)) s = .next (settle s (s.bump K.ryeveFramesDropped 1)) ∧
      (∀ j, exec (.ryeveLinkAck (.doorbellOther j)) s = .next (settle s ((s.bellIn j).bump K.ignoredWrites 1))) ∧
      (s.sess.replay = [] → exec .ryeveReplayTimeout s = .next (settle s s)) ∧
      (s.sess.replay ≠ [] →
        let down := s.sess.replay.any fun t => t.replays + 1 ≥ 16
        let t := ((s.bump K.ryeveLinkReplays 1).count 0x52 0x13 1 none).modSess fun e => { e with
          replay := e.replay.map fun t => { t with replays := if down then 0 else t.replays + 1 } }
        exec .ryeveReplayTimeout s = .next (settle s (if down then t.setReg K.ryeveLinkState 1 else t)))) ∧
    (s.powered = true → s.reg K.ryeveLinkState = 1 → exec .ryeveTrainingDone s = .next (settle s ((s.setReg K.ryeveLinkState 2).ryDrain 256))) ∧
    (s.powered = true → s.reg K.moduleState ≠ 2 → s.reg K.ryeveLinkState = 0 → s.pow.pllStopped = false →
      exec .ryeveSignalDetect s = .next (settle s (s.setReg K.ryeveLinkState 1)))) ∧
  ((∀ (s : State) (j index session : Nat), s.ryUp = true →
    let u := s.bellIn j
    let c := u.reg (K.sqConsumed j)
    let d := (u.job j).cqConsumed
    let e := (u.job j).eqConsumed
    (u.bellOk j session = true → sub32 index c ≤ u.reg (K.sqEntries j) → sub32 (u.job j).sqProduced c ≤ sub32 index c →
      exec (.doorbellSubmission j index session) s = .next (settle s
        ((u.modJob j fun x => { x with sqProduced := index % 2 ^ 32 }).wake (.core (j % 2))))) ∧
    (u.bellOk j session = true → sub32 index d ≤ sub32 (u.reg (K.cqProduced j)) d →
      exec (.doorbellCompletion j index session) s = .next (settle s
        ((u.modJob j fun x => { x with cqConsumed := index % 2 ^ 32 }).wake (.core (j % 2))))) ∧
    (u.bellOk j session = true → j ≠ 0xFF → sub32 index e ≤ sub32 (u.reg (K.eqProduced j)) e →
      exec (.doorbellEvent j index session) s = .next (settle s ((u.modJob j fun x => { x with eqConsumed := index % 2 ^ 32 }).owedJob j))) ∧
    (u.bellOk j session = false ∨ u.reg (K.sqEntries j) < sub32 index c ∨ sub32 index c < sub32 (u.job j).sqProduced c →
      exec (.doorbellSubmission j index session) s = .next (settle s (u.bump K.ignoredWrites 1)))) ∧
  (∀ (s : State) (session : Nat), s.ryUp = true → s.sessionOk session = true →
    exec (.heartbeat session) s = .next (settle s (s.ryReceived.rySend 2 0x23 0 0xFF 0 []))) ∧
  (∀ (s : State), (s.ryUp = true → exec (.msgResp .vc1) s = .next (settle s s.ryReceived.ryDropped)) ∧
    (s.pow.standby = true → exec (.msgResp .sideband) s = .next (settle s
      ((s.bump K.sbFramesDropped 1).modSess fun x => { x with sbBusy := none })))) ∧
  (∀ (s : State) (j ring : Nat) (r : RingId), (ring = 1 ∧ r = .completion j) ∨ (ring = 2 ∧ r = .event j) →
    (s.job j).notifyWait.contains ring = true →
    let t := s.modJob j fun x => { x with
      notifyWait := x.notifyWait.filter (· != ring), notifyDue := x.notifyDue.filter (· != ring) }
    exec (.notifyIntervalEnd r) s = .next (settle s (if (s.job j).notifyDue.contains ring then t.notifyJob j ring else t))))

/-- A memory operation of the control node in an OPEN session that it names, on a job that is CREATED, RUNNING or PARKED: a write is made
whole and answered, or waits where its page moves, a read waits for memory and is answered with the bytes; one of another session, or of
another job, is counted and refused with 0x21 and touches no memory; an operation on the session window reads it (R353, R354, R356). An
access that fails a fourth time ends UNCORRECTABLE (R304). -/
def Obligations.ControlNodeReachesMemory : Prop :=
  (∀ (s : State) (h : TxHdr) (data : List Byte) (a : MemAccess), s.ryUp = true →
    let u := s.vc0In h
    let met := u.met h.job (u.vc0Addr h) data.length true a
    (badHdr h h.bytes = false → data.length = h.bytes → h.job ≠ 0xFF → u.sessionOk h.session = true → u.jobServed h.job = true →
      (u.writeWaits h.job (u.vc0Addr h) = false → a.retries ≤ 3 → ∀ t,
        met.writeFor (if met.trust.unlocked then .vendor else .unit) h.job (met.vc0Addr h) data met.freshPend = .ok t →
        t.fab.reqs.length = met.fab.reqs.length → exec (.memWrite h ⟨data, a⟩) s = .next (settle s (t.vc0Reply 0x03 h 0 []))) ∧
      (u.writeWaits h.job (u.vc0Addr h) = false → a.retries > 3 →
        exec (.memWrite h ⟨data, a⟩) s = .next (settle s (met.vc0Fail 0x03 h 0x30 (u.vc0Addr h)))) ∧
      (u.writeWaits h.job (u.vc0Addr h) = true →
        u.writeFor (if u.trust.unlocked then .vendor else .unit) h.job (u.vc0Addr h) data u.freshPend = .wait →
        exec (.memWrite h ⟨data, a⟩) s = .next (settle s (u.vc0Wait h data 0 none)))) ∧
    (badHdr h h.bytes = false → h.job ≠ 0xFF → u.sessionOk h.session = false ∨ u.jobServed h.job = false →
      (data.length = h.bytes → exec (.memWrite h ⟨data, a⟩) s = .next (settle s (u.vc0Refuse 0x03 h))) ∧
      exec (.memRead h) s = .next (settle s (u.vc0Refuse 0x01 h))) ∧
    (badHdr h h.bytes = false → h.job ≠ 0xFF → u.sessionOk h.session = true → u.jobServed h.job = true →
      (∀ r d, u.readVa h.job (u.vc0Addr h) h.bytes ≠ .fail r d) → exec (.memRead h) s = .next (settle s (u.vc0Pend 0x01 h [] 0))) ∧
    (badHdr h h.bytes = false → h.job = 0xFF → u.sessionOk h.session = true → h.addr + h.bytes ≤ 2 ^ 24 →
      exec (.memRead h) s = .next (settle s (u.vc0Pend 0x01 h [] 0))) ∧
    (badHdr h h.bytes = true → exec (.memWrite h ⟨data, a⟩) s = .next (settle s u.ryDropped) ∧
      exec (.memRead h) s = .next (settle s u.ryDropped))) ∧
  (∀ (s : State) (p : PendRead) (m : MemAccess), s.powered = true → s.fab.pendReads.find? (·.id == p.id) = some p →
    p.vc0 = true → p.op = 0x01 →
    let h := p.hdr
    (h.job = 0xFF → m.retries ≤ 3 → exec (.memoryReadArrival p.id m) s = .next (settle s
      ((s.unpend p.id).vc0Reply 0x01 h 0 (readRun s.mem.window h.addr h.bytes)))) ∧
    (h.job < 64 → s.heldAt h.job (s.vc0Addr h) = false →
      let t := s.met h.job (s.vc0Addr h) h.bytes false m
      (m.retries ≤ 3 → ∀ b, t.readVa h.job (s.vc0Addr h) h.bytes = .ok b → exec (.memoryReadArrival p.id m) s = .next (settle s
        (((t.unpend p.id).didRead h.job (s.vc0Addr h) h.bytes).vc0Reply 0x01 h 0 b))) ∧
      (m.retries > 3 → exec (.memoryReadArrival p.id m) s = .next (settle s
        ((t.unpend p.id).vc0Fail 0x01 h 0x30 (s.vc0Addr h))))))

/-- A session opens where none is, resumes from SILENT with its number and token, and closes by request; a heartbeat that fails to come
makes it SILENT, the lease's end releases every job, and the hold-off ends (R357 to R360, R377). -/
def Obligations.SessionsOpenAndEnd : Prop :=
  (∀ (s : State) (m : MsgHdr) (b : List Byte), m.path = .sideband → s.pow.standby = true → m.response = false → m.major = 1 →
    m.reserved = 0 → m.status = 0 → s.booted = true → s.coreOut 3 = false →
    let u := s.wake (.core 3)
    (b.length = 20 → nb b 4 1 ≤ 1 → nb b 5 3 = 0 → ringPlaceOk (nb b 8 8) (nb b 16 4) = true → u.sess.holdOff = none →
      u.reg K.sessionState = ssNone → nb b 0 4 / 2 ^ 16 = u.reg K.fwInterfaceVersion / 2 ^ 16 →
      nb b 0 4 % 2 ^ 16 ≤ u.reg K.fwInterfaceVersion % 2 ^ 16 → u.ninth = false →
      exec (.sessionOpen m b) s = .next (settle s (u.openNow m (nb b 0 4) (nb b 8 8) (nb b 16 4)))) ∧
    (b.length = 20 → u.sess.holdOff = none → u.reg K.sessionState = ssSilent → nb b 0 4 = u.reg K.sessionNumber →
      nb b 4 16 = u.sess.token → u.ninth = false →
      let t := u.reconnected.postSession 0x40 0xFF (leBytes 8 u.reconnected.sess.silentAt)
      exec (.sessionResume m b) s = .next (settle s (t.respond m 0x0002 0 (leBytes 16 t.sess.token)))) ∧
    (u.reg K.sessionState = ssOpen → b = [0] → exec (.sessionClose m b) s = .next (settle s (u.sessionNone.respond m 0x0003 0 []))) ∧
    (u.reg K.sessionState = ssOpen → b = [1] → exec (.sessionClose m b) s = .next (settle s ((u.releaseAll none).respond m 0x0003 0 []))) ∧
    (u.reg K.sessionState = ssOpen → b = [] → exec (.heartbeatMessage m b) s = .next (settle s (u.respond m 0x0004 0 [])))) ∧
  (∀ (s : State), s.reg K.sessionState = ssOpen → s.reg K.lease ≠ 0 →
    exec .heartbeatTimeout s = .next (settle s ((s.setReg K.sessionState ssSilent).modSess fun e => { e with silentAt := s.tick }))) ∧
  (∀ (s : State), s.reg K.sessionState = ssSilent → exec .leaseEnd s = .next (settle s (s.releaseAll none))) ∧
  (∀ (s : State), exec .holdOffEnd s = .next (settle s (s.modSess fun e => { e with holdOff := none })))

/-! ### The object dictionary -/

/-- A dictionary item that core 3 serves is applied whole where its checks pass and its entry's rules allow it, else it is refused,
remembered and counted, and changes nothing else (R475, R476, R490). The checks of a write go in the order of R475: an undefined index, an
undefined subindex, the role, the access, the type, the reserved bits, the unit, the range. -/
def Obligations.ItemsAreCheckedAndApplied : Prop :=
  (∀ (s : State) (idx sub : Nat) (v : OdVal), s.dictServed v.path = true → 256 * idx + sub ≠ K.debugToken →
    let u := s.wake (.core 3)
    (∀ t, u.writeChecks v.path idx sub v.ty v.bytes = .ok → u.writeEntry idx sub (leNat v.bytes) v.bytes = some t →
      exec (.dictWrite idx sub v) s = .next (settle s t)) ∧
    (u.writeChecks v.path idx sub v.ty v.bytes = .ok → u.writeEntry idx sub (leNat v.bytes) v.bytes = none →
      exec (.dictWrite idx sub v) s = .next (settle s (u.refuseItem .refused idx sub))) ∧
    (∀ r, u.writeChecks v.path idx sub v.ty v.bytes = r → r ≠ .ok →
      exec (.dictWrite idx sub v) s = .next (settle s (u.refuseItem r idx sub)))) ∧
  (∀ (s : State) (p : Path) (idx sub ty : Nat) (b : List Byte),
    (Dict.index idx = [] → s.writeChecks p idx sub ty b = .noIndex) ∧
    (Dict.index idx ≠ [] → Dict.find idx sub = none → sub ≠ 0 → s.writeChecks p idx sub ty b = .noSubindex) ∧
    (∀ e, Dict.index idx ≠ [] → Dict.find idx sub = some e →
      (s.roleOf p < e.role → s.writeChecks p idx sub ty b = .role) ∧
      (e.role ≤ s.roleOf p →
        (e.access = .ro ∨ e.access = .const → s.writeChecks p idx sub ty b = .access) ∧
        (e.access ≠ .ro → e.access ≠ .const →
          (encodingOk e ty b = false → s.writeChecks p idx sub ty b = .typeMismatch) ∧
          (encodingOk e ty b = true →
            (setsReserved e idx sub b = true → s.writeChecks p idx sub ty b = .reservedNonzero) ∧
            (setsReserved e idx sub b = false →
              (s.indexAbsent idx = true → s.writeChecks p idx sub ty b = .unitAbsent) ∧
              (s.indexAbsent idx = false → inRange e (leNat b) = true → s.writeChecks p idx sub ty b = .ok)))))))

/-- Writes of entries that act: counters, samples, alerts, the node ID, take_over and deep idle (R312, R346, R400, R408, R460, R461, R464,
R466, R469). The end of a snapshot period takes a snapshot; it counts once, carries the tick edge, and copies each live count (R464,
R465). -/
def Obligations.EntriesAndSnapshotsAct : Prop :=
  (∀ (s : State) (v : OdVal), s.dictServed v.path = true →
    let u := s.wake (.core 3)
    let n := leNat v.bytes
    let sound (idx sub : Nat) : Prop := u.writeChecks v.path idx sub v.ty v.bytes = .ok
    (∀ k c, k < 0x53 → c < 8 → sound (0x2880 + k) (0x0A + c) → eventDefined k (bits n 0 8) = true →
      exec (.counterSelect k c v) s = .next (settle s ((u.setReg (K.ctrSelect k c) n).setReg (K.ctrCount k c) 0))) ∧
    (sound 0x2810 4 → exec (.sampleSeed v) s = .next (settle s (u.writeSeed n))) ∧
    (sound 0x2810 7 → u.reg K.smpConsumed ≤ n → n ≤ u.reg K.smpProduced →
      exec (.sampleConsumed v) s = .next (settle s (u.setReg K.smpConsumed n))) ∧
    (sound 0x1220 5 → exec (.alertStatus v) s = .next (settle s
      (u.setReg K.alertStatus (u.reg K.alertStatus - (u.reg K.alertStatus &&& n &&& 0xF0))))) ∧
    (sound 0x2800 1 → n = 1 → exec (.snapshot v) s = .next (settle s u.takeSnapshot)) ∧
    (sound 0x2700 1 → u.anyResident = false → n < 16384 → exec (.nodeIdWrite v) s = .next (settle s (u.setReg K.nodeId n))) ∧
    (sound 0x2711 1 → exec (.takeOver v) s = .next (settle s (u.takeOver n))) ∧
    (sound 0x2100 2 → (n = 0 → exec (.deepIdle v) s = .next (settle s u.endDeepIdle)) ∧
      (n ≠ 0 → u.anyResident = false → (∀ p < 16, u.reg (K.portState p) ≠ psUp) →
        exec (.deepIdle v) s = .next (settle s ((u.setReg K.deepIdle 1).restIfAllNap))))) ∧
  ((∀ (s : State), s.powered = true → s.reg K.snapshotPeriod ≠ 0 → exec .snapshotPeriodExpiry s = .next (settle s s.takeSnapshot)) ∧
  (∀ (s : State), s.reg K.snapshotACycles = 0 ∨ s.reg K.snapshotTick ≠ s.tick + 1 →
    s.takeSnapshot.reg K.snapshotTick = s.tick + 1 ∧ s.takeSnapshot.reg K.snapshotSeq = (s.reg K.snapshotSeq + 1) % 2 ^ 32) ∧
  (∀ (s : State) (u c : Nat), s.reg K.snapshotACycles = 0 ∨ s.reg K.snapshotTick ≠ s.tick + 1 → u ∈ countedUnits → c < 8 →
    s.countedPresent u = true → s.countsCycles u c = false → s.takeSnapshot.reg (K.ctrCountShadow u c) = s.reg (K.ctrCount u c)))

/-- A write of 1 to 0x2900.02 in the service role returns the module to NORMAL where the handler queue is empty and a phrase, an EE and a
slice are in service; jobs stay as they are. Otherwise it is refused, and nothing else changes (R424). -/
def Obligations.ClearDegradedReturnsToNormal : Prop :=
  ∀ (s : State) (v : OdVal), s.dictServed v.path = true →
    let u := s.wake (.core 3)
    u.writeChecks v.path 0x2900 2 v.ty v.bytes = .ok → leNat v.bytes = 1 → s.reg K.moduleState ≤ 1 →
    let ready : Prop := s.svc.queue = [] ∧ (∃ n < 8, s.phraseUp n = true) ∧ (∃ k < 16, s.eeUp k = true) ∧ ∃ k < 12, s.sliceUp k = true
    (ready → ∃ t, exec (.clearDegraded v) s = .next t ∧ t.reg K.moduleState = 0 ∧ ∀ j < 64, t.reg (K.jobState j) = s.reg (K.jobState j)) ∧
    (¬ ready → exec (.clearDegraded v) s = .next (settle s (u.refuseItem .refused 0x2900 2)))

/-- A write of zero to a live count clears the count and the overflow bit; any other value is refused (R461). A counted event adds to bits
[47:0], which wrap, and a wrap sets bit [48], which stays set. -/
def Obligations.CountsWrapAndClear : Prop :=
  (∀ (s : State) (u c : Nat) (v : OdVal), s.dictServed v.path = true → u < 0x53 → c < 8 →
    let w := s.wake (.core 3)
    w.writeChecks v.path (0x2880 + u) (0x02 + c) v.ty v.bytes = .ok →
    (leNat v.bytes = 0 → exec (.countClear u c v) s = .next (settle s (w.setReg (K.ctrCount u c) 0))) ∧
    (leNat v.bytes ≠ 0 → exec (.countClear u c v) s = .next (settle s (w.refuseItem .refused (0x2880 + u) (0x02 + c))))) ∧
  (∀ v n : Nat, v < 2 ^ 49 → n < 2 ^ 48 →
    bits (counterAdd v n) 0 48 = (bits v 0 48 + n) % 2 ^ 48 ∧
    bit (counterAdd v n) 48 = (bit v 48 || decide (2 ^ 48 ≤ bits v 0 48 + n)) ∧ counterAdd v n < 2 ^ 49)

/-- A map request that core 3 serves does its work and leaves its status: a map adds its leaves, an unmap drops them, a view shares
another job's pages, a retarget sets the preferred tier; a request that breaks a rule changes no mapping (R278). -/
def Obligations.MapRequestsTakeEffect : Prop :=
  (∀ (s : State) (j : Nat) (p : Path) (r : MapReq), s.dictServed p = true →
    let u := s.wake (.core 3)
    u.reg (K.mapStatus j) ≠ 1 → r.reserved = 0 → r.size ≤ 2 → r.tier ≠ 3 → ¬ (r.pin = true ∧ r.size ≠ 0) → r.srcJob ≤ 63 →
    r.va % mapSpan r.size = 0 → 0 < r.length → r.length % mapSpan r.size = 0 → r.va + r.length ≤ 2 ^ 48 →
    exec (.map j p r) s = .next (settle s ((u.mapRange j r).2.setReg (K.mapStatus j) (u.mapRange j r).1)) ∧
    exec (.unmap j p r) s = .next (settle s ((u.unmapRange j r).2.setReg (K.mapStatus j) (u.unmapRange j r).1)) ∧
    (r.write = false → r.srcVa % mapSpan r.size = 0 → r.srcVa + r.length ≤ 2 ^ 48 →
      exec (.mapAlias j p r) s = .next (settle s ((u.aliasRange j r).2.setReg (K.mapStatus j) (u.aliasRange j r).1))) ∧
    exec (.retarget j p r) s = .next (settle s ((u.retargetRange j r).2.setReg (K.mapStatus j) (u.retargetRange j r).1))) ∧
  (∀ (s : State) (j op : Nat) (r : MapReq), 1 ≤ op → op ≤ 4 → (s.mapRequest op j r).1 ≠ 0 →
    (s.mapRequest op j r).2 = s) ∧
  (∀ (s : State) (j : Nat) (r : MapReq), r.size = 0 → r.pin = false → (s.mem.leaves.any fun l => leafMeets l j r.va r.length) = false →
    (s.mapRange j r).1 = 0 ∧ (s.mapRange j r).2.mem.leaves = s.mem.leaves ++
      (List.range (r.length / 65536)).map fun i => newLeaf j (r.va + 65536 * i) 0 r)

/-! ### Messages and the sideband -/

/-- OD_READ and OD_WRITE are served item by item and answered (R479, R480). A BEACON enters PLCA, its loss leaves it (R483). A whole
request in one sideband frame is served; a fragment that no request awaits is dropped and counted, and 10 ms without the next discard a
partial request (R485, R486). -/
def Obligations.ItemMessagesAndSidebandFrames : Prop :=
  (∀ (s : State) (m : MsgHdr) (b : List Byte), m.path = .sideband → s.pow.standby = true → m.response = false → m.major = 1 →
    m.reserved = 0 → m.status = 0 → s.booted = true → s.coreOut 3 = false → b.length ≤ 4080 →
    let u := (s.wake (.core 3)).bump K.requests 1
    (readBodyStatus b = 0 →
      let x := readBody (fun s i sub => s.odRead .sideband i sub) b u
      exec (.odRead m b) s = .next (settle s (x.2.respond m 0x0020 0 x.1))) ∧
    (readBodyStatus b ≠ 0 → exec (.odRead m b) s = .next (settle s ((s.wake (.core 3)).respond m 0x0020 (readBodyStatus b) []))) ∧
    (∀ l, writeBody b = .ok l →
      let x := writeItems (fun s i => s.odWrite .sideband i.idx i.sub i.ty i.val) l u
      exec (.odWrite m b) s = .next (settle s (x.2.respond m 0x0021 0 (writeResponse l.length x.1))))) ∧
  (∀ (s : State), s.pow.standby = true →
    exec .beacon s = .next (settle s (s.setReg K.sbPlcaState 1)) ∧
    (s.reg K.sbPlcaState = 1 → exec .beaconLoss s = .next (settle s (s.setReg K.sbPlcaState 2))) ∧
    (∀ x, s.sess.sbPartial = some x → exec .sidebandReassemblyTimeout s = .next (settle s
      ((s.modSess fun e => { e with sbPartial := none }).bump K.sbFramesDropped 1))) ∧
    (∀ f, s.sbAccepts f = false → exec (.sidebandFrame f) s = .next (settle s (s.bump K.sbFramesDropped 1))) ∧
    (∀ f, s.sbAccepts f = true → s.sess.sbBusy = none → s.sess.sbPartial = none →
      (f.fragIndex ≠ 0 → exec (.sidebandFrame f) s = .next (settle s (s.bump K.sbFramesDropped 1))) ∧
      (f.fragIndex = 0 → f.fragCount = 1 → exec (.sidebandFrame f) s = .next (settle s
        (((s.bump K.sbFramesRx 1).modSess fun e => { e with sbPartial := none }).sbRequest f.exchange (f.data.take f.fragLen)))) ∧
      (f.fragIndex = 0 → 1 < f.fragCount → exec (.sidebandFrame f) s = .next (settle s
        ((s.bump K.sbFramesRx 1).modSess fun e => { e with sbPartial := some (f.exchange, 1, f.data.take f.fragLen) })))))

/-! ### Jobs -/

/-- A write of job_command in an OPEN session does its command from the states that allow it, and job_error says how it ended: CREATE,
START, PARK, UNPARK, CHECKPOINT and DESTROY (R364, R383). A checkpoint under way ends when its last write is answered; a scrub that is
done leaves the job FREE with every entry at its reset value (R383, R493); a container of this family, version and sound digests is
restored (R271). -/
def Obligations.JobCommandsTakeEffect : Prop :=
  (∀ (s : State) (j : Nat) (p : Path), j < 64 → s.dictServed p = true →
    let u := s.wake (.core 3)
    let v := u.setReg (K.jobError j) 0
    let st := u.reg (K.jobState j)
    u.reg K.sessionState = ssOpen →
    (st = jsFree →
      exec (.create j p) s = .next (settle s (if v.createError j = 0 then (v.createNow j).setReg (K.jobError j) 0
        else v.setReg (K.jobError j) (v.createError j)))) ∧
    (st = jsCreated → exec (.start j p) s = .next (settle s (if v.ringsOk j = true then
        ((v.setReg (K.jobState j) jsRunning).owedJob j).setReg (K.jobError j) 0
      else v.setReg (K.jobError j) 0x03))) ∧
    (st = jsRunning → exec (.park j p) s = .next (settle s ((v.park j 0x04).setReg (K.jobError j) 0))) ∧
    (st = jsParked → exec (.unpark j p) s = .next (settle s ((v.setReg (K.jobState j) jsRunning).setReg (K.jobError j) 0))) ∧
    (st = jsRunning ∨ st = jsParked → (v.job j).ckpt = false → v.reg (K.ckptDest j) ≠ 0 →
      exec (.checkpoint j p) s = .next (settle s ((v.beginCkpt j).setReg (K.jobError j) ((v.beginCkpt j).reg (K.jobError j))))) ∧
    (st = jsCreated ∨ st = jsRunning ∨ st = jsParked →
      exec (.destroy j p) s = .next (settle s ((v.beginScrub j).setReg (K.jobError j) 0)))) ∧
  (∀ (s : State) (j : Nat), s.powered = true → (s.job j).ckpt = true → (s.job j).ckptEnd ≠ 0 →
    (∀ r ∈ s.fab.reqs, ¬ (r.what = 0x03 ∧ r.owner = coreOwner ∧ s.inCkpt j r.node r.addr = true)) →
    (∀ x ∈ s.fab.farFail, s.inCkpt j x.1 x.2.1 = false) →
    exec (.checkpointDone j) s = .next (settle s (s.endCkpt j 0))) ∧
  (∀ (s : State) (j : Nat), j < 64 → s.powered = true → s.reg (K.jobState j) = jsReleasing → (s.job j).scrubbing = true →
    s.reg K.sessionState ≠ ssReleasing →
    ∃ t, exec (.jobScrubDone j) s = .next t ∧ t.reg (K.jobState j) = jsFree ∧ (∀ l ∈ t.mem.leaves, l.job ≠ j) ∧
      (∀ c ∈ t.jobs, c.job ≠ j) ∧ ∀ k, jobIndex j (k / 256) = true → t.reg k = Dict.reset k) ∧
  (∀ (s t u : State) (j : Nat) (c : List Byte) (l : List Section), s.powered = true → s.jobServed j = true →
    s.readContainer c = some l →
    accFold (State.restoreSection j l) ([0x01, 0x03, 0x04, 0x02, 0x05].flatMap fun k => l.filter fun (x : Section) => x.kind == k)
      ((s.evictList j).dropListSlots j) = .ok t →
    accFold (State.deriveSection j l) (l.filter (·.kind == 0x02)) t = .ok u →
    let v := u.modFab fun F => { F with shards := F.shards.filter (·.job != j), served := F.served.filter (·.job != j) }
    exec (.restore j c) s = .next (settle s ((((v.setReg (K.agreedEpoch j) (nb c 16 8)).setReg (K.lossScale j) (nb c 24 4)).setReg
      (K.cleanSteps j) (nb c 28 4)).evictList j)))

/-! ### Power, clocks and pins -/

/-- A governor window starts with its charges and admits waiting clauses (R376). A sample of the input keeps its values, the mean of the
last 25 and the energy; the limiter closes the gate above 102 % of the cap and opens it at the cap (R389, R394). A reading of the die
sensors sets the junction temperature; the gate closes at the limit and opens 3 °C below it; at 110 °C the module trips (R401, R403). At
each window the credits are the cap less the baseline, scaled by h, less the excess (R376, R393). -/
def Obligations.GovernorSamplesAndSensors : Prop :=
  (∀ (s : State) (mj : Nat), s.booted = true → s.svc.coreDown.contains 0 = false → s.trust.updateReq = none → s.pow.pllStopped = false →
    exec (.governorWindow mj) s = .next (settle s (admitWaiting ((s.wake (.core 0)).windowStart mj)))) ∧
  (∀ (s : State) (mj : Nat), s.clauses = [] →
    let t := s.windowStart mj
    let excess := mj * 1000000 - s.gov.charged
    let base := basePrev ((excess :: s.gov.baselines).take 16)
    t.gov.credit = (((s.reg K.powerCap * 1000000 - base) * s.thermalH / 10000 - (excess - base) : Nat) : Int) ∧ t.gov.charged = 0) ∧
  (∀ (s : State) (mv ma : Nat), s.pow.standby = true →
    ∃ t, exec (.powerSample mv ma) s = .next t ∧ t.reg K.inputMv = mv ∧ t.reg K.inputMa = ma ∧
      t.gov.samples = ((mv, ma) :: s.gov.samples).take 25 ∧ t.reg K.inputMw = meanMw (((mv, ma) :: s.gov.samples).take 25) ∧
      (s.powered = true →
        (t.reg K.inputMw * 100 > s.reg K.powerCap * 1000 * 102 → t.gov.gateLimiter = true) ∧
        (t.reg K.inputMw ≤ s.reg K.powerCap * 1000 → t.gov.gateLimiter = false))) ∧
  (∀ (s : State) (l : List Int), s.powered = true → l.length = 32 →
    let u := (List.range 32).foldl (State.judgeSensor l) s
    let tj := u.junctionOf l
    let v := (u.setReg K.junction (tj % 2 ^ 32).toNat).gateTime
    let limit : Int := 1000 * (v.reg K.junctionLimit : Int)
    (110000 ≤ tj → exec (.dieSensorRead l) s = .next (settle s v.thermalTrip)) ∧
    (tj < 110000 → v.gov.gateThermal = false → limit ≤ tj → exec (.dieSensorRead l) s = .next (settle s (v.setThermalGate true tj))) ∧
    (tj < 110000 → v.gov.gateThermal = true → tj ≤ limit - 3000 →
      exec (.dieSensorRead l) s = .next (settle s (v.setThermalGate false tj))) ∧
    (tj < 110000 → (v.gov.gateThermal = false ∧ tj < limit ∨ v.gov.gateThermal = true ∧ limit - 3000 < tj) →
      exec (.dieSensorRead l) s = .next (settle s v)))

/-- The standby domain starts above 38 V and stops with the input; with the rails on a deep dip, a rise and a rail's loss turn them off
with their causes, a shallow one is told; rails come up and go off group by group (R386 to R388, R390, R392). -/
def Obligations.InputAndRailsTakeEffect : Prop :=
  (∀ (s : State) (mv slot : Nat), s.pow.standby = false → 38000 ≤ mv →
    ∃ t, exec (.standbyStart mv slot) s = .next t ∧ t.pow.standby = true ∧ t.pow.inrushDone = false ∧ t.pow.railsUp = 0 ∧
      t.reg K.slotId = slot % 8 ∧ t.reg K.pllLocked = 0 ∧ t.part = s.part) ∧
  (∀ (s : State), s.pow.standby = true →
    ∃ t, exec .standbyStop s = .next t ∧ t.pow.standby = false ∧ t.pow.railsUp = 0 ∧ t.tick = 0 ∧ t.mem = State.reset.mem) ∧
  (∀ (s : State), s.pow.standby = true → exec .inrushEnd s = .next (settle s
    (({ s with pow := { s.pow with inrushDone := true } } : State).railsStart))) ∧
  (∀ (s : State) (mv us : Nat), s.railsOn = true →
    (mv < 38000 → 10 ≤ us → exec (.inputUndervoltage mv us) s = .next (settle s
      (((s.railsDrop 2 false true).bump32 K.inputFaults 1).latchAlert 0x10))) ∧
    (mv < 40000 → (38000 ≤ mv ∨ us < 10) → exec (.inputUndervoltage mv us) s = .next (settle s (s.postSession 0x54 0xFF (leBytes 4 mv)))) ∧
    (61000 < mv → 10 ≤ us → exec (.inputOvervoltage mv us) s = .next (settle s
      (((s.railsDrop 3 true false).bump32 K.inputFaults 1).latchAlert 0x10))) ∧
    (60000 < mv → (mv ≤ 61000 ∨ us < 10) → exec (.inputOvervoltage mv us) s = .next (settle s
      (s.postSession 0x54 0xFF (leBytes 4 mv)))) ∧
    (∀ g, 1 ≤ g → g ≤ s.pow.railsUp → exec (.railFault g) s = .next (settle s
      (((s.railsDrop 4 true false).bump32 K.inputFaults 1).latchAlert 0x10)))) ∧
  (∀ (s : State) (mv us : Nat), s.pow.uvWait = true → 40000 ≤ mv → 10 ≤ us →
    exec (.undervoltageRecovery mv us) s = .next (settle s (({ s with pow := { s.pow with uvWait := false } } : State).railsStart))) ∧
  (∀ (s : State), s.pow.standby = true → s.pow.railsWant = true → s.pow.railsUp < 6 →
    exec (.railGroupGood (s.pow.railsUp + 1)) s = .next (settle s { s with pow := { s.pow with railsUp := s.pow.railsUp + 1 } })) ∧
  (∀ (s : State), s.pow.railsWant = false → 1 ≤ s.pow.railsUp →
    exec (.railGroupOff s.pow.railsUp) s = .next (settle s
      (({ s with pow := { s.pow with railsUp := s.pow.railsUp - 1 } } : State).railsStart)))

/-- The PLLs lock after the rails, lose lock with the commands they clock, and lock again (R391, R396). Recognised inputs sequence the
rails, hold and release the reset, and begin and end a power-fail hold; a raw edge restarts the glitch filter (R390 to R392, R404 to
R407). A quiet unit enters Idle, a unit with no admitted clause Nap, and one with no job bound Off, its contents lost (R398, R517). With
every unit in Nap or Off memory enters self-refresh (R399). -/
def Obligations.ClocksPinsAndRestingUnits : Prop :=
  ((∀ (s : State), s.pow.railsWant = true → s.pow.railsUp = 6 → s.pow.inReset = true →
    exec .pllLock s = .next (settle s (s.setReg K.pllLocked 7).releaseReset)) ∧
  (∀ (s : State) (p : Nat), s.powered = true → s.pow.pllStopped = false → p ≤ 2 →
    (bit (s.reg K.pllLocked) p = true →
      let t := ((s.setReg K.pllLocked (setBit (s.reg K.pllLocked) p false)).bump32 K.pllUnlocks 1).latchAlert 0x80
      exec (.pllUnlock p) s = .next (settle s ((pllQueues p).foldl (fun s q => s.strike q 0x30 (0xFFFFFFFFFFFFFF00 + p))
        (t.postSession 0x55 0xFF (leBytes 1 p))))) ∧
    exec (.pllRelock p) s = .next (settle s (s.setReg K.pllLocked (setBit (s.reg K.pllLocked) p true)))) ∧
  (∀ (s : State), s.pow.standby = true →
    (s.pow.inrushDone = true → s.input 0 = false → (s.recognise 0 true).reg K.moduleState ≠ 2 →
      exec .modEnAssert s = .next (settle s (s.recognise 0 true).railsStart)) ∧
    (s.input 0 = true → s.railsOn = true →
      let t := ((s.recognise 0 false).fastLost.setReg K.lastOffCause 0x01).setReg K.pllLocked 0
      exec .modEnDeassert s = .next (settle s { t with pow := { t.pow with railsWant := false, rearm := false } })) ∧
    (s.input 1 = false → s.railsOn = true → exec .modRstAssert s = .next (settle s
      (if (s.recognise 1 true).railsOn then (s.recognise 1 true).fastLost else s.recognise 1 true))) ∧
    (s.input 1 = true → ∀ slot, ∃ t, exec (.modRstRelease slot) s = .next t ∧ t.tick = 0 ∧ bit (t.reg K.inputs) 1 = false ∧
      (slot % 8 ≠ s.reg K.slotId → t.reg K.slotIdMismatch = 1)) ∧
    (s.input 2 = false → s.booted = true → exec .pfwHold s = .next (settle s (s.recognise 2 true).beginHold)) ∧
    (s.input 2 = true → s.pow.inHold = true →
      let u := s.recognise 2 false
      let t : State := { u with pow := { u.pow with inHold := false }, gov := { u.gov with gatePfw := false } }
      exec .pfwRelease s = .next (settle s (t.postSession 0x51 0xFF (leBytes 8 (u.tick - u.pow.pfwSince))))) ∧
    (∀ p level, bit s.pow.rawLevel (pinBit p) ≠ pinAsserts p level →
      let i := pinBit p
      let f := s.filteredNow i
      let t := if bit s.pow.rawLevel i ≠ f then s.bump32 K.glitches 1 else s
      exec (.rawInputEdge p level) s = .next (settle s { t with pow := { t.pow with
        rawLevel := setBit s.pow.rawLevel i (pinAsserts p level), filtered := setBit s.pow.filtered i f
        rawSince := s.pow.rawSince.set i s.tick } })))) ∧
  ((∀ (s : State) (u : PowerUnit), s.powered = true → s.hasUnit u = true →
    (s.powerOf u = 0 → s.unitQuiet u = true → exec (.unitIdleEntry u) s = .next (settle s (s.setPower u 1))) ∧
    (s.powerOf u < 2 → s.mayNap u = true → exec (.napDelayExpiry u) s = .next (settle s (s.setPower u 2).restIfAllNap)) ∧
    (s.powerOf u < 3 → s.mayNap u = true → s.unbound u = true →
      exec (.offDelayExpiry u) s = .next (settle s ((s.unitOff u).setPower u 3).restIfAllNap))) ∧
  (∀ (s : State), s.allNap = true → s.reg K.deepIdle ≠ 1 → s.restIfAllNap = { s with pow := { s.pow with selfRefresh := true } }) ∧
  (∀ (s : State) (k : Nat) (e : Ee), s.ees[k]? = some e → ((s.unitOff (.ee k)).ee k).cache = [] ∧ ((s.unitOff (.ee k)).ee k).mapCache = [] ∧
    ((s.unitOff (.ee k)).ee k).sketch = [] ∧ ((s.unitOff (.ee k)).ee k).holder = none))

/-! ### Service, control cores and safe stop -/

/-- A service request with the service role removes, tests or returns its unit, or leaves the status that refuses it (R428, R429);
removals under way go on and end; a self-test ends as passed or failed. A watchdog takes its core down and is journalled; the core's
restart reads its journal, is told, and the third within 10 minutes degrades the module (R380 to R382). A lockstep mismatch is a safe
stop: the gate closes, the module is STOPPED, the rails go off with cause 0x06 (R412, R425). -/
def Obligations.ServiceAndCoresRestart : Prop :=
  ((∀ (s : State) (p : Path) (r : ServiceReq), s.dictServed p = true →
    let u := s.wake (.core 3)
    1 ≤ u.roleOf p → 1 ≤ r.cls → r.cls ≤ 8 →
    (∀ op i, (op, i) ∈ [(1, Instr.serviceRemove p r), (2, .serviceTest p r), (3, .serviceReturn p r)] →
      ∀ v, u.requestRefusal op r = some v → exec i s = .next (settle s (u.setReg K.serviceStatus v))) ∧
    (u.requestRefusal 1 r = none → u.svcUp r.cls r.unit = true → u.runOn r.cls r.unit = none → u.svcLast r.cls r.unit = false →
      (r.cls = 3 ∨ r.cls = 4 ∨ r.cls = 5 → u.roomFor r.cls r.unit = true) →
      (r.cls = 6 → (u.setReg (svcKey 6 r.unit) 1).packageRoom r.unit = true) →
      exec (.serviceRemove p r) s = .next (settle s ((u.beginRemoval {
        op := 1, cls := r.cls, unit := r.unit, mode := r.mode, byFault := false, after := 0, since := u.tick }).setReg K.serviceStatus 0x01))) ∧
    (u.requestRefusal 1 r = none → u.svcUp r.cls r.unit = true → u.runOn r.cls r.unit = none → u.svcLast r.cls r.unit = true →
      exec (.serviceRemove p r) s = .next (settle s (u.setReg K.serviceStatus 0x04))) ∧
    (u.requestRefusal 2 r = none → u.svcState r.cls r.unit = 2 ∨ u.svcState r.cls r.unit = 4 →
      exec (.serviceTest p r) s = .next (settle s ((u.beginTest {
        op := 2, cls := r.cls, unit := r.unit, mode := 0, byFault := false, after := 0, since := u.tick }).setReg K.serviceStatus 0x01))) ∧
    (u.requestRefusal 3 r = none → u.svcState r.cls r.unit = 2 →
      exec (.serviceReturn p r) s = .next (settle s ((u.returnUnit r.cls r.unit).setReg K.serviceStatus 0x00)))) ∧
  (∀ (s t : State) (r : ServiceRun), s.powered = true → s.svc.runs = [r] → r.op = 1 → s.advance r = (t, true) →
    exec .serviceRemovalDone s = .next (settle s (t.endRemoval r))) ∧
  (∀ (s : State) (r : ServiceRun) (pass : Bool), s.powered = true → s.svc.runs.find? (·.op == 2) = some r →
    exec (.selfTestDone pass) s = .next (settle s (s.endTest r pass)))) ∧
  ((∀ (s : State) (c : Nat), s.booted = true → c ≤ 3 → s.svc.coreDown.contains c = false → s.powerOf (.core c) = 0 →
    let u : State := { s with svc := { s.svc with coreDown := s.svc.coreDown ++ [c], coreLog := (c, s.tick) :: s.svc.coreLog } }
    exec (.watchdogExpiry c) s = .next (settle s (u.detected.handle 0x05 0x09 c none 0xFF 0 0))) ∧
  (∀ (s : State) (c : Nat), s.powered = true → 2 ≤ c → s.svc.coreDown.contains c = true →
    let u : State := { s with svc := { s.svc with coreDown := s.svc.coreDown.filter (· != c) } }
    let v := (u.setPower (.core c) 0).bump32 (K.coreRestarts c) 1
    let at' := ((v.svc.coreLog.find? (·.1 == c)).map (·.2)).getD 0
    let n := v.recentRestarts c
    let t := v.postSession 0x41 0xFF (leBytes 1 c ++ leBytes 1 n ++ zeros 6 ++ leBytes 8 at')
    exec (.fwCoreRestart c) s = .next (settle s (if n ≥ 3 then t.degrade 0x02 else t))) ∧
  (∀ (s : State), s.powered = true → ∃ t, exec .lockstepMismatch s = .next t ∧ t.reg K.moduleState = 2 ∧ t.reg K.lastOffCause = 0x06 ∧
    t.pow.railsUp = 0 ∧ t.pow.rearm = true ∧ t.gov.gateStop = true))

/-! ### The trust core -/

/-- Boot verifies the preferred images and completes with them (R446, R447); an image that has run raises its counter and blows its
revocations (R443). FW_STAGE writes the staging area; FW_ACTIVATE verifies what is staged and rejects it with its cause, stages a trusted
image or begins the update of a control image (R378, R445). The update ends with the new image, or rolls back to the old (R379). -/
def Obligations.BootAndUpdateTakeEffect : Prop :=
  (∀ (s t u : State) (x : Nat) (failed : List Nat), s.powered = true → s.reg K.bootStatus = 0 → s.bootTrusted = some t →
    t.trySlots 2 (t.slotOrder 2) = (some x, u) → exec (.bootComplete failed) s = .next (settle s (u.bootDone x failed))) ∧
  (∀ (s : State) (failed : List Nat), s.powered = true → s.reg K.bootStatus = 0 → s.bootTrusted = none →
    exec (.bootComplete failed) s = .next (settle s s.trustedFailed)) ∧
  (∀ (s : State) (d : Nat × Nat × Nat), s.powered = true → s.trust.fusesDue.find? (fun x => x.1 == d.1) = some d →
    ∃ t, exec (.fuseCommit d.1) s = .next t ∧ t.rollbackAt (d.1 - 1) = max (s.rollbackAt (d.1 - 1)) d.2.1 ∧
      t.part.revoked = s.part.revoked ||| d.2.2 * 2 ^ (16 * (d.1 - 1))) ∧
  (∀ (s : State) (m : MsgHdr) (b : List Byte), m.path = .sideband → s.pow.standby = true → m.response = false → m.major = 1 →
    m.reserved = 0 → m.status = 0 → s.booted = true → s.coreOut 3 = false →
    let u := s.wake (.core 3)
    (8 ≤ b.length → b.length ≤ 4080 → nb b 0 4 + (b.length - 8) ≤ imageMax → nb b 4 4 = 0 →
      exec (.fwStage m b) s = .next (settle s ((u.modTrust fun t => { t with
        staging := writeRun t.staging (nb b 0 4) (b.drop 8) }).respond m 0x0010 0 []))) ∧
    (b.length = 4 → u.reg K.bootStatus = 1 → nb b 0 4 ≤ imageMax →
      let i := readRun u.trust.staging 0 (nb b 0 4)
      let c := u.verifyImage [1, 2] i
      (c ≠ 0 → exec (.fwActivate m b) s = .next (settle s ((u.rejectImage c).answerActivate m 0x0009))) ∧
      (c = 0 → u.svc.coreDown = [] → imgKind i = 1 → exec (.fwActivate m b) s = .next (settle s (u.stageTrusted m i))) ∧
      (c = 0 → u.svc.coreDown = [] → imgKind i ≠ 1 → u.interfaceRefused i = false →
        exec (.fwActivate m b) s = .next (settle s (u.modTrust fun t => { t with
          newImage := i, updateReq := some m, pauseTick := u.tick }))))) ∧
  (∀ (s : State) (m : MsgHdr), s.trust.updateReq = some m →
    exec (.updateHandoverDone true) s = .next (settle s (s.updateDone m)) ∧
    exec (.updateHandoverDone false) s = .next (settle s (s.rollBack m 0x01)) ∧
    exec .handoverDeadline s = .next (settle s (s.rollBack m 0x02)))

/-- A nonce begins a report, which is signed when it is ready (R449, R450). A challenge is drawn by its read; a token that checks unlocks
debug for its lifetime, one that does not is refused; a lock or the lifetime's end locks it, its entries return to 0, and the challenge is
over after 600 s (R453 to R455). -/
def Obligations.AttestationAndDebugTakeEffect : Prop :=
  (∀ (s : State) (v : OdVal), s.trust.updateReq = none → s.dictServed v.path = true →
    let u := s.wake (.core 3)
    (u.writeChecks v.path 0x2A20 1 v.ty v.bytes = .ok → u.reg K.attestStatus ≠ 1 →
      exec (.attestNonce v) s = .next (settle s
        ((u.modTrust fun t => { t with nonce := some (leNat v.bytes) }).setReg K.attestStatus 1))) ∧
    (u.writeChecks v.path 0x5000 2 v.ty v.bytes = .ok →
      (u.tokenOk v.bytes = true → exec (.debugToken v) s = .next (settle s ((u.modTrust fun x => { x with
        unlocked := true, everUnlocked := true, scope := nb v.bytes 48 4, challenge := none
        lifetime := u.tick + nb v.bytes 52 4 * ticksPerSecond }).setReg K.debugStatus 1))) ∧
      (u.tokenOk v.bytes = false → exec (.debugToken v) s = .next (settle s (u.refuseItem .refused 0x5000 2).tokenRefused))) ∧
    (u.writeChecks v.path 0x5000 4 v.ty v.bytes = .ok → leNat v.bytes = 1 → exec (.debugLock v) s = .next (settle s u.endDebug))) ∧
  (∀ (s : State) (p : Path), s.dictServed p = true →
    let u := s.wake (.core 3)
    1 ≤ u.roleOf p →
    exec (.debugChallenge p) s = .next (settle s (u.modTrust fun t => { t with challenge := some (u.randomVal 3 % 2 ^ 256) }))) ∧
  (∀ (s : State) (n : Nat), s.powered = true → s.trust.updateReq = none → s.reg K.attestStatus = 1 → s.trust.nonce = some n →
    exec .attestReportReady s = .next (settle s
      ((s.modTrust fun t => { t with report := s.signedReport n, nonce := none }).setReg K.attestStatus 2))) ∧
  (∀ (s : State), exec .challengeExpiry s = .next (settle s (s.modTrust fun t => { t with challenge := none }))) ∧
  (∀ (s : State), s.trust.unlocked = true → exec .debugLifetimeEnd s = .next (settle s s.endDebug) ∧
    ((∀ q ∈ allQueues, ∀ Q h, s.queue q = some Q → Q.halt = some h → h.reason ≠ 0xF0) →
      s.endDebug = (((s.modTrust fun t => { t with unlocked := false, scope := 0, lifetime := 0 }).setReg K.debugStatus 0).setReg
        K.physicalBinding 0).setReg K.liveCodeWrite 0))

/-! ### Records -/

/-- The halt record is 32 bytes, with its fields at their places (R100). -/
def Obligations.HaltRecordsAreLaidOut : Prop :=
  ∀ (addr reason cls phys logical job opcode idx detail seq progress : Nat) (resumable begun : Bool),
    addr < 2 ^ 64 → reason < 2 ^ 8 → cls < 16 → phys < 2 ^ 8 → logical < 2 ^ 8 → job < 64 → opcode < 2 ^ 8 → idx < 2 ^ 16 →
    detail < 2 ^ 64 → seq < 2 ^ 32 → progress < 2 ^ 32 →
    let r := haltRecord addr reason cls resumable begun phys logical job opcode idx detail seq progress
    r.length = 32 ∧ nb r 0 8 = addr ∧ nb r 8 1 = reason ∧ bits (nb r 9 1) 0 4 = cls ∧ bit (nb r 9 1) 4 = resumable ∧
    bit (nb r 9 1) 5 = begun ∧ bits (nb r 9 1) 6 2 = 0 ∧ nb r 10 1 = phys ∧ nb r 11 1 = logical ∧ bits (nb r 12 1) 0 6 = job ∧
    bits (nb r 12 1) 6 2 = 0 ∧ nb r 13 1 = opcode ∧ nb r 14 2 = idx ∧ nb r 16 8 = detail ∧ nb r 24 4 = seq ∧ nb r 28 4 = progress

/-- Event entries and completion entries have their fields at their places (R367, R369). -/
def Obligations.RingEntriesAreLaidOut : Prop :=
  (∀ (code phase job seq tick : Nat) (payload : List Byte), code < 2 ^ 16 → phase < 2 → job < 2 ^ 8 → seq < 2 ^ 32 → tick < 2 ^ 64 →
    payload.length ≤ 48 →
    let e := eventEntry code phase job seq tick payload
    e.length = 64 ∧ nb e 0 2 = code ∧ bit (nb e 2 1) 7 = decide (phase = 1) ∧ bits (nb e 2 1) 0 7 = 0 ∧ nb e 3 1 = job ∧
    nb e 4 4 = seq ∧ nb e 8 8 = tick ∧ (e.drop 16).take payload.length = payload) ∧
  (∀ (tag seq state cls logical tick idx : Nat) (ovf nf : Bool) (h : List Byte), tag < 2 ^ 64 → seq < 2 ^ 32 → state < 4 → cls < 16 →
    logical < 2 ^ 8 → tick < 2 ^ 64 → idx < 2 ^ 32 → h.length = 32 →
    let e := completionEntry tag seq state ovf nf cls logical h tick idx
    e.length = 64 ∧ nb e 0 8 = tag ∧ nb e 8 4 = seq ∧ bits (nb e 12 1) 0 2 = state ∧ bits (nb e 12 1) 2 6 = 0 ∧
    bit (nb e 13 1) 0 = ovf ∧ bit (nb e 13 1) 1 = nf ∧ bits (nb e 13 1) 2 6 = 0 ∧ nb e 14 1 = cls ∧ nb e 15 1 = logical ∧
    (e.drop 16).take 32 = h ∧ nb e 48 8 = tick ∧ nb e 56 4 = idx ∧ nb e 60 4 = 0)

/-! ### Frames -/

/-- Bytes stored read back, and every other byte of a byte space is as before. -/
def Obligations.StoredBytesReadBack : Prop :=
  ∀ (m : Bytes) (a : Nat) (bs : List Byte),
    readRun (writeRun m a bs) a bs.length = bs ∧
    (∀ b, b < a ∨ a + bs.length ≤ b → byteAt (writeRun m a bs) b = byteAt m b) ∧
    ∀ n b, byteAt (clearRun m a n) b = if a ≤ b ∧ b < a + n then 0 else byteAt m b

/-- A write to a page that rests in tier 0, and whose stack is not held, stores its bytes in the page's frame and nowhere else; beside them
only the counters of the stack, and the marks of an accessed page, change (R273, R274, R294). -/
def Obligations.WritesReachTheirFrameAlone : Prop :=
  ∀ (s : State) (j off : Nat) (bs : List Byte) (l : Leaf), s.ownNode ≤ 16383 → off < 2 ^ 48 → bs ≠ [] →
    bs.length ≤ 65536 - off % 65536 → s.leafOf j off = some l → l.write = true → l.allocated = true → l.migrating = false →
    l.src = none → l.tier = 0 → s.inStash j off = false →
    let a := l.frame * 65536 + (off - l.va)
    s.stackHeld a = false → s.liveIn a bs.length = none → s.poisonPart a bs.length = none →
    ∃ t, s.writeVa j (2 ^ 48 * s.ownNode + off) bs = .ok t ∧ readRun t.mem.bytes a bs.length = bs ∧
      (∀ b, b < a ∨ a + bs.length ≤ b → byteAt t.mem.bytes b = byteAt s.mem.bytes b) ∧
      (∀ i, ¬ (0x288000 ≤ i ∧ i < 0x28D300) → t.reg i = s.reg i) ∧ t.phrases = s.phrases ∧ t.ees = s.ees ∧
      t.slices = s.slices ∧ t.fab = s.fab ∧ t.clauses = s.clauses ∧ t.jobs = s.jobs

/-- A write of local bytes changes the bytes of its resource alone, and those it names read back: another resource of the phrase that does
not overlap, and every other phrase, is as before (R74). -/
def Obligations.LocalWritesReachTheirBytesAlone : Prop :=
  (∀ (c : PhraseCtx) (r off : Nat) (bs : List Byte) (b n : Nat), c.locOf r = some (.store b n) →
    (c.writeLocal r off bs).readLocal r off bs.length = bs ∧ (c.writeLocal r off bs).spill = c.spill ∧
    ∀ a, a < b + off ∨ b + off + bs.length ≤ a → byteAt (c.writeLocal r off bs).store a = byteAt c.store a) ∧
  (∀ (c : PhraseCtx) (r off : Nat) (bs : List Byte) (i : Nat), c.locOf r = some (.tile i) →
    (c.writeLocal r off bs).store = c.store ∧ ∀ k, k ≠ i → (c.writeLocal r off bs).tile k = c.tile k) ∧
  (∀ (s : State) (n m : Nat) (f : PhraseCtx → PhraseCtx), m ≠ n → (s.modCtx n f).ctx m = s.ctx m)

/-- Issue of a command changes the power state of its unit, its queue's sampler and its counters alone. A command that completes while its
clause goes on changes its own queue and clause alone, its counters apart: the bytes of memory, every phrase's job state, steps, jobs,
session, service and trust are as its work left them, but that a halt of an inserted flush may end (R302); and where the queue has no
further command to fetch (R69), all of memory and every
other entry. -/
def Obligations.QueuesAloneChangeAtIssueAndCompletion : Prop :=
  (∀ (s : State) (q : QueueId) (c : QCmd) (cl : Clause),
    let t := s.started q c cl
    t.mem = s.mem ∧ t.tick = s.tick ∧ t.part = s.part ∧ t.saved = s.saved ∧ t.bindings = s.bindings ∧ t.steps = s.steps ∧
    t.jobs = s.jobs ∧ t.sess = s.sess ∧ t.gov = s.gov ∧ t.svc = s.svc ∧ t.trust = s.trust ∧ t.clauses = s.clauses ∧
    (∀ n, t.ctx n = s.ctx n) ∧ (∀ p, s.queue p = none → t.queue p = none) ∧
    ∀ p P, s.queue p = some P → ∃ R, t.queue p = some R ∧ R.cmds = P.cmds ∧ R.infl = P.infl ∧ R.halt = P.halt ∧ R.held = P.held) ∧
  (∀ (s u : State) (q : QueueId) (Q : Queue) (c : QCmd) (rest : List QCmd) (cl : Clause), u.queue q = some Q → Q.cmds = c :: rest →
    u.clause c.seq = some cl → Q.tagged = none → (∃ x ∈ rest, x.seq = c.seq) → q ∈ allQueues →
    let t := retired s u q
    t.mem.bytes = u.mem.bytes ∧ t.mem.window = u.mem.window ∧ t.mem.rb = u.mem.rb ∧ t.mem.poison = u.mem.poison ∧
    t.tick = u.tick ∧ t.part = u.part ∧ t.saved = u.saved ∧ t.bindings = u.bindings ∧
    (t.steps.map fun x => { x with flushHalts := [] }) = (u.steps.map fun x => { x with flushHalts := [] }) ∧
    t.jobs = u.jobs ∧ t.sess = u.sess ∧ t.gov = u.gov ∧ t.svc = u.svc ∧ t.trust = u.trust ∧ (∀ n, t.ctx n = u.ctx n) ∧
    (∀ e ∈ t.clauses, e.seq ≠ c.seq → e ∈ u.clauses) ∧
    (Q.unread = [] → t.mem = u.mem ∧ t.fab.reqs = u.fab.reqs ∧
      ∀ i, ¬ (0x101101 ≤ i ∧ i ≤ 0x101108) → i ≠ K.alertStatus → ¬ (0x288000 ≤ i ∧ i < 0x28D300) → t.reg i = u.reg i))

/-! ### Steps -/

/-- A step runs the command at the front of the queue on the state with the queue's rest. -/
def Obligations.StepsRunTheFrontCommand : Prop :=
  ∀ (c : Instr) (rest : List Instr) (s : State), step { s with pending := c :: rest } = exec c { s with pending := rest }

/-- On an empty queue a step is one tick of the AON clock while standby power is present, and nothing else: the model's choice (log 1). -/
def Obligations.EmptyQueuesCountATick : Prop :=
  ∀ s : State, s.pending = [] →
    step s = .next (if s.pow.standby = true then { s with tick := s.tick + 1 } else s)

/-- Every command of the table answers a next state, in every state; it takes nothing else from the queue of waiting commands and puts
nothing into it, and the next free value is a fresh one. -/
def Obligations.EveryCommandAnswers : Prop :=
  ∀ (c : Instr) (s : State), ∃ t, exec c s = .next t ∧ t.pending = s.pending ∧ t.free = s.free + 1 ∧ t.settled

/-- After reset the state is settled and its byte spaces and entries are in canonical form: nothing is listed, and every entry holds its
reset value; no command waits, no job is resident and no clause is admitted. -/
def Obligations.ResetIsSettledAndFormed : Prop :=
  State.reset.settled ∧ State.reset.formed ∧ State.reset.mem.bytes = [] ∧ State.reset.pending = [] ∧ State.reset.clauses = [] ∧
  State.reset.steps = [] ∧ State.reset.tick = 0 ∧ (∀ j < 64, State.reset.reg (K.jobState j) = 0) ∧
  ∀ q ∈ allQueues, ∃ Q, State.reset.queue q = some Q ∧ Q.cmds = [] ∧ Q.infl = none ∧ Q.halt = none

/-- Every step keeps the state settled: the alert output and the level bits of alert_status follow their conditions (R408), and the
in-service entries what is in service (R34). -/
def Obligations.StepsKeepTheStateSettled : Prop :=
  ∀ s t : State, s.settled → step s = .next t → t.settled

/-- A run of any length, over any waiting commands, from any settled state neither faults nor is refused, and ends settled. -/
def Obligations.EveryRunIsSafe : Prop :=
  ∀ (n : Nat) (s : State), s.settled → safeRun n s
end

