-- ==== Sys2Proof/Laws/State.lean ====
section
/-! SUPPORT. One lemma per field per update of the state, and the read-back of a dictionary entry. -/

namespace Sys2Proof.Machine

/-! ### The dictionary -/

theorem cellGet_insert_self {α : Type} (d : α) (k : Nat) (v : α) (l : List (Nat × α)) (h : ∀ c ∈ l, c.1 ≠ k) :
    cellGet d k (cellInsert k v l) = v := by
  induction l with
  | nil => simp [cellInsert, cellGet]
  | cons c t ih =>
    have hc : c.1 ≠ k := h c List.mem_cons_self
    simp only [cellInsert]
    split
    · simp [cellGet]
    · simp [cellGet, hc, ih fun x hx => h x (List.mem_cons_of_mem _ hx)]

theorem cellGet_insert_ne {α : Type} (d : α) (k k' : Nat) (v : α) (l : List (Nat × α)) (h : k ≠ k') :
    cellGet d k' (cellInsert k v l) = cellGet d k' l := by
  induction l with
  | nil => simp [cellInsert, cellGet, h]
  | cons c t ih =>
    simp only [cellInsert]
    split
    · simp [cellGet, h]
    · simp [cellGet, ih]

theorem cellGet_absent {α : Type} (d : α) (k : Nat) (l : List (Nat × α)) (h : ∀ c ∈ l, c.1 ≠ k) : cellGet d k l = d := by
  induction l with
  | nil => rfl
  | cons c t ih => simp [cellGet, h c List.mem_cons_self, ih fun x hx => h x (List.mem_cons_of_mem _ hx)]

theorem cellGet_filter_ne {α : Type} (d : α) (k k' : Nat) (l : List (Nat × α)) (h : k ≠ k') :
    cellGet d k' (l.filter fun c => c.1 != k) = cellGet d k' l := by
  induction l with
  | nil => rfl
  | cons c t ih =>
    by_cases hc : c.1 = k
    · simp [hc, cellGet, ih, h]
    · simp [hc, cellGet, ih]

/-- What is put under a key is read back under it. -/
theorem cellGet_put_self {α : Type} [DecidableEq α] (d : α) (k : Nat) (v : α) (l : List (Nat × α)) :
    cellGet d k (cellPut d k v l) = v := by
  have h : ∀ c ∈ l.filter (fun c => c.1 != k), c.1 ≠ k := fun c hc => by simpa using (List.mem_filter.mp hc).2
  unfold cellPut
  split
  · next e => rw [cellGet_absent _ _ _ h, e]
  · exact cellGet_insert_self _ _ _ _ h

/-- Other keys keep their values. -/
theorem cellGet_put_ne {α : Type} [DecidableEq α] (d d' : α) (k k' : Nat) (v : α) (l : List (Nat × α)) (h : k ≠ k') :
    cellGet d' k' (cellPut d k v l) = cellGet d' k' l := by
  unfold cellPut
  split
  · exact cellGet_filter_ne _ _ _ _ h
  · rw [cellGet_insert_ne _ _ _ _ _ h, cellGet_filter_ne _ _ _ _ h]

/-- An entry that is set reads as it was set. -/
@[simp] theorem State.reg_setReg (s : State) (k v : Nat) : (s.setReg k v).reg k = v := cellGet_put_self _ _ _ _

/-- Setting an entry leaves every other entry. -/
theorem State.reg_setReg_ne (s : State) (k k' v : Nat) (h : k ≠ k') : (s.setReg k v).reg k' = s.reg k' :=
  cellGet_put_ne _ _ _ _ _ _ h

/-- A counter entry reads as its value advanced, modulo 2^64. -/
@[simp] theorem State.reg_bump (s : State) (k n : Nat) : (s.bump k n).reg k = (s.reg k + n) % 2 ^ 64 := by
  simp [State.bump, State.bumpW]

theorem State.reg_bump_ne (s : State) (k k' n : Nat) (h : k ≠ k') : (s.bump k n).reg k' = s.reg k' :=
  State.reg_setReg_ne _ _ _ _ h

/-- A 32-bit counter entry reads as its value advanced, modulo 2^32. -/
@[simp] theorem State.reg_bump32 (s : State) (k n : Nat) : (s.bump32 k n).reg k = (s.reg k + n) % 2 ^ 32 := by
  simp [State.bump32, State.bumpW]

theorem State.reg_bump32_ne (s : State) (k k' n : Nat) (h : k ≠ k') : (s.bump32 k n).reg k' = s.reg k' :=
  State.reg_setReg_ne _ _ _ _ h

/-- An entry depends on the dictionary alone. -/
theorem State.reg_congr {s t : State} (h : t.regs = s.regs) (k : Nat) : t.reg k = s.reg k := by simp [State.reg, h]

/-! ### One lemma per field per update -/


@[simp] theorem State.setReg_pending (s : State) (k v : Nat) : (s.setReg k v).pending = s.pending := rfl
@[simp] theorem State.setReg_free (s : State) (k v : Nat) : (s.setReg k v).free = s.free := rfl
@[simp] theorem State.setReg_tick (s : State) (k v : Nat) : (s.setReg k v).tick = s.tick := rfl
@[simp] theorem State.setReg_part (s : State) (k v : Nat) : (s.setReg k v).part = s.part := rfl
@[simp] theorem State.setReg_mem (s : State) (k v : Nat) : (s.setReg k v).mem = s.mem := rfl
@[simp] theorem State.setReg_phrases (s : State) (k v : Nat) : (s.setReg k v).phrases = s.phrases := rfl
@[simp] theorem State.setReg_ees (s : State) (k v : Nat) : (s.setReg k v).ees = s.ees := rfl
@[simp] theorem State.setReg_slices (s : State) (k v : Nat) : (s.setReg k v).slices = s.slices := rfl
@[simp] theorem State.setReg_saved (s : State) (k v : Nat) : (s.setReg k v).saved = s.saved := rfl
@[simp] theorem State.setReg_bindings (s : State) (k v : Nat) : (s.setReg k v).bindings = s.bindings := rfl
@[simp] theorem State.setReg_clauses (s : State) (k v : Nat) : (s.setReg k v).clauses = s.clauses := rfl
@[simp] theorem State.setReg_sched (s : State) (k v : Nat) : (s.setReg k v).sched = s.sched := rfl
@[simp] theorem State.setReg_waiting (s : State) (k v : Nat) : (s.setReg k v).waiting = s.waiting := rfl
@[simp] theorem State.setReg_jobs (s : State) (k v : Nat) : (s.setReg k v).jobs = s.jobs := rfl
@[simp] theorem State.setReg_steps (s : State) (k v : Nat) : (s.setReg k v).steps = s.steps := rfl
@[simp] theorem State.setReg_nextSeq (s : State) (k v : Nat) : (s.setReg k v).nextSeq = s.nextSeq := rfl
@[simp] theorem State.setReg_fab (s : State) (k v : Nat) : (s.setReg k v).fab = s.fab := rfl
@[simp] theorem State.setReg_sess (s : State) (k v : Nat) : (s.setReg k v).sess = s.sess := rfl
@[simp] theorem State.setReg_gov (s : State) (k v : Nat) : (s.setReg k v).gov = s.gov := rfl
@[simp] theorem State.setReg_pow (s : State) (k v : Nat) : (s.setReg k v).pow = s.pow := rfl
@[simp] theorem State.setReg_svc (s : State) (k v : Nat) : (s.setReg k v).svc = s.svc := rfl
@[simp] theorem State.setReg_trust (s : State) (k v : Nat) : (s.setReg k v).trust = s.trust := rfl

@[simp] theorem State.modMem_pending (s : State) (f : Mem → Mem) : (s.modMem f).pending = s.pending := rfl
@[simp] theorem State.modMem_free (s : State) (f : Mem → Mem) : (s.modMem f).free = s.free := rfl
@[simp] theorem State.modMem_tick (s : State) (f : Mem → Mem) : (s.modMem f).tick = s.tick := rfl
@[simp] theorem State.modMem_part (s : State) (f : Mem → Mem) : (s.modMem f).part = s.part := rfl
@[simp] theorem State.modMem_regs (s : State) (f : Mem → Mem) : (s.modMem f).regs = s.regs := rfl
@[simp] theorem State.modMem_phrases (s : State) (f : Mem → Mem) : (s.modMem f).phrases = s.phrases := rfl
@[simp] theorem State.modMem_ees (s : State) (f : Mem → Mem) : (s.modMem f).ees = s.ees := rfl
@[simp] theorem State.modMem_slices (s : State) (f : Mem → Mem) : (s.modMem f).slices = s.slices := rfl
@[simp] theorem State.modMem_saved (s : State) (f : Mem → Mem) : (s.modMem f).saved = s.saved := rfl
@[simp] theorem State.modMem_bindings (s : State) (f : Mem → Mem) : (s.modMem f).bindings = s.bindings := rfl
@[simp] theorem State.modMem_clauses (s : State) (f : Mem → Mem) : (s.modMem f).clauses = s.clauses := rfl
@[simp] theorem State.modMem_sched (s : State) (f : Mem → Mem) : (s.modMem f).sched = s.sched := rfl
@[simp] theorem State.modMem_waiting (s : State) (f : Mem → Mem) : (s.modMem f).waiting = s.waiting := rfl
@[simp] theorem State.modMem_jobs (s : State) (f : Mem → Mem) : (s.modMem f).jobs = s.jobs := rfl
@[simp] theorem State.modMem_steps (s : State) (f : Mem → Mem) : (s.modMem f).steps = s.steps := rfl
@[simp] theorem State.modMem_nextSeq (s : State) (f : Mem → Mem) : (s.modMem f).nextSeq = s.nextSeq := rfl
@[simp] theorem State.modMem_fab (s : State) (f : Mem → Mem) : (s.modMem f).fab = s.fab := rfl
@[simp] theorem State.modMem_sess (s : State) (f : Mem → Mem) : (s.modMem f).sess = s.sess := rfl
@[simp] theorem State.modMem_gov (s : State) (f : Mem → Mem) : (s.modMem f).gov = s.gov := rfl
@[simp] theorem State.modMem_pow (s : State) (f : Mem → Mem) : (s.modMem f).pow = s.pow := rfl
@[simp] theorem State.modMem_svc (s : State) (f : Mem → Mem) : (s.modMem f).svc = s.svc := rfl
@[simp] theorem State.modMem_trust (s : State) (f : Mem → Mem) : (s.modMem f).trust = s.trust := rfl

@[simp] theorem State.modCtx_pending (s : State) (n : Nat) (f : PhraseCtx → PhraseCtx) : (s.modCtx n f).pending = s.pending := rfl
@[simp] theorem State.modCtx_free (s : State) (n : Nat) (f : PhraseCtx → PhraseCtx) : (s.modCtx n f).free = s.free := rfl
@[simp] theorem State.modCtx_tick (s : State) (n : Nat) (f : PhraseCtx → PhraseCtx) : (s.modCtx n f).tick = s.tick := rfl
@[simp] theorem State.modCtx_part (s : State) (n : Nat) (f : PhraseCtx → PhraseCtx) : (s.modCtx n f).part = s.part := rfl
@[simp] theorem State.modCtx_regs (s : State) (n : Nat) (f : PhraseCtx → PhraseCtx) : (s.modCtx n f).regs = s.regs := rfl
@[simp] theorem State.modCtx_mem (s : State) (n : Nat) (f : PhraseCtx → PhraseCtx) : (s.modCtx n f).mem = s.mem := rfl
@[simp] theorem State.modCtx_ees (s : State) (n : Nat) (f : PhraseCtx → PhraseCtx) : (s.modCtx n f).ees = s.ees := rfl
@[simp] theorem State.modCtx_slices (s : State) (n : Nat) (f : PhraseCtx → PhraseCtx) : (s.modCtx n f).slices = s.slices := rfl
@[simp] theorem State.modCtx_saved (s : State) (n : Nat) (f : PhraseCtx → PhraseCtx) : (s.modCtx n f).saved = s.saved := rfl
@[simp] theorem State.modCtx_bindings (s : State) (n : Nat) (f : PhraseCtx → PhraseCtx) : (s.modCtx n f).bindings = s.bindings := rfl
@[simp] theorem State.modCtx_clauses (s : State) (n : Nat) (f : PhraseCtx → PhraseCtx) : (s.modCtx n f).clauses = s.clauses := rfl
@[simp] theorem State.modCtx_sched (s : State) (n : Nat) (f : PhraseCtx → PhraseCtx) : (s.modCtx n f).sched = s.sched := rfl
@[simp] theorem State.modCtx_waiting (s : State) (n : Nat) (f : PhraseCtx → PhraseCtx) : (s.modCtx n f).waiting = s.waiting := rfl
@[simp] theorem State.modCtx_jobs (s : State) (n : Nat) (f : PhraseCtx → PhraseCtx) : (s.modCtx n f).jobs = s.jobs := rfl
@[simp] theorem State.modCtx_steps (s : State) (n : Nat) (f : PhraseCtx → PhraseCtx) : (s.modCtx n f).steps = s.steps := rfl
@[simp] theorem State.modCtx_nextSeq (s : State) (n : Nat) (f : PhraseCtx → PhraseCtx) : (s.modCtx n f).nextSeq = s.nextSeq := rfl
@[simp] theorem State.modCtx_fab (s : State) (n : Nat) (f : PhraseCtx → PhraseCtx) : (s.modCtx n f).fab = s.fab := rfl
@[simp] theorem State.modCtx_sess (s : State) (n : Nat) (f : PhraseCtx → PhraseCtx) : (s.modCtx n f).sess = s.sess := rfl
@[simp] theorem State.modCtx_gov (s : State) (n : Nat) (f : PhraseCtx → PhraseCtx) : (s.modCtx n f).gov = s.gov := rfl
@[simp] theorem State.modCtx_pow (s : State) (n : Nat) (f : PhraseCtx → PhraseCtx) : (s.modCtx n f).pow = s.pow := rfl
@[simp] theorem State.modCtx_svc (s : State) (n : Nat) (f : PhraseCtx → PhraseCtx) : (s.modCtx n f).svc = s.svc := rfl
@[simp] theorem State.modCtx_trust (s : State) (n : Nat) (f : PhraseCtx → PhraseCtx) : (s.modCtx n f).trust = s.trust := rfl

@[simp] theorem State.modEe_pending (s : State) (k : Nat) (f : Ee → Ee) : (s.modEe k f).pending = s.pending := rfl
@[simp] theorem State.modEe_free (s : State) (k : Nat) (f : Ee → Ee) : (s.modEe k f).free = s.free := rfl
@[simp] theorem State.modEe_tick (s : State) (k : Nat) (f : Ee → Ee) : (s.modEe k f).tick = s.tick := rfl
@[simp] theorem State.modEe_part (s : State) (k : Nat) (f : Ee → Ee) : (s.modEe k f).part = s.part := rfl
@[simp] theorem State.modEe_regs (s : State) (k : Nat) (f : Ee → Ee) : (s.modEe k f).regs = s.regs := rfl
@[simp] theorem State.modEe_mem (s : State) (k : Nat) (f : Ee → Ee) : (s.modEe k f).mem = s.mem := rfl
@[simp] theorem State.modEe_phrases (s : State) (k : Nat) (f : Ee → Ee) : (s.modEe k f).phrases = s.phrases := rfl
@[simp] theorem State.modEe_slices (s : State) (k : Nat) (f : Ee → Ee) : (s.modEe k f).slices = s.slices := rfl
@[simp] theorem State.modEe_saved (s : State) (k : Nat) (f : Ee → Ee) : (s.modEe k f).saved = s.saved := rfl
@[simp] theorem State.modEe_bindings (s : State) (k : Nat) (f : Ee → Ee) : (s.modEe k f).bindings = s.bindings := rfl
@[simp] theorem State.modEe_clauses (s : State) (k : Nat) (f : Ee → Ee) : (s.modEe k f).clauses = s.clauses := rfl
@[simp] theorem State.modEe_sched (s : State) (k : Nat) (f : Ee → Ee) : (s.modEe k f).sched = s.sched := rfl
@[simp] theorem State.modEe_waiting (s : State) (k : Nat) (f : Ee → Ee) : (s.modEe k f).waiting = s.waiting := rfl
@[simp] theorem State.modEe_jobs (s : State) (k : Nat) (f : Ee → Ee) : (s.modEe k f).jobs = s.jobs := rfl
@[simp] theorem State.modEe_steps (s : State) (k : Nat) (f : Ee → Ee) : (s.modEe k f).steps = s.steps := rfl
@[simp] theorem State.modEe_nextSeq (s : State) (k : Nat) (f : Ee → Ee) : (s.modEe k f).nextSeq = s.nextSeq := rfl
@[simp] theorem State.modEe_fab (s : State) (k : Nat) (f : Ee → Ee) : (s.modEe k f).fab = s.fab := rfl
@[simp] theorem State.modEe_sess (s : State) (k : Nat) (f : Ee → Ee) : (s.modEe k f).sess = s.sess := rfl
@[simp] theorem State.modEe_gov (s : State) (k : Nat) (f : Ee → Ee) : (s.modEe k f).gov = s.gov := rfl
@[simp] theorem State.modEe_pow (s : State) (k : Nat) (f : Ee → Ee) : (s.modEe k f).pow = s.pow := rfl
@[simp] theorem State.modEe_svc (s : State) (k : Nat) (f : Ee → Ee) : (s.modEe k f).svc = s.svc := rfl
@[simp] theorem State.modEe_trust (s : State) (k : Nat) (f : Ee → Ee) : (s.modEe k f).trust = s.trust := rfl

@[simp] theorem State.modSlice_pending (s : State) (k : Nat) (f : Slice → Slice) : (s.modSlice k f).pending = s.pending := rfl
@[simp] theorem State.modSlice_free (s : State) (k : Nat) (f : Slice → Slice) : (s.modSlice k f).free = s.free := rfl
@[simp] theorem State.modSlice_tick (s : State) (k : Nat) (f : Slice → Slice) : (s.modSlice k f).tick = s.tick := rfl
@[simp] theorem State.modSlice_part (s : State) (k : Nat) (f : Slice → Slice) : (s.modSlice k f).part = s.part := rfl
@[simp] theorem State.modSlice_regs (s : State) (k : Nat) (f : Slice → Slice) : (s.modSlice k f).regs = s.regs := rfl
@[simp] theorem State.modSlice_mem (s : State) (k : Nat) (f : Slice → Slice) : (s.modSlice k f).mem = s.mem := rfl
@[simp] theorem State.modSlice_phrases (s : State) (k : Nat) (f : Slice → Slice) : (s.modSlice k f).phrases = s.phrases := rfl
@[simp] theorem State.modSlice_ees (s : State) (k : Nat) (f : Slice → Slice) : (s.modSlice k f).ees = s.ees := rfl
@[simp] theorem State.modSlice_saved (s : State) (k : Nat) (f : Slice → Slice) : (s.modSlice k f).saved = s.saved := rfl
@[simp] theorem State.modSlice_bindings (s : State) (k : Nat) (f : Slice → Slice) : (s.modSlice k f).bindings = s.bindings := rfl
@[simp] theorem State.modSlice_clauses (s : State) (k : Nat) (f : Slice → Slice) : (s.modSlice k f).clauses = s.clauses := rfl
@[simp] theorem State.modSlice_sched (s : State) (k : Nat) (f : Slice → Slice) : (s.modSlice k f).sched = s.sched := rfl
@[simp] theorem State.modSlice_waiting (s : State) (k : Nat) (f : Slice → Slice) : (s.modSlice k f).waiting = s.waiting := rfl
@[simp] theorem State.modSlice_jobs (s : State) (k : Nat) (f : Slice → Slice) : (s.modSlice k f).jobs = s.jobs := rfl
@[simp] theorem State.modSlice_steps (s : State) (k : Nat) (f : Slice → Slice) : (s.modSlice k f).steps = s.steps := rfl
@[simp] theorem State.modSlice_nextSeq (s : State) (k : Nat) (f : Slice → Slice) : (s.modSlice k f).nextSeq = s.nextSeq := rfl
@[simp] theorem State.modSlice_fab (s : State) (k : Nat) (f : Slice → Slice) : (s.modSlice k f).fab = s.fab := rfl
@[simp] theorem State.modSlice_sess (s : State) (k : Nat) (f : Slice → Slice) : (s.modSlice k f).sess = s.sess := rfl
@[simp] theorem State.modSlice_gov (s : State) (k : Nat) (f : Slice → Slice) : (s.modSlice k f).gov = s.gov := rfl
@[simp] theorem State.modSlice_pow (s : State) (k : Nat) (f : Slice → Slice) : (s.modSlice k f).pow = s.pow := rfl
@[simp] theorem State.modSlice_svc (s : State) (k : Nat) (f : Slice → Slice) : (s.modSlice k f).svc = s.svc := rfl
@[simp] theorem State.modSlice_trust (s : State) (k : Nat) (f : Slice → Slice) : (s.modSlice k f).trust = s.trust := rfl

@[simp] theorem State.modPort_pending (s : State) (p : Nat) (f : Port → Port) : (s.modPort p f).pending = s.pending := rfl
@[simp] theorem State.modPort_free (s : State) (p : Nat) (f : Port → Port) : (s.modPort p f).free = s.free := rfl
@[simp] theorem State.modPort_tick (s : State) (p : Nat) (f : Port → Port) : (s.modPort p f).tick = s.tick := rfl
@[simp] theorem State.modPort_part (s : State) (p : Nat) (f : Port → Port) : (s.modPort p f).part = s.part := rfl
@[simp] theorem State.modPort_regs (s : State) (p : Nat) (f : Port → Port) : (s.modPort p f).regs = s.regs := rfl
@[simp] theorem State.modPort_mem (s : State) (p : Nat) (f : Port → Port) : (s.modPort p f).mem = s.mem := rfl
@[simp] theorem State.modPort_phrases (s : State) (p : Nat) (f : Port → Port) : (s.modPort p f).phrases = s.phrases := rfl
@[simp] theorem State.modPort_ees (s : State) (p : Nat) (f : Port → Port) : (s.modPort p f).ees = s.ees := rfl
@[simp] theorem State.modPort_slices (s : State) (p : Nat) (f : Port → Port) : (s.modPort p f).slices = s.slices := rfl
@[simp] theorem State.modPort_saved (s : State) (p : Nat) (f : Port → Port) : (s.modPort p f).saved = s.saved := rfl
@[simp] theorem State.modPort_bindings (s : State) (p : Nat) (f : Port → Port) : (s.modPort p f).bindings = s.bindings := rfl
@[simp] theorem State.modPort_clauses (s : State) (p : Nat) (f : Port → Port) : (s.modPort p f).clauses = s.clauses := rfl
@[simp] theorem State.modPort_sched (s : State) (p : Nat) (f : Port → Port) : (s.modPort p f).sched = s.sched := rfl
@[simp] theorem State.modPort_waiting (s : State) (p : Nat) (f : Port → Port) : (s.modPort p f).waiting = s.waiting := rfl
@[simp] theorem State.modPort_jobs (s : State) (p : Nat) (f : Port → Port) : (s.modPort p f).jobs = s.jobs := rfl
@[simp] theorem State.modPort_steps (s : State) (p : Nat) (f : Port → Port) : (s.modPort p f).steps = s.steps := rfl
@[simp] theorem State.modPort_nextSeq (s : State) (p : Nat) (f : Port → Port) : (s.modPort p f).nextSeq = s.nextSeq := rfl
@[simp] theorem State.modPort_sess (s : State) (p : Nat) (f : Port → Port) : (s.modPort p f).sess = s.sess := rfl
@[simp] theorem State.modPort_gov (s : State) (p : Nat) (f : Port → Port) : (s.modPort p f).gov = s.gov := rfl
@[simp] theorem State.modPort_pow (s : State) (p : Nat) (f : Port → Port) : (s.modPort p f).pow = s.pow := rfl
@[simp] theorem State.modPort_svc (s : State) (p : Nat) (f : Port → Port) : (s.modPort p f).svc = s.svc := rfl
@[simp] theorem State.modPort_trust (s : State) (p : Nat) (f : Port → Port) : (s.modPort p f).trust = s.trust := rfl

@[simp] theorem State.modFab_pending (s : State) (f : Fab → Fab) : (s.modFab f).pending = s.pending := rfl
@[simp] theorem State.modFab_free (s : State) (f : Fab → Fab) : (s.modFab f).free = s.free := rfl
@[simp] theorem State.modFab_tick (s : State) (f : Fab → Fab) : (s.modFab f).tick = s.tick := rfl
@[simp] theorem State.modFab_part (s : State) (f : Fab → Fab) : (s.modFab f).part = s.part := rfl
@[simp] theorem State.modFab_regs (s : State) (f : Fab → Fab) : (s.modFab f).regs = s.regs := rfl
@[simp] theorem State.modFab_mem (s : State) (f : Fab → Fab) : (s.modFab f).mem = s.mem := rfl
@[simp] theorem State.modFab_phrases (s : State) (f : Fab → Fab) : (s.modFab f).phrases = s.phrases := rfl
@[simp] theorem State.modFab_ees (s : State) (f : Fab → Fab) : (s.modFab f).ees = s.ees := rfl
@[simp] theorem State.modFab_slices (s : State) (f : Fab → Fab) : (s.modFab f).slices = s.slices := rfl
@[simp] theorem State.modFab_saved (s : State) (f : Fab → Fab) : (s.modFab f).saved = s.saved := rfl
@[simp] theorem State.modFab_bindings (s : State) (f : Fab → Fab) : (s.modFab f).bindings = s.bindings := rfl
@[simp] theorem State.modFab_clauses (s : State) (f : Fab → Fab) : (s.modFab f).clauses = s.clauses := rfl
@[simp] theorem State.modFab_sched (s : State) (f : Fab → Fab) : (s.modFab f).sched = s.sched := rfl
@[simp] theorem State.modFab_waiting (s : State) (f : Fab → Fab) : (s.modFab f).waiting = s.waiting := rfl
@[simp] theorem State.modFab_jobs (s : State) (f : Fab → Fab) : (s.modFab f).jobs = s.jobs := rfl
@[simp] theorem State.modFab_steps (s : State) (f : Fab → Fab) : (s.modFab f).steps = s.steps := rfl
@[simp] theorem State.modFab_nextSeq (s : State) (f : Fab → Fab) : (s.modFab f).nextSeq = s.nextSeq := rfl
@[simp] theorem State.modFab_sess (s : State) (f : Fab → Fab) : (s.modFab f).sess = s.sess := rfl
@[simp] theorem State.modFab_gov (s : State) (f : Fab → Fab) : (s.modFab f).gov = s.gov := rfl
@[simp] theorem State.modFab_pow (s : State) (f : Fab → Fab) : (s.modFab f).pow = s.pow := rfl
@[simp] theorem State.modFab_svc (s : State) (f : Fab → Fab) : (s.modFab f).svc = s.svc := rfl
@[simp] theorem State.modFab_trust (s : State) (f : Fab → Fab) : (s.modFab f).trust = s.trust := rfl

@[simp] theorem State.modClause_pending (s : State) (n : Nat) (f : Clause → Clause) : (s.modClause n f).pending = s.pending := rfl
@[simp] theorem State.modClause_free (s : State) (n : Nat) (f : Clause → Clause) : (s.modClause n f).free = s.free := rfl
@[simp] theorem State.modClause_tick (s : State) (n : Nat) (f : Clause → Clause) : (s.modClause n f).tick = s.tick := rfl
@[simp] theorem State.modClause_part (s : State) (n : Nat) (f : Clause → Clause) : (s.modClause n f).part = s.part := rfl
@[simp] theorem State.modClause_regs (s : State) (n : Nat) (f : Clause → Clause) : (s.modClause n f).regs = s.regs := rfl
@[simp] theorem State.modClause_mem (s : State) (n : Nat) (f : Clause → Clause) : (s.modClause n f).mem = s.mem := rfl
@[simp] theorem State.modClause_phrases (s : State) (n : Nat) (f : Clause → Clause) : (s.modClause n f).phrases = s.phrases := rfl
@[simp] theorem State.modClause_ees (s : State) (n : Nat) (f : Clause → Clause) : (s.modClause n f).ees = s.ees := rfl
@[simp] theorem State.modClause_slices (s : State) (n : Nat) (f : Clause → Clause) : (s.modClause n f).slices = s.slices := rfl
@[simp] theorem State.modClause_saved (s : State) (n : Nat) (f : Clause → Clause) : (s.modClause n f).saved = s.saved := rfl
@[simp] theorem State.modClause_bindings (s : State) (n : Nat) (f : Clause → Clause) : (s.modClause n f).bindings = s.bindings := rfl
@[simp] theorem State.modClause_sched (s : State) (n : Nat) (f : Clause → Clause) : (s.modClause n f).sched = s.sched := rfl
@[simp] theorem State.modClause_waiting (s : State) (n : Nat) (f : Clause → Clause) : (s.modClause n f).waiting = s.waiting := rfl
@[simp] theorem State.modClause_jobs (s : State) (n : Nat) (f : Clause → Clause) : (s.modClause n f).jobs = s.jobs := rfl
@[simp] theorem State.modClause_steps (s : State) (n : Nat) (f : Clause → Clause) : (s.modClause n f).steps = s.steps := rfl
@[simp] theorem State.modClause_nextSeq (s : State) (n : Nat) (f : Clause → Clause) : (s.modClause n f).nextSeq = s.nextSeq := rfl
@[simp] theorem State.modClause_fab (s : State) (n : Nat) (f : Clause → Clause) : (s.modClause n f).fab = s.fab := rfl
@[simp] theorem State.modClause_sess (s : State) (n : Nat) (f : Clause → Clause) : (s.modClause n f).sess = s.sess := rfl
@[simp] theorem State.modClause_gov (s : State) (n : Nat) (f : Clause → Clause) : (s.modClause n f).gov = s.gov := rfl
@[simp] theorem State.modClause_pow (s : State) (n : Nat) (f : Clause → Clause) : (s.modClause n f).pow = s.pow := rfl
@[simp] theorem State.modClause_svc (s : State) (n : Nat) (f : Clause → Clause) : (s.modClause n f).svc = s.svc := rfl
@[simp] theorem State.modClause_trust (s : State) (n : Nat) (f : Clause → Clause) : (s.modClause n f).trust = s.trust := rfl

@[simp] theorem State.modStep_pending (s : State) (j n : Nat) (f : Step → Step) : (s.modStep j n f).pending = s.pending := rfl
@[simp] theorem State.modStep_free (s : State) (j n : Nat) (f : Step → Step) : (s.modStep j n f).free = s.free := rfl
@[simp] theorem State.modStep_tick (s : State) (j n : Nat) (f : Step → Step) : (s.modStep j n f).tick = s.tick := rfl
@[simp] theorem State.modStep_part (s : State) (j n : Nat) (f : Step → Step) : (s.modStep j n f).part = s.part := rfl
@[simp] theorem State.modStep_regs (s : State) (j n : Nat) (f : Step → Step) : (s.modStep j n f).regs = s.regs := rfl
@[simp] theorem State.modStep_mem (s : State) (j n : Nat) (f : Step → Step) : (s.modStep j n f).mem = s.mem := rfl
@[simp] theorem State.modStep_phrases (s : State) (j n : Nat) (f : Step → Step) : (s.modStep j n f).phrases = s.phrases := rfl
@[simp] theorem State.modStep_ees (s : State) (j n : Nat) (f : Step → Step) : (s.modStep j n f).ees = s.ees := rfl
@[simp] theorem State.modStep_slices (s : State) (j n : Nat) (f : Step → Step) : (s.modStep j n f).slices = s.slices := rfl
@[simp] theorem State.modStep_saved (s : State) (j n : Nat) (f : Step → Step) : (s.modStep j n f).saved = s.saved := rfl
@[simp] theorem State.modStep_bindings (s : State) (j n : Nat) (f : Step → Step) : (s.modStep j n f).bindings = s.bindings := rfl
@[simp] theorem State.modStep_clauses (s : State) (j n : Nat) (f : Step → Step) : (s.modStep j n f).clauses = s.clauses := rfl
@[simp] theorem State.modStep_sched (s : State) (j n : Nat) (f : Step → Step) : (s.modStep j n f).sched = s.sched := rfl
@[simp] theorem State.modStep_waiting (s : State) (j n : Nat) (f : Step → Step) : (s.modStep j n f).waiting = s.waiting := rfl
@[simp] theorem State.modStep_jobs (s : State) (j n : Nat) (f : Step → Step) : (s.modStep j n f).jobs = s.jobs := rfl
@[simp] theorem State.modStep_nextSeq (s : State) (j n : Nat) (f : Step → Step) : (s.modStep j n f).nextSeq = s.nextSeq := rfl
@[simp] theorem State.modStep_fab (s : State) (j n : Nat) (f : Step → Step) : (s.modStep j n f).fab = s.fab := rfl
@[simp] theorem State.modStep_sess (s : State) (j n : Nat) (f : Step → Step) : (s.modStep j n f).sess = s.sess := rfl
@[simp] theorem State.modStep_gov (s : State) (j n : Nat) (f : Step → Step) : (s.modStep j n f).gov = s.gov := rfl
@[simp] theorem State.modStep_pow (s : State) (j n : Nat) (f : Step → Step) : (s.modStep j n f).pow = s.pow := rfl
@[simp] theorem State.modStep_svc (s : State) (j n : Nat) (f : Step → Step) : (s.modStep j n f).svc = s.svc := rfl
@[simp] theorem State.modStep_trust (s : State) (j n : Nat) (f : Step → Step) : (s.modStep j n f).trust = s.trust := rfl

@[simp] theorem State.modSess_pending (s : State) (f : Sess → Sess) : (s.modSess f).pending = s.pending := rfl
@[simp] theorem State.modSess_free (s : State) (f : Sess → Sess) : (s.modSess f).free = s.free := rfl
@[simp] theorem State.modSess_tick (s : State) (f : Sess → Sess) : (s.modSess f).tick = s.tick := rfl
@[simp] theorem State.modSess_part (s : State) (f : Sess → Sess) : (s.modSess f).part = s.part := rfl
@[simp] theorem State.modSess_regs (s : State) (f : Sess → Sess) : (s.modSess f).regs = s.regs := rfl
@[simp] theorem State.modSess_mem (s : State) (f : Sess → Sess) : (s.modSess f).mem = s.mem := rfl
@[simp] theorem State.modSess_phrases (s : State) (f : Sess → Sess) : (s.modSess f).phrases = s.phrases := rfl
@[simp] theorem State.modSess_ees (s : State) (f : Sess → Sess) : (s.modSess f).ees = s.ees := rfl
@[simp] theorem State.modSess_slices (s : State) (f : Sess → Sess) : (s.modSess f).slices = s.slices := rfl
@[simp] theorem State.modSess_saved (s : State) (f : Sess → Sess) : (s.modSess f).saved = s.saved := rfl
@[simp] theorem State.modSess_bindings (s : State) (f : Sess → Sess) : (s.modSess f).bindings = s.bindings := rfl
@[simp] theorem State.modSess_clauses (s : State) (f : Sess → Sess) : (s.modSess f).clauses = s.clauses := rfl
@[simp] theorem State.modSess_sched (s : State) (f : Sess → Sess) : (s.modSess f).sched = s.sched := rfl
@[simp] theorem State.modSess_waiting (s : State) (f : Sess → Sess) : (s.modSess f).waiting = s.waiting := rfl
@[simp] theorem State.modSess_jobs (s : State) (f : Sess → Sess) : (s.modSess f).jobs = s.jobs := rfl
@[simp] theorem State.modSess_steps (s : State) (f : Sess → Sess) : (s.modSess f).steps = s.steps := rfl
@[simp] theorem State.modSess_nextSeq (s : State) (f : Sess → Sess) : (s.modSess f).nextSeq = s.nextSeq := rfl
@[simp] theorem State.modSess_fab (s : State) (f : Sess → Sess) : (s.modSess f).fab = s.fab := rfl
@[simp] theorem State.modSess_gov (s : State) (f : Sess → Sess) : (s.modSess f).gov = s.gov := rfl
@[simp] theorem State.modSess_pow (s : State) (f : Sess → Sess) : (s.modSess f).pow = s.pow := rfl
@[simp] theorem State.modSess_svc (s : State) (f : Sess → Sess) : (s.modSess f).svc = s.svc := rfl
@[simp] theorem State.modSess_trust (s : State) (f : Sess → Sess) : (s.modSess f).trust = s.trust := rfl

@[simp] theorem State.bump_pending (s : State) (k n : Nat) : (s.bump k n).pending = s.pending := rfl
@[simp] theorem State.bump_free (s : State) (k n : Nat) : (s.bump k n).free = s.free := rfl
@[simp] theorem State.bump_tick (s : State) (k n : Nat) : (s.bump k n).tick = s.tick := rfl
@[simp] theorem State.bump_part (s : State) (k n : Nat) : (s.bump k n).part = s.part := rfl
@[simp] theorem State.bump_mem (s : State) (k n : Nat) : (s.bump k n).mem = s.mem := rfl
@[simp] theorem State.bump_phrases (s : State) (k n : Nat) : (s.bump k n).phrases = s.phrases := rfl
@[simp] theorem State.bump_ees (s : State) (k n : Nat) : (s.bump k n).ees = s.ees := rfl
@[simp] theorem State.bump_slices (s : State) (k n : Nat) : (s.bump k n).slices = s.slices := rfl
@[simp] theorem State.bump_saved (s : State) (k n : Nat) : (s.bump k n).saved = s.saved := rfl
@[simp] theorem State.bump_bindings (s : State) (k n : Nat) : (s.bump k n).bindings = s.bindings := rfl
@[simp] theorem State.bump_clauses (s : State) (k n : Nat) : (s.bump k n).clauses = s.clauses := rfl
@[simp] theorem State.bump_sched (s : State) (k n : Nat) : (s.bump k n).sched = s.sched := rfl
@[simp] theorem State.bump_waiting (s : State) (k n : Nat) : (s.bump k n).waiting = s.waiting := rfl
@[simp] theorem State.bump_jobs (s : State) (k n : Nat) : (s.bump k n).jobs = s.jobs := rfl
@[simp] theorem State.bump_steps (s : State) (k n : Nat) : (s.bump k n).steps = s.steps := rfl
@[simp] theorem State.bump_nextSeq (s : State) (k n : Nat) : (s.bump k n).nextSeq = s.nextSeq := rfl
@[simp] theorem State.bump_fab (s : State) (k n : Nat) : (s.bump k n).fab = s.fab := rfl
@[simp] theorem State.bump_sess (s : State) (k n : Nat) : (s.bump k n).sess = s.sess := rfl
@[simp] theorem State.bump_gov (s : State) (k n : Nat) : (s.bump k n).gov = s.gov := rfl
@[simp] theorem State.bump_pow (s : State) (k n : Nat) : (s.bump k n).pow = s.pow := rfl
@[simp] theorem State.bump_svc (s : State) (k n : Nat) : (s.bump k n).svc = s.svc := rfl
@[simp] theorem State.bump_trust (s : State) (k n : Nat) : (s.bump k n).trust = s.trust := rfl

@[simp] theorem State.bump32_pending (s : State) (k n : Nat) : (s.bump32 k n).pending = s.pending := rfl
@[simp] theorem State.bump32_free (s : State) (k n : Nat) : (s.bump32 k n).free = s.free := rfl
@[simp] theorem State.bump32_tick (s : State) (k n : Nat) : (s.bump32 k n).tick = s.tick := rfl
@[simp] theorem State.bump32_part (s : State) (k n : Nat) : (s.bump32 k n).part = s.part := rfl
@[simp] theorem State.bump32_mem (s : State) (k n : Nat) : (s.bump32 k n).mem = s.mem := rfl
@[simp] theorem State.bump32_phrases (s : State) (k n : Nat) : (s.bump32 k n).phrases = s.phrases := rfl
@[simp] theorem State.bump32_ees (s : State) (k n : Nat) : (s.bump32 k n).ees = s.ees := rfl
@[simp] theorem State.bump32_slices (s : State) (k n : Nat) : (s.bump32 k n).slices = s.slices := rfl
@[simp] theorem State.bump32_saved (s : State) (k n : Nat) : (s.bump32 k n).saved = s.saved := rfl
@[simp] theorem State.bump32_bindings (s : State) (k n : Nat) : (s.bump32 k n).bindings = s.bindings := rfl
@[simp] theorem State.bump32_clauses (s : State) (k n : Nat) : (s.bump32 k n).clauses = s.clauses := rfl
@[simp] theorem State.bump32_sched (s : State) (k n : Nat) : (s.bump32 k n).sched = s.sched := rfl
@[simp] theorem State.bump32_waiting (s : State) (k n : Nat) : (s.bump32 k n).waiting = s.waiting := rfl
@[simp] theorem State.bump32_jobs (s : State) (k n : Nat) : (s.bump32 k n).jobs = s.jobs := rfl
@[simp] theorem State.bump32_steps (s : State) (k n : Nat) : (s.bump32 k n).steps = s.steps := rfl
@[simp] theorem State.bump32_nextSeq (s : State) (k n : Nat) : (s.bump32 k n).nextSeq = s.nextSeq := rfl
@[simp] theorem State.bump32_fab (s : State) (k n : Nat) : (s.bump32 k n).fab = s.fab := rfl
@[simp] theorem State.bump32_sess (s : State) (k n : Nat) : (s.bump32 k n).sess = s.sess := rfl
@[simp] theorem State.bump32_gov (s : State) (k n : Nat) : (s.bump32 k n).gov = s.gov := rfl
@[simp] theorem State.bump32_pow (s : State) (k n : Nat) : (s.bump32 k n).pow = s.pow := rfl
@[simp] theorem State.bump32_svc (s : State) (k n : Nat) : (s.bump32 k n).svc = s.svc := rfl
@[simp] theorem State.bump32_trust (s : State) (k n : Nat) : (s.bump32 k n).trust = s.trust := rfl

@[simp] theorem State.modJob_pending (s : State) (j : Nat) (f : JobCtx → JobCtx) : (s.modJob j f).pending = s.pending := by
  unfold State.modJob; split <;> rfl
@[simp] theorem State.modJob_free (s : State) (j : Nat) (f : JobCtx → JobCtx) : (s.modJob j f).free = s.free := by
  unfold State.modJob; split <;> rfl
@[simp] theorem State.modJob_tick (s : State) (j : Nat) (f : JobCtx → JobCtx) : (s.modJob j f).tick = s.tick := by
  unfold State.modJob; split <;> rfl
@[simp] theorem State.modJob_part (s : State) (j : Nat) (f : JobCtx → JobCtx) : (s.modJob j f).part = s.part := by
  unfold State.modJob; split <;> rfl
@[simp] theorem State.modJob_regs (s : State) (j : Nat) (f : JobCtx → JobCtx) : (s.modJob j f).regs = s.regs := by
  unfold State.modJob; split <;> rfl
@[simp] theorem State.modJob_mem (s : State) (j : Nat) (f : JobCtx → JobCtx) : (s.modJob j f).mem = s.mem := by
  unfold State.modJob; split <;> rfl
@[simp] theorem State.modJob_phrases (s : State) (j : Nat) (f : JobCtx → JobCtx) : (s.modJob j f).phrases = s.phrases := by
  unfold State.modJob; split <;> rfl
@[simp] theorem State.modJob_ees (s : State) (j : Nat) (f : JobCtx → JobCtx) : (s.modJob j f).ees = s.ees := by
  unfold State.modJob; split <;> rfl
@[simp] theorem State.modJob_slices (s : State) (j : Nat) (f : JobCtx → JobCtx) : (s.modJob j f).slices = s.slices := by
  unfold State.modJob; split <;> rfl
@[simp] theorem State.modJob_saved (s : State) (j : Nat) (f : JobCtx → JobCtx) : (s.modJob j f).saved = s.saved := by
  unfold State.modJob; split <;> rfl
@[simp] theorem State.modJob_bindings (s : State) (j : Nat) (f : JobCtx → JobCtx) : (s.modJob j f).bindings = s.bindings := by
  unfold State.modJob; split <;> rfl
@[simp] theorem State.modJob_clauses (s : State) (j : Nat) (f : JobCtx → JobCtx) : (s.modJob j f).clauses = s.clauses := by
  unfold State.modJob; split <;> rfl
@[simp] theorem State.modJob_sched (s : State) (j : Nat) (f : JobCtx → JobCtx) : (s.modJob j f).sched = s.sched := by
  unfold State.modJob; split <;> rfl
@[simp] theorem State.modJob_waiting (s : State) (j : Nat) (f : JobCtx → JobCtx) : (s.modJob j f).waiting = s.waiting := by
  unfold State.modJob; split <;> rfl
@[simp] theorem State.modJob_steps (s : State) (j : Nat) (f : JobCtx → JobCtx) : (s.modJob j f).steps = s.steps := by
  unfold State.modJob; split <;> rfl
@[simp] theorem State.modJob_nextSeq (s : State) (j : Nat) (f : JobCtx → JobCtx) : (s.modJob j f).nextSeq = s.nextSeq := by
  unfold State.modJob; split <;> rfl
@[simp] theorem State.modJob_fab (s : State) (j : Nat) (f : JobCtx → JobCtx) : (s.modJob j f).fab = s.fab := by
  unfold State.modJob; split <;> rfl
@[simp] theorem State.modJob_sess (s : State) (j : Nat) (f : JobCtx → JobCtx) : (s.modJob j f).sess = s.sess := by
  unfold State.modJob; split <;> rfl
@[simp] theorem State.modJob_gov (s : State) (j : Nat) (f : JobCtx → JobCtx) : (s.modJob j f).gov = s.gov := by
  unfold State.modJob; split <;> rfl
@[simp] theorem State.modJob_pow (s : State) (j : Nat) (f : JobCtx → JobCtx) : (s.modJob j f).pow = s.pow := by
  unfold State.modJob; split <;> rfl
@[simp] theorem State.modJob_svc (s : State) (j : Nat) (f : JobCtx → JobCtx) : (s.modJob j f).svc = s.svc := by
  unfold State.modJob; split <;> rfl
@[simp] theorem State.modJob_trust (s : State) (j : Nat) (f : JobCtx → JobCtx) : (s.modJob j f).trust = s.trust := by
  unfold State.modJob; split <;> rfl

@[simp] theorem State.modQueue_pending (s : State) (q : QueueId) (f : Queue → Queue) : (s.modQueue q f).pending = s.pending := by
  unfold State.modQueue; split <;> rfl
@[simp] theorem State.modQueue_free (s : State) (q : QueueId) (f : Queue → Queue) : (s.modQueue q f).free = s.free := by
  unfold State.modQueue; split <;> rfl
@[simp] theorem State.modQueue_tick (s : State) (q : QueueId) (f : Queue → Queue) : (s.modQueue q f).tick = s.tick := by
  unfold State.modQueue; split <;> rfl
@[simp] theorem State.modQueue_part (s : State) (q : QueueId) (f : Queue → Queue) : (s.modQueue q f).part = s.part := by
  unfold State.modQueue; split <;> rfl
@[simp] theorem State.modQueue_regs (s : State) (q : QueueId) (f : Queue → Queue) : (s.modQueue q f).regs = s.regs := by
  unfold State.modQueue; split <;> rfl
@[simp] theorem State.modQueue_mem (s : State) (q : QueueId) (f : Queue → Queue) : (s.modQueue q f).mem = s.mem := by
  unfold State.modQueue; split <;> rfl
@[simp] theorem State.modQueue_saved (s : State) (q : QueueId) (f : Queue → Queue) : (s.modQueue q f).saved = s.saved := by
  unfold State.modQueue; split <;> rfl
@[simp] theorem State.modQueue_bindings (s : State) (q : QueueId) (f : Queue → Queue) : (s.modQueue q f).bindings = s.bindings := by
  unfold State.modQueue; split <;> rfl
@[simp] theorem State.modQueue_clauses (s : State) (q : QueueId) (f : Queue → Queue) : (s.modQueue q f).clauses = s.clauses := by
  unfold State.modQueue; split <;> rfl
@[simp] theorem State.modQueue_sched (s : State) (q : QueueId) (f : Queue → Queue) : (s.modQueue q f).sched = s.sched := by
  unfold State.modQueue; split <;> rfl
@[simp] theorem State.modQueue_waiting (s : State) (q : QueueId) (f : Queue → Queue) : (s.modQueue q f).waiting = s.waiting := by
  unfold State.modQueue; split <;> rfl
@[simp] theorem State.modQueue_jobs (s : State) (q : QueueId) (f : Queue → Queue) : (s.modQueue q f).jobs = s.jobs := by
  unfold State.modQueue; split <;> rfl
@[simp] theorem State.modQueue_steps (s : State) (q : QueueId) (f : Queue → Queue) : (s.modQueue q f).steps = s.steps := by
  unfold State.modQueue; split <;> rfl
@[simp] theorem State.modQueue_nextSeq (s : State) (q : QueueId) (f : Queue → Queue) : (s.modQueue q f).nextSeq = s.nextSeq := by
  unfold State.modQueue; split <;> rfl
@[simp] theorem State.modQueue_sess (s : State) (q : QueueId) (f : Queue → Queue) : (s.modQueue q f).sess = s.sess := by
  unfold State.modQueue; split <;> rfl
@[simp] theorem State.modQueue_gov (s : State) (q : QueueId) (f : Queue → Queue) : (s.modQueue q f).gov = s.gov := by
  unfold State.modQueue; split <;> rfl
@[simp] theorem State.modQueue_pow (s : State) (q : QueueId) (f : Queue → Queue) : (s.modQueue q f).pow = s.pow := by
  unfold State.modQueue; split <;> rfl
@[simp] theorem State.modQueue_svc (s : State) (q : QueueId) (f : Queue → Queue) : (s.modQueue q f).svc = s.svc := by
  unfold State.modQueue; split <;> rfl
@[simp] theorem State.modQueue_trust (s : State) (q : QueueId) (f : Queue → Queue) : (s.modQueue q f).trust = s.trust := by
  unfold State.modQueue; split <;> rfl

@[simp] theorem State.modMem_reg (s : State) (f : Mem → Mem) (i : Nat) : (s.modMem f).reg i = s.reg i := rfl
@[simp] theorem State.modCtx_reg (s : State) (n : Nat) (f : PhraseCtx → PhraseCtx) (i : Nat) : (s.modCtx n f).reg i = s.reg i := rfl
@[simp] theorem State.modEe_reg (s : State) (k : Nat) (f : Ee → Ee) (i : Nat) : (s.modEe k f).reg i = s.reg i := rfl
@[simp] theorem State.modSlice_reg (s : State) (k : Nat) (f : Slice → Slice) (i : Nat) : (s.modSlice k f).reg i = s.reg i := rfl
@[simp] theorem State.modPort_reg (s : State) (p : Nat) (f : Port → Port) (i : Nat) : (s.modPort p f).reg i = s.reg i := rfl
@[simp] theorem State.modFab_reg (s : State) (f : Fab → Fab) (i : Nat) : (s.modFab f).reg i = s.reg i := rfl
@[simp] theorem State.modClause_reg (s : State) (n : Nat) (f : Clause → Clause) (i : Nat) : (s.modClause n f).reg i = s.reg i := rfl
@[simp] theorem State.modStep_reg (s : State) (j n : Nat) (f : Step → Step) (i : Nat) : (s.modStep j n f).reg i = s.reg i := rfl
@[simp] theorem State.modSess_reg (s : State) (f : Sess → Sess) (i : Nat) : (s.modSess f).reg i = s.reg i := rfl
@[simp] theorem State.modJob_reg (s : State) (j : Nat) (f : JobCtx → JobCtx) (i : Nat) : (s.modJob j f).reg i = s.reg i :=
  State.reg_congr (State.modJob_regs s j f) i
@[simp] theorem State.modQueue_reg (s : State) (q : QueueId) (f : Queue → Queue) (i : Nat) : (s.modQueue q f).reg i = s.reg i :=
  State.reg_congr (State.modQueue_regs s q f) i

end Sys2Proof.Machine
end

