-- ==== Sys2Proof/Laws/Settle.lean ====
section
/-! SUPPORT. What `settle` does to a state, and that every command ends in it. -/

namespace Sys2Proof.Machine

/-! ### Held placements tested again -/

/-- The inserted flushes that go on leave the list of their step's halts, and nothing else changes (R162, R302). -/
theorem State.freeFlushes_eq (s : State) : s.freeFlushes = s ∨
    s.freeFlushes = { s with steps := s.steps.map fun t => { t with flushHalts := t.flushHalts.filter fun h => !s.flushFits h } } := by
  unfold State.freeFlushes
  split
  · exact .inl rfl
  · exact .inr rfl

/-- Without a halt of an inserted flush nothing changes. -/
theorem State.freeFlushes_none (s : State) (h : ∀ t ∈ s.steps, t.flushHalts = []) : s.freeFlushes = s := by
  have : s.steps.all (fun t => t.flushHalts == []) = true := List.all_eq_true.mpr fun t m => by simp [h t m]
  rw [State.freeFlushes, if_pos this]

/-- A property of states that `releaseHold` keeps is kept by the retest of every held placement (R302), where the inserted flushes that go
on have it. -/
theorem State.retestHolds_induct (P : State → Prop) (hP : ∀ s q h, P s → P (State.releaseHold s q h)) (s : State) (hs : P s)
    (hf : P s.freeFlushes) : P s.retestHolds := by
  have inner (q : QueueId) (l : List HeldJob) : ∀ s : State, P s →
      P (l.foldl (fun s h => if s.heldFits h.halt then s.releaseHold q h else s) s) := by
    induction l with
    | nil => exact fun _ h => h
    | cons a t ih =>
      intro s h
      simp only [List.foldl_cons]
      apply ih
      split
      · exact hP _ _ _ h
      · exact h
  have outer (l : List QueueId) : ∀ s : State, P s →
      P (l.foldl (fun s q =>
        match s.queue q with
        | none => s
        | some Q => (Q.held.filter fun h => h.halt.reason == 0x22 && (h.halt.page != 0 || h.halt.need != 0)).foldl (fun s h =>
            if s.heldFits h.halt then s.releaseHold q h else s) s) s) := by
    induction l with
    | nil => exact fun _ h => h
    | cons a t ih =>
      intro s h
      simp only [List.foldl_cons]
      apply ih
      split
      · exact h
      · exact inner _ _ _ h
  unfold State.retestHolds
  split
  · exact hs
  · exact outer _ _ hf

/-- The retest of held placements changes queues, and the halts of inserted flushes. -/
theorem State.retestHolds_keeps {α : Type} (f : State → α) (hf : ∀ s q h, f (State.releaseHold s q h) = f s)
    (hs : ∀ (s : State) (l : List Step), f { s with steps := l } = f s) (s : State) : f s.retestHolds = f s :=
  State.retestHolds_induct (fun t => f t = f s) (fun t q h e => (hf t q h).trans e) s rfl (by
    rcases s.freeFlushes_eq with e | e <;> rw [e]
    exact hs _ _)

/-! ### Derived entries -/

/-- The entries that `settle` writes: 0x1011.01 to .08 and alert_status. -/
def Derived (k : Nat) : Prop := (0x101101 ≤ k ∧ k ≤ 0x101108) ∨ k = K.alertStatus

theorem State.setRegs_reg_ne (l : List Nat) : ∀ (s : State) (k i : Nat), (i < k ∨ k + l.length ≤ i) → (s.setRegs k l).reg i = s.reg i := by
  induction l with
  | nil => intros; rfl
  | cons v vs ih =>
    intro s k i h
    simp only [State.setRegs, List.length_cons] at *
    rw [ih _ _ _ (by omega), State.reg_setReg_ne _ _ _ _ (by omega)]

/-- Entries that are set one after another read as they were set. -/
theorem State.regsFrom_setRegs (l : List Nat) : ∀ (s : State) (k : Nat), (s.setRegs k l).regsFrom k l.length = l := by
  induction l with
  | nil => intros; rfl
  | cons v vs ih =>
    intro s k
    simp only [State.setRegs, List.length_cons, State.regsFrom]
    rw [ih, State.setRegs_reg_ne _ _ _ _ (by omega), State.reg_setReg]

theorem State.setRegs_keeps {α : Type} (f : State → α) (hf : ∀ s k v, f (State.setReg s k v) = f s) (l : List Nat) :
    ∀ (s : State) (k : Nat), f (s.setRegs k l) = f s := by
  induction l with
  | nil => intros; rfl
  | cons v vs ih => intro s k; simp only [State.setRegs]; rw [ih, hf]

theorem State.refreshHealth_reg (s : State) (i : Nat) (h : ¬ Derived i) : s.refreshHealth.reg i = s.reg i := by
  unfold State.refreshHealth
  have hl : s.inService.length = 7 := rfl
  simp only [Derived, K.alertStatus] at h
  dsimp only
  split
  · rfl
  · rw [State.reg_bump32_ne _ _ _ _ (by simp only [K.healthChanges]; omega),
      State.setRegs_reg_ne _ _ _ _ (by simp only [K.phrasesInService, hl]; omega)]

theorem State.refreshAlert_reg (s : State) (i : Nat) (h : i ≠ K.alertStatus) : s.refreshAlert.reg i = s.reg i :=
  State.reg_setReg_ne _ _ _ _ (Ne.symm h)

theorem State.refreshHealth_keeps {α : Type} (f : State → α) (hf : ∀ s k v, f (State.setReg s k v) = f s) (s : State) :
    f s.refreshHealth = f s := by
  unfold State.refreshHealth
  dsimp only
  split
  · rfl
  · exact (hf _ _ _).trans (State.setRegs_keeps f hf _ _ _)

/-! ### settle -/

/-- What no queue, no entry and no derived output holds is as the command left it. -/
theorem settle_keeps {α : Type} (f : State → α) (hq : ∀ s q h, f (State.releaseHold s q h) = f s)
    (hr : ∀ s k v, f (State.setReg s k v) = f s)
    (ha : ∀ (s : State) (b : Bool) (l : List Instr) (n : Nat), f { s with pow := { s.pow with alertN := b }, pending := l, free := n } = f s)
    (hs : ∀ (s : State) (l : List Step), f { s with steps := l } = f s) (s t : State) : f (settle s t) = f t := by
  have h1 := ha (t.retestHolds.refreshHealth.setReg K.alertStatus
    (t.retestHolds.refreshHealth.reg K.alertStatus - t.retestHolds.refreshHealth.reg K.alertStatus % 16 + t.retestHolds.refreshHealth.alertLevels))
  exact (h1 _ _ _).trans ((hr _ _ _).trans ((State.refreshHealth_keeps f hr _).trans (State.retestHolds_keeps f hq hs _)))

theorem State.releaseHold_reg (s : State) (q : QueueId) (h : HeldJob) (i : Nat) : (s.releaseHold q h).reg i = s.reg i :=
  State.modQueue_reg _ _ _ _

/-- Every entry but the derived ones is as the command left it. -/
theorem settle_reg (s t : State) (i : Nat) (h : ¬ Derived i) : (settle s t).reg i = t.reg i := by
  have h1 : (settle s t).reg i = t.retestHolds.refreshHealth.refreshAlert.reg i := rfl
  rw [h1, State.refreshAlert_reg _ _ (fun e => h (.inr e)), State.refreshHealth_reg _ _ h]
  exact State.retestHolds_keeps (fun u => u.reg i) (fun _ _ _ => State.releaseHold_reg _ _ _ _) (fun _ _ => rfl) _

@[simp] theorem settle_pending (s t : State) : (settle s t).pending = s.pending := rfl
@[simp] theorem settle_free (s t : State) : (settle s t).free = s.free + 1 := rfl
@[simp] theorem settle_tick (s t : State) : (settle s t).tick = t.tick :=
  settle_keeps (·.tick) (fun _ _ _ => State.modQueue_tick _ _ _) (fun _ _ _ => rfl) (fun _ _ _ _ => rfl) (fun _ _ => rfl) s t
@[simp] theorem settle_part (s t : State) : (settle s t).part = t.part :=
  settle_keeps (·.part) (fun _ _ _ => State.modQueue_part _ _ _) (fun _ _ _ => rfl) (fun _ _ _ _ => rfl) (fun _ _ => rfl) s t
@[simp] theorem settle_mem (s t : State) : (settle s t).mem = t.mem :=
  settle_keeps (·.mem) (fun _ _ _ => State.modQueue_mem _ _ _) (fun _ _ _ => rfl) (fun _ _ _ _ => rfl) (fun _ _ => rfl) s t
@[simp] theorem settle_saved (s t : State) : (settle s t).saved = t.saved :=
  settle_keeps (·.saved) (fun _ _ _ => State.modQueue_saved _ _ _) (fun _ _ _ => rfl) (fun _ _ _ _ => rfl) (fun _ _ => rfl) s t
@[simp] theorem settle_bindings (s t : State) : (settle s t).bindings = t.bindings :=
  settle_keeps (·.bindings) (fun _ _ _ => State.modQueue_bindings _ _ _) (fun _ _ _ => rfl) (fun _ _ _ _ => rfl) (fun _ _ => rfl) s t
@[simp] theorem settle_clauses (s t : State) : (settle s t).clauses = t.clauses :=
  settle_keeps (·.clauses) (fun _ _ _ => State.modQueue_clauses _ _ _) (fun _ _ _ => rfl) (fun _ _ _ _ => rfl) (fun _ _ => rfl) s t
@[simp] theorem settle_sched (s t : State) : (settle s t).sched = t.sched :=
  settle_keeps (·.sched) (fun _ _ _ => State.modQueue_sched _ _ _) (fun _ _ _ => rfl) (fun _ _ _ _ => rfl) (fun _ _ => rfl) s t
@[simp] theorem settle_waiting (s t : State) : (settle s t).waiting = t.waiting :=
  settle_keeps (·.waiting) (fun _ _ _ => State.modQueue_waiting _ _ _) (fun _ _ _ => rfl) (fun _ _ _ _ => rfl) (fun _ _ => rfl) s t
@[simp] theorem settle_jobs (s t : State) : (settle s t).jobs = t.jobs :=
  settle_keeps (·.jobs) (fun _ _ _ => State.modQueue_jobs _ _ _) (fun _ _ _ => rfl) (fun _ _ _ _ => rfl) (fun _ _ => rfl) s t
@[simp] theorem settle_nextSeq (s t : State) : (settle s t).nextSeq = t.nextSeq :=
  settle_keeps (·.nextSeq) (fun _ _ _ => State.modQueue_nextSeq _ _ _) (fun _ _ _ => rfl) (fun _ _ _ _ => rfl) (fun _ _ => rfl) s t
@[simp] theorem settle_sess (s t : State) : (settle s t).sess = t.sess :=
  settle_keeps (·.sess) (fun _ _ _ => State.modQueue_sess _ _ _) (fun _ _ _ => rfl) (fun _ _ _ _ => rfl) (fun _ _ => rfl) s t
@[simp] theorem settle_gov (s t : State) : (settle s t).gov = t.gov :=
  settle_keeps (·.gov) (fun _ _ _ => State.modQueue_gov _ _ _) (fun _ _ _ => rfl) (fun _ _ _ _ => rfl) (fun _ _ => rfl) s t
@[simp] theorem settle_svc (s t : State) : (settle s t).svc = t.svc :=
  settle_keeps (·.svc) (fun _ _ _ => State.modQueue_svc _ _ _) (fun _ _ _ => rfl) (fun _ _ _ _ => rfl) (fun _ _ => rfl) s t
@[simp] theorem settle_trust (s t : State) : (settle s t).trust = t.trust :=
  settle_keeps (·.trust) (fun _ _ _ => State.modQueue_trust _ _ _) (fun _ _ _ => rfl) (fun _ _ _ _ => rfl) (fun _ _ => rfl) s t

/-- Of the steps nothing changes but the halts of inserted flushes that go on. -/
theorem settle_steps_map {α : Type} (g : Step → α) (hg : ∀ (x : Step) (l : List Halt), g { x with flushHalts := l } = g x) (s t : State) :
    (settle s t).steps.map g = t.steps.map g := by
  have h1 : (settle s t).steps = t.retestHolds.steps :=
    State.refreshHealth_keeps (fun u : State => u.steps) (fun _ _ _ => rfl) t.retestHolds
  rw [h1]
  refine State.retestHolds_induct (fun u => u.steps.map g = t.steps.map g) (fun u q h e => ?_) t rfl ?_
  · rw [show (u.releaseHold q h).steps = u.steps from State.modQueue_steps _ _ _]
    exact e
  · rcases t.freeFlushes_eq with e | e <;> rw [e]
    simp [hg, Function.comp_def]

/-- Without a halt of an inserted flush the steps stay. -/
theorem settle_steps (s t : State) (h : ∀ x ∈ t.steps, x.flushHalts = []) : (settle s t).steps = t.steps := by
  have h1 : (settle s t).steps = t.retestHolds.steps :=
    State.refreshHealth_keeps (fun u : State => u.steps) (fun _ _ _ => rfl) t.retestHolds
  rw [h1]
  refine State.retestHolds_induct (fun u => u.steps = t.steps) (fun u q h e => ?_) t rfl ?_
  · rw [show (u.releaseHold q h).steps = u.steps from State.modQueue_steps _ _ _]
    exact e
  · rw [t.freeFlushes_none h]

/-- A queue's change leaves the job state of every phrase. -/
@[simp] theorem State.modQueue_ctx (s : State) (q : QueueId) (f : Queue → Queue) (n : Nat) : (s.modQueue q f).ctx n = s.ctx n := by
  unfold State.modQueue
  split <;> try rfl
  all_goals
    simp only [State.ctx, List.getElem?_modify]
    cases s.phrases[n]? with
    | none => simp
    | some p => by_cases h : q.unit = n <;> simp [h]

@[simp] theorem settle_ctx (s t : State) (n : Nat) : (settle s t).ctx n = t.ctx n :=
  settle_keeps (·.ctx n) (fun _ _ _ => State.modQueue_ctx _ _ _ _) (fun _ _ _ => rfl) (fun _ _ _ _ => rfl) (fun _ _ => rfl) s t

/-- Every command ends settled: none faults and none is refused. -/
theorem exec_settles (c : Instr) (s : State) : ∃ t, exec c s = .next (settle s t) := by
  cases c <;> exact ⟨_, rfl⟩

end Sys2Proof.Machine
end

