-- ==== Sys2Proof/Laws/Issue.lean ====
section
/-! SUPPORT. The issue of a command: what issuing leaves of the state, and the outcome of a command that may issue. -/

namespace Sys2Proof.Machine

/-! ### What waking a unit and issuing a command change -/

/-- Counting events changes the dictionary alone. -/
theorem State.count_keeps {α : Type} (f : State → α) (hr : ∀ s k v, f (State.setReg s k v) = f s) (s : State) (u ev n : Nat)
    (job : Option Nat) : f (s.count u ev n job) = f s := by
  unfold State.count
  split
  · rfl
  next h =>
  clear h
  generalize List.range 8 = l
  induction l generalizing s with
  | nil => rfl
  | cons a t ih =>
    simp only [List.foldl_cons]
    rw [ih]
    split
    · exact hr _ _ _
    · rfl

/-- Waking a unit changes the dictionary, stopped PLLs and self-refresh alone. -/
theorem State.wake_keeps {α : Type} (f : State → α) (hr : ∀ s k v, f (State.setReg s k v) = f s)
    (hp : ∀ (s : State) (p : Pow), f { s with pow := p } = f s) (s : State) (u : PowerUnit) : f (s.wake u) = f s := by
  unfold State.wake
  split
  · rfl
  · dsimp only
    split <;> split <;>
      first
      | (rw [State.count_keeps f hr]; unfold State.setPower; rw [hr, hp]; try rw [hr, hp])
      | (unfold State.setPower; rw [hr, hp]; try rw [hr, hp])

/-- Issuing changes the dictionary, the power state and the queue's sampling alone. -/
theorem State.started_keeps {α : Type} (f : State → α) (hr : ∀ s k v, f (State.setReg s k v) = f s)
    (hp : ∀ (s : State) (p : Pow), f { s with pow := p } = f s) (hq : ∀ s q g, f (State.modQueue s q g) = f s) (s : State) (q : QueueId)
    (c : QCmd) (cl : Clause) : f (s.started q c cl) = f s := by
  have sample (u : State) (x : Nat) : f (u.sampleIssue q c cl x) = f u := by
    unfold State.sampleIssue
    split
    · rfl
    · exact hq _ _ _
  unfold State.started
  dsimp only
  split <;> split <;>
    simp only [State.count_keeps f hr, sample, State.wake_keeps f hr hp]

@[simp] theorem State.started_pending (s : State) (q : QueueId) (c : QCmd) (cl : Clause) : (s.started q c cl).pending = s.pending :=
  State.started_keeps (·.pending) (fun _ _ _ => rfl) (fun _ _ => rfl) (fun _ _ _ => State.modQueue_pending _ _ _) s q c cl
@[simp] theorem State.started_free (s : State) (q : QueueId) (c : QCmd) (cl : Clause) : (s.started q c cl).free = s.free :=
  State.started_keeps (·.free) (fun _ _ _ => rfl) (fun _ _ => rfl) (fun _ _ _ => State.modQueue_free _ _ _) s q c cl
@[simp] theorem State.started_tick (s : State) (q : QueueId) (c : QCmd) (cl : Clause) : (s.started q c cl).tick = s.tick :=
  State.started_keeps (·.tick) (fun _ _ _ => rfl) (fun _ _ => rfl) (fun _ _ _ => State.modQueue_tick _ _ _) s q c cl
@[simp] theorem State.started_part (s : State) (q : QueueId) (c : QCmd) (cl : Clause) : (s.started q c cl).part = s.part :=
  State.started_keeps (·.part) (fun _ _ _ => rfl) (fun _ _ => rfl) (fun _ _ _ => State.modQueue_part _ _ _) s q c cl
@[simp] theorem State.started_mem (s : State) (q : QueueId) (c : QCmd) (cl : Clause) : (s.started q c cl).mem = s.mem :=
  State.started_keeps (·.mem) (fun _ _ _ => rfl) (fun _ _ => rfl) (fun _ _ _ => State.modQueue_mem _ _ _) s q c cl
@[simp] theorem State.started_saved (s : State) (q : QueueId) (c : QCmd) (cl : Clause) : (s.started q c cl).saved = s.saved :=
  State.started_keeps (·.saved) (fun _ _ _ => rfl) (fun _ _ => rfl) (fun _ _ _ => State.modQueue_saved _ _ _) s q c cl
@[simp] theorem State.started_bindings (s : State) (q : QueueId) (c : QCmd) (cl : Clause) : (s.started q c cl).bindings = s.bindings :=
  State.started_keeps (·.bindings) (fun _ _ _ => rfl) (fun _ _ => rfl) (fun _ _ _ => State.modQueue_bindings _ _ _) s q c cl
@[simp] theorem State.started_clauses (s : State) (q : QueueId) (c : QCmd) (cl : Clause) : (s.started q c cl).clauses = s.clauses :=
  State.started_keeps (·.clauses) (fun _ _ _ => rfl) (fun _ _ => rfl) (fun _ _ _ => State.modQueue_clauses _ _ _) s q c cl
@[simp] theorem State.started_sched (s : State) (q : QueueId) (c : QCmd) (cl : Clause) : (s.started q c cl).sched = s.sched :=
  State.started_keeps (·.sched) (fun _ _ _ => rfl) (fun _ _ => rfl) (fun _ _ _ => State.modQueue_sched _ _ _) s q c cl
@[simp] theorem State.started_waiting (s : State) (q : QueueId) (c : QCmd) (cl : Clause) : (s.started q c cl).waiting = s.waiting :=
  State.started_keeps (·.waiting) (fun _ _ _ => rfl) (fun _ _ => rfl) (fun _ _ _ => State.modQueue_waiting _ _ _) s q c cl
@[simp] theorem State.started_jobs (s : State) (q : QueueId) (c : QCmd) (cl : Clause) : (s.started q c cl).jobs = s.jobs :=
  State.started_keeps (·.jobs) (fun _ _ _ => rfl) (fun _ _ => rfl) (fun _ _ _ => State.modQueue_jobs _ _ _) s q c cl
@[simp] theorem State.started_steps (s : State) (q : QueueId) (c : QCmd) (cl : Clause) : (s.started q c cl).steps = s.steps :=
  State.started_keeps (·.steps) (fun _ _ _ => rfl) (fun _ _ => rfl) (fun _ _ _ => State.modQueue_steps _ _ _) s q c cl
@[simp] theorem State.started_nextSeq (s : State) (q : QueueId) (c : QCmd) (cl : Clause) : (s.started q c cl).nextSeq = s.nextSeq :=
  State.started_keeps (·.nextSeq) (fun _ _ _ => rfl) (fun _ _ => rfl) (fun _ _ _ => State.modQueue_nextSeq _ _ _) s q c cl
@[simp] theorem State.started_sess (s : State) (q : QueueId) (c : QCmd) (cl : Clause) : (s.started q c cl).sess = s.sess :=
  State.started_keeps (·.sess) (fun _ _ _ => rfl) (fun _ _ => rfl) (fun _ _ _ => State.modQueue_sess _ _ _) s q c cl
@[simp] theorem State.started_gov (s : State) (q : QueueId) (c : QCmd) (cl : Clause) : (s.started q c cl).gov = s.gov :=
  State.started_keeps (·.gov) (fun _ _ _ => rfl) (fun _ _ => rfl) (fun _ _ _ => State.modQueue_gov _ _ _) s q c cl
@[simp] theorem State.started_svc (s : State) (q : QueueId) (c : QCmd) (cl : Clause) : (s.started q c cl).svc = s.svc :=
  State.started_keeps (·.svc) (fun _ _ _ => rfl) (fun _ _ => rfl) (fun _ _ _ => State.modQueue_svc _ _ _) s q c cl
@[simp] theorem State.started_trust (s : State) (q : QueueId) (c : QCmd) (cl : Clause) : (s.started q c cl).trust = s.trust :=
  State.started_keeps (·.trust) (fun _ _ _ => rfl) (fun _ _ => rfl) (fun _ _ _ => State.modQueue_trust _ _ _) s q c cl

@[simp] theorem State.started_ctx (s : State) (q : QueueId) (c : QCmd) (cl : Clause) (n : Nat) : (s.started q c cl).ctx n = s.ctx n :=
  State.started_keeps (·.ctx n) (fun _ _ _ => rfl) (fun _ _ => rfl) (fun _ _ _ => State.modQueue_ctx _ _ _ _) s q c cl

/-- The scoreboard asks clauses and the phrase's job state alone. -/
@[simp] theorem State.started_mustWait (s : State) (q : QueueId) (c : QCmd) (cl x : Clause) (n r : Nat) (w : Bool) :
    (s.started q c cl).mustWait x n r w = s.mustWait x n r w := by simp [State.mustWait]

@[simp] theorem State.started_board (s : State) (q : QueueId) (c : QCmd) (cl x : Clause) (n : Nat) (l : List Opnd) :
    (s.started q c cl).board x n l = s.board x n l := by simp [State.board]

/-! ### The outcome of a command that may issue -/

/-- A command that may issue runs its body in the state in which it has issued. -/
theorem State.issue_ready {s : State} {q : QueueId} {c : QCmd} {cl : Clause} (h : s.mayIssue q c cl) (mine : Nat → Bool)
    (hm : mine c.word = true) (flt : Option HwFault) (body : State → QCmd → Clause → Option HwFault → Run) :
    s.issue q mine flt body = s.settleRun q c cl (body (s.started q c cl) c cl (faultOf q.cls flt)) := by
  obtain ⟨h1, h2, h3, h4⟩ := h
  unfold State.issue
  simp only [h1, h2]
  have h5 : (if c.idx = 0 ∧ c.again = false then s.unitMissing q cl else none) = none := by
    split
    · next g => exact h3 g.1 g.2
    · rfl
  simp only [h5]
  rw [if_neg (by simp [h4]), if_neg (by simp [hm])]

/-- A queue whose head may not issue is left as it is (R71, R97, R394). -/
theorem State.issue_blocked {s : State} {q : QueueId} (h : s.headOf q = none) (mine : Nat → Bool) (flt : Option HwFault)
    (body : State → QCmd → Clause → Option HwFault → Run) : s.issue q mine flt body = s := by
  unfold State.issue; simp only [h]

@[simp] theorem faultOf_none (cls : EngineClass) : faultOf cls none = none := rfl

/-- Checks that all pass let the body run. -/
theorem decoded_pass (s : State) (l : List (Bool × Nat × Nat)) (k : Run) (h : firstFail l = none) : decoded s l k = k := by
  unfold decoded; simp [h]

/-- No check fails where each passes. -/
theorem firstFail_none (l : List (Bool × Nat × Nat)) (h : ∀ x ∈ l, x.1 = false) : firstFail l = none := by
  induction l with
  | nil => rfl
  | cons a t ih =>
    obtain ⟨b, r, d⟩ := a
    have hb : b = false := h _ List.mem_cons_self
    simp [firstFail, hb, ih fun x hx => h x (List.mem_cons_of_mem _ hx)]

/-- Without a word that holds an error no fault of a memory reaches a command that none was given to. -/
theorem State.unitFault_none (s : State) (q : QueueId) (n : Nat) (l : List Words) (check : HwFault → Option HwFault)
    (h : s.svc.badWords = []) : s.unitFault q n l check none = none := by
  simp [State.unitFault, h]

/-- Without a word that holds an error a write puts none right. -/
theorem State.overwrite_clean (s : State) (q : QueueId) (n : Nat) (l : List Words) (h : s.svc.badWords = []) : s.overwrite q n l = s :=
  if_pos h

/-- A write of no word puts none right. -/
@[simp] theorem State.overwrite_nil (s : State) (q : QueueId) (n : Nat) : s.overwrite q n [] = s := by
  unfold State.overwrite
  split
  · rfl
  · have h : (fun m => !hitWords q n [] m) = fun _ => true := funext fun m => by simp [hitWords, inWords]
    rw [h, List.filter_eq_self.mpr fun _ _ => rfl]

/-- Operands that the scoreboard lets go let the body run, with the fault that its unit's memories give; its writes put right the words
that they overwrite. -/
theorem boarded_go (s : State) (cl : Clause) (n : Nat) (l : List Opnd) (more : List Words) (check : HwFault → Option HwFault)
    (flt : Option HwFault) (k : Option HwFault → Run) (h : s.board cl n l = .go) : boarded s cl n l more check flt k =
      (k (s.unitFault ⟨cl.cls, cl.unit⟩ n (boardWords (s.ctx n) false l ++ more) check flt)).after fun t =>
        t.overwrite ⟨cl.cls, cl.unit⟩ n (boardWords (s.ctx n) true l) := by
  unfold boarded; simp [h]

/-- Where no word of a memory holds an error and no fault is given, operands that the scoreboard lets go let the body run. -/
theorem boarded_sound (s : State) (cl : Clause) (n : Nat) (l : List Opnd) (more : List Words) (check : HwFault → Option HwFault)
    (k : Option HwFault → Run) (h : s.board cl n l = .go) (hb : s.svc.badWords = []) {t : State} (hk : k none = .done t)
    (ht : t.svc.badWords = []) : boarded s cl n l more check none k = .done t := by
  rw [boarded_go _ _ _ _ _ _ _ _ h, State.unitFault_none _ _ _ _ _ hb, hk, Run.after, State.overwrite_clean _ _ _ _ ht]

end Sys2Proof.Machine
end

