-- ==== Sys2Proof/Laws/Memory.lean ====
section
/-! SUPPORT. The canonical form of byte spaces and of the dictionary, which every operation on them keeps, and what a write leaves as it
was. -/

namespace Sys2Proof.Machine

/-! ### The cells of a run -/

/-- The cells of a run lie in it and hold no zero. -/
theorem mem_runCells {a : Nat} {bs : List Byte} {c : Host.Cell} (h : c ∈ runCells a bs) : a ≤ c.1 ∧ c.1 < a + bs.length ∧ c.2 ≠ 0 := by
  induction bs generalizing a with
  | nil => simp [runCells] at h
  | cons b bs ih =>
    simp only [runCells] at h
    split at h
    · have := ih h
      simp only [List.length_cons]
      exact ⟨by omega, by omega, this.2.2⟩
    · next hb =>
      rcases List.mem_cons.mp h with rfl | h
      · exact ⟨Nat.le_refl _, by simp only [List.length_cons]; omega, hb⟩
      · have := ih h
        simp only [List.length_cons]
        exact ⟨by omega, by omega, this.2.2⟩

/-- The cells of a run stand in the order of their addresses. -/
theorem runCells_sorted (a : Nat) (bs : List Byte) : (runCells a bs).Pairwise (·.1 < ·.1) := by
  induction bs generalizing a with
  | nil => exact List.Pairwise.nil
  | cons b bs ih =>
    simp only [runCells]
    split
    · exact ih _
    · exact List.pairwise_cons.mpr ⟨fun c hc => by have := (mem_runCells hc).1; omega, ih _⟩

/-! ### The canonical form is kept -/

/-- Zeroing a run keeps the form. -/
theorem clearRun_wf {m : Bytes} (a n : Nat) (h : Memory.wf m) : Memory.wf (clearRun m a n) :=
  ⟨h.1.filter _, fun c hc => h.2 c (List.mem_filter.mp hc).1⟩

/-- Writing a run keeps the form. -/
theorem writeRun_wf {m : Bytes} (a : Nat) (bs : List Byte) (h : Memory.wf m) : Memory.wf (writeRun m a bs) := by
  refine ⟨?_, ?_⟩
  · refine List.pairwise_append.mpr ⟨List.pairwise_append.mpr ⟨h.1.filter _, runCells_sorted _ _, ?_⟩, h.1.filter _, ?_⟩
    · intro x hx y hy
      have h1 := (List.mem_filter.mp hx).2
      have h2 := (mem_runCells hy).1
      simp only [decide_eq_true_eq] at h1
      omega
    · intro x hx y hy
      have h2 := (List.mem_filter.mp hy).2
      simp only [decide_eq_true_eq] at h2
      rcases List.mem_append.mp hx with hx | hx
      · have h1 := (List.mem_filter.mp hx).2
        simp only [decide_eq_true_eq] at h1
        omega
      · have h1 := (mem_runCells hx).2.1
        omega
  · intro c hc
    rcases List.mem_append.mp hc with hc | hc
    · rcases List.mem_append.mp hc with hc | hc
      · exact h.2 c (List.mem_filter.mp hc).1
      · exact (mem_runCells hc).2.2
    · exact h.2 c (List.mem_filter.mp hc).1

/-- A cell put in its place stands in order. -/
theorem cellInsert_sorted {α : Type} (k : Nat) (v : α) {l : List (Nat × α)} (h : l.Pairwise (·.1 < ·.1)) (hk : ∀ c ∈ l, c.1 ≠ k) :
    (cellInsert k v l).Pairwise (·.1 < ·.1) ∧ ∀ c ∈ cellInsert k v l, c = (k, v) ∨ c ∈ l := by
  induction l with
  | nil => simp [cellInsert]
  | cons x t ih =>
    have hx := List.pairwise_cons.mp h
    have hn := hk x List.mem_cons_self
    simp only [cellInsert]
    split
    · next hlt =>
      refine ⟨List.pairwise_cons.mpr ⟨?_, h⟩, fun c hc => List.mem_cons.mp hc⟩
      intro c hc
      rcases List.mem_cons.mp hc with rfl | hc
      · exact hlt
      · have := hx.1 c hc
        simp only
        omega
    · next hlt =>
      have := ih hx.2 fun c hc => hk c (List.mem_cons_of_mem _ hc)
      refine ⟨List.pairwise_cons.mpr ⟨?_, this.1⟩, ?_⟩
      · intro c hc
        rcases this.2 c hc with rfl | hc
        · simp only
          omega
        · exact hx.1 c hc
      · intro c hc
        rcases List.mem_cons.mp hc with rfl | hc
        · exact .inr List.mem_cons_self
        · exact (this.2 c hc).imp id (List.mem_cons_of_mem _)

/-- The list after a put: in order, and every cell the one put, which is not `d`, or one of before. -/
theorem cellPut_sorted {α : Type} [DecidableEq α] (d : α) (k : Nat) (v : α) {l : List (Nat × α)} (h : l.Pairwise (·.1 < ·.1)) :
    (cellPut d k v l).Pairwise (·.1 < ·.1) ∧ ∀ c ∈ cellPut d k v l, (c = (k, v) ∧ v ≠ d) ∨ c ∈ l := by
  unfold cellPut
  split
  · exact ⟨h.filter _, fun c hc => .inr (List.mem_filter.mp hc).1⟩
  · next hv =>
    have := cellInsert_sorted k v (h.filter fun c => c.1 != k) fun c hc => by simpa using (List.mem_filter.mp hc).2
    exact ⟨this.1, fun c hc => (this.2 c hc).imp (⟨·, hv⟩) fun hc => (List.mem_filter.mp hc).1⟩

/-- Setting an entry keeps the register file's form. -/
theorem State.setReg_wf {s : State} (k v : Nat) (h : Regs.wf s.regs) : Regs.wf (s.setReg k v).regs := by
  have := cellPut_sorted (Dict.reset k) k v h.1
  refine ⟨this.1, fun c hc => ?_⟩
  rcases this.2 c hc with ⟨rfl, hv⟩ | hc
  · exact hv
  · exact h.2 c hc

/-! ### Reads beside a write -/

/-- Cells of other addresses do not show in a byte. -/
theorem cellGet_append_absent {α : Type} (d : α) (k : Nat) (l r : List (Nat × α)) (h : ∀ c ∈ l, c.1 ≠ k) :
    cellGet d k (l ++ r) = cellGet d k r := by
  induction l with
  | nil => rfl
  | cons c t ih => simp [cellGet, h c List.mem_cons_self, ih fun x hx => h x (List.mem_cons_of_mem _ hx)]

/-- Dropping cells of other addresses leaves a byte as it was. -/
theorem cellGet_filter_keep {α : Type} (d : α) (k : Nat) (p : Nat × α → Bool) (l : List (Nat × α)) (h : ∀ c, c.1 = k → p c = true) :
    cellGet d k (l.filter p) = cellGet d k l := by
  induction l with
  | nil => rfl
  | cons c t ih =>
    by_cases hc : c.1 = k
    · simp [h c hc, cellGet, hc]
    · by_cases hp : p c = true
      · simp [hp, cellGet, hc, ih]
      · simp [hp, cellGet, hc, ih]

end Sys2Proof.Machine
end

