-- ==== Sys2Proof/Laws/Complete.lean ====
section
/-! SUPPORT. What touching pages, sending on the fabric and completing a command leave of the state. -/

namespace Sys2Proof.Machine

/-! ### Folds and counters -/

/-- What every round keeps, a fold keeps. -/
theorem foldl_keeps {α β σ : Type} (f : σ → α) (g : σ → β → σ) (h : ∀ s b, f (g s b) = f s) (l : List β) (s : σ) : f (l.foldl g s) = f s := by
  induction l generalizing s with
  | nil => rfl
  | cons b t ih => rw [List.foldl_cons, ih, h]

/-- Waking a unit and counting leave what entries and the power record do not hold; see Laws/Issue.lean. -/
theorem State.bump_keeps {α : Type} (f : State → α) (hr : ∀ s k v, f (State.setReg s k v) = f s) (s : State) (k n : Nat) :
    f (s.bump k n) = f s := hr _ _ _

/-! ### Reads (R276, R294) -/

/-- What pages' marks do not hold: unchanged when leaves, touches and candidates change. -/
abbrev KeepsMarks {α : Type} (f : State → α) : Prop :=
  ∀ (s : State) (l : List Leaf) (t : List Touch) (c : List (Nat × Nat)),
    f { s with mem := { s.mem with leaves := l, touches := t, candidates := c } } = f s

/-- One access of a page changes its marks alone. -/
theorem State.touch_keeps {α : Type} (f : State → α) (hm : KeepsMarks f) (s : State) (j off : Nat) : f (s.touch j off) = f s := by
  have leaf (s : State) (j va : Nat) (g : Leaf → Leaf) : f (s.modLeaf j va g) = f s := hm s _ _ _
  have marks (s : State) (g : Mem → Mem) (h : ∀ m, ∃ l t c, g m = { m with leaves := l, touches := t, candidates := c }) :
      f (s.modMem g) = f s := by
    obtain ⟨l, t, c, e⟩ := h s.mem
    unfold State.modMem
    rw [e]
    exact hm s l t c
  unfold State.touch
  split
  · rfl
  · split
    · rfl
    · dsimp only
      split
      · refine (marks _ _ fun m => ⟨_, _, _, rfl⟩).trans ?_
        split
        · exact leaf _ _ _ _
        · exact (leaf _ _ _ _).trans (leaf _ _ _ _)
      · split
        · exact leaf _ _ _ _
        · exact (leaf _ _ _ _).trans (leaf _ _ _ _)

/-- Dropping bytes that were fetched changes the fabric engine alone. -/
theorem State.dropFar_keeps {α : Type} (f : State → α) (hf : ∀ (s : State) (x : Fab), f { s with fab := x } = f s) (s : State)
    (node a k : Nat) : f (s.dropFar node a k) = f s := by
  unfold State.dropFar
  split
  · rfl
  · exact hf _ _

/-- A successful read changes marks of pages and performance counters, and drops bytes that were fetched for it. -/
theorem State.didRead_keeps {α : Type} (f : State → α) (hr : ∀ s k v, f (State.setReg s k v) = f s) (hm : KeepsMarks f)
    (hf : ∀ (s : State) (x : Fab), f { s with fab := x } = f s) (s : State) (j addr n : Nat) : f (s.didRead j addr n) = f s := by
  have lent (s : State) (o : Nat) : f (s.dropLent j o n) = f s := by
    unfold State.dropLent
    split
    · rfl
    · refine foldl_keeps f _ (fun t o => ?_) _ _
      split
      · exact State.dropFar_keeps f hf _ _ _ _
      · rfl
  have counted (s : State) (o : Nat) : f (s.countReads j o n) = f s := by
    refine foldl_keeps f _ (fun t o => ?_) _ _
    split
    · exact State.count_keeps f hr _ _ _ _ _
    · rfl
  unfold State.didRead
  split
  · rw [lent]
    exact (foldl_keeps f _ (fun t o => State.touch_keeps f hm t j o) _ _).trans (counted _ _)
  · exact State.dropFar_keeps f hf _ _ _ _

/-! ### Sending on the fabric (R314 to R316, R344) -/

/-- A rekey that begins changes ports alone. -/
theorem State.startRekey_keeps {α : Type} (f : State → α) (hf : ∀ (s : State) (x : Fab), f { s with fab := x } = f s) (s : State) (p : Nat) :
    f (s.startRekey p) = f s := by
  unfold State.startRekey
  split
  · rfl
  · split
    · exact (hf _ _).trans (hf _ _)
    · rfl

/-- A frame that enters a replay buffer changes ports, their counters and performance counters alone. -/
theorem State.portPut_keeps {α : Type} (f : State → α) (hr : ∀ s k v, f (State.setReg s k v) = f s)
    (hf : ∀ (s : State) (x : Fab), f { s with fab := x } = f s) (s : State) (p : Nat) (P : Port) (t : TxFrame) (l : List TxFrame) :
    f (s.portPut p P t l) = f s := by
  have sent (u : State) (h : f u = f s) : f (((u.bump K.fabFramesTx 1).bump (K.portBytesTx p) t.frame.payload.length).count 0x51 0x10 1 none)
      = f s := by rw [State.count_keeps f hr, State.bump_keeps f hr, State.bump_keeps f hr, h]
  unfold State.portPut
  dsimp only
  split
  · exact (State.startRekey_keeps f hf _ _).trans (sent _ (hf _ _))
  · exact sent _ (hf _ _)

/-- Sending a request or response changes ports, their counters and performance counters alone. -/
theorem State.portSend_keeps {α : Type} (f : State → α) (hr : ∀ s k v, f (State.setReg s k v) = f s)
    (hf : ∀ (s : State) (x : Fab), f { s with fab := x } = f s) (s : State) (p op : Nat) (x : Frame) : f (s.portSend p op x) = f s := by
  have one (s : State) (p op : Nat) (x : Frame) : f (s.portSendOne p op x) = f s := by
    unfold State.portSendOne
    split
    · rfl
    · dsimp only
      split
      · exact hf _ _
      · exact State.portPut_keeps f hr hf _ _ _ _ _
  exact foldl_keeps f _ (fun t i => one t _ _ _) _ _

/-- A new request changes the fabric engine, its counters and performance counters alone. -/
theorem State.request_keeps {α : Type} (f : State → α) (hr : ∀ s k v, f (State.setReg s k v) = f s)
    (hf : ∀ (s : State) (x : Fab), f { s with fab := x } = f s) (s : State) (what job : Nat) (owner : QueueId)
    (xid node addr arg dst : Nat) (data : List Byte) : f (s.request what job owner xid node addr arg dst data) = f s := by
  have req (s : State) (tag : Nat) (g : Req → Req) : f (s.modReq tag g) = f s := hf s _
  have now (s : State) (r : Req) : f (s.sendReqNow r) = f s := by
    unfold State.sendReqNow
    dsimp only
    split
    · exact req _ _ _
    · rw [State.portSend_keeps f hr hf, req]
  have frame (s : State) (r : Req) : f (s.sendReqFrame r) = f s := by
    unfold State.sendReqFrame
    dsimp only
    split
    · exact req _ _ _
    · split
      · exact req _ _ _
      · rw [now, req]
  unfold State.request
  dsimp only
  rw [frame]
  refine (hf _ _).trans ?_
  split
  · exact State.dropFar_keeps f hf _ _ _ _
  · rfl

/-- Fetching far bytes sends requests alone. -/
theorem State.fetchFar_keeps {α : Type} (f : State → α) (hr : ∀ s k v, f (State.setReg s k v) = f s)
    (hf : ∀ (s : State) (x : Fab), f { s with fab := x } = f s) (s : State) (j node addr n : Nat) :
    f (s.fetchFar j node addr n) = f s := by
  refine foldl_keeps f _ (fun t i => ?_) _ _
  dsimp only
  split
  · rfl
  · exact State.request_keeps f hr hf ..

/-! ### Filling a queue and completing a command (R67, R69, R417) -/

/-- What a phrase's command cache does not hold: unchanged when a command cache changes. -/
abbrev KeepsLines {α : Type} (f : State → α) : Prop :=
  ∀ (s : State) (n : Nat) (g : List (Nat × List Byte) → List (Nat × List Byte)),
    f { s with phrases := s.phrases.modify n fun p => { p with cache := g p.cache } } = f s

/-- A line that is read for a queue changes command caches, marks of pages, the fabric engine and entries alone. -/
theorem State.codeLine_keeps {α : Type} (f : State → α) (hr : ∀ s k v, f (State.setReg s k v) = f s)
    (hf : ∀ (s : State) (x : Fab), f { s with fab := x } = f s) (hm : KeepsMarks f) (hl : KeepsLines f) (s : State) (q : QueueId)
    (cl : Clause) (la : Nat) {bs : List Byte} {t : State} (h : s.codeLine q cl la = .ok (bs, t)) : f t = f s := by
  have keep (u : State) (i : Nat) (b : List Byte) : f (u.keepLine q i b) = f u := by
    unfold State.keepLine
    split
    · exact hl u q.unit fun l => ((i, b) :: l.filter (·.1 != i)).take 256
    · rfl
  unfold State.codeLine at h
  dsimp only at h
  split at h
  · split at h <;> cases h <;> first | exact keep _ _ _ | rfl
  · unfold accBind at h
    split at h <;> try cases h
    split <;> first
      | exact (keep _ _ _).trans (State.didRead_keeps f hr hm hf _ _ _ _)
      | exact State.didRead_keeps f hr hm hf _ _ _ _

/-- Filling a queue changes the queue, command caches, marks of pages, the fabric engine and entries alone. -/
theorem State.fill_keeps {α : Type} (f : State → α) (hr : ∀ s k v, f (State.setReg s k v) = f s)
    (hf : ∀ (s : State) (x : Fab), f { s with fab := x } = f s) (hm : KeepsMarks f) (hl : KeepsLines f)
    (hq : ∀ s q g, f (State.modQueue s q g) = f s) (s : State) (q : QueueId) : f (s.fill q) = f s := by
  unfold State.fill
  generalize 2200 = n
  induction n generalizing s with
  | zero => rfl
  | succ n ih =>
    unfold State.refill
    split
    · rfl
    split
    · rfl
    split
    · rfl
    split
    · rw [ih, hq]
    split
    · rw [ih, hq]
    dsimp only
    split
    · rw [ih, hq]
    split
    · next h => rw [ih, hq, State.codeLine_keeps f hr hf hm hl _ _ _ _ h]
    · exact State.fetchFar_keeps f hr hf ..
    · rfl
    · split
      · rw [ih, hq, State.didRead_keeps f hr hm hf]
      · exact State.fetchFar_keeps f hr hf ..
      · rfl

/-- A queue changed is the queue, changed. -/
theorem State.modQueue_queue_self {s : State} {q : QueueId} {Q : Queue} (g : Queue → Queue) (h : s.queue q = some Q) :
    (s.modQueue q g).queue q = some (g Q) := by
  obtain ⟨cls, n⟩ := q
  cases cls <;> simp_all [State.queue, State.modQueue] <;>
    (obtain ⟨p, hp, rfl⟩ := h; simp [hp])

/-- A command that completes while its clause has more of them in the queue changes the queue, the clause's own record, command caches,
marks of pages, the fabric engine and entries alone. -/
theorem State.completeCmd_keeps {α : Type} (f : State → α) (hr : ∀ s k v, f (State.setReg s k v) = f s)
    (hf : ∀ (s : State) (x : Fab), f { s with fab := x } = f s) (hm : KeepsMarks f) (hl : KeepsLines f)
    (hq : ∀ s q g, f (State.modQueue s q g) = f s) (hc : ∀ (s : State) (n : Nat) (g : Clause → Clause), f (s.modClause n g) = f s) {s : State}
    {q : QueueId} {Q : Queue} {c : QCmd} {rest : List QCmd} {cl : Clause} (h : s.queue q = some Q) (hs : Q.cmds = c :: rest) (hcl : s.clause c.seq = some cl)
    (ht : Q.tagged = none) (hx : ∃ x ∈ rest, x.seq = c.seq) (o : Option (Nat × Nat)) :
    f (s.completeCmd q o) = f s := by
  have forget (u : State) : f u.forgetFar = f u := by
    unfold State.forgetFar
    split
    · rfl
    · exact hf _ _
  unfold State.completeCmd
  simp only [h, hs, hcl, ht]
  rw [State.fill_keeps f hr hf hm hl hq, forget, if_pos, hc, State.count_keeps f hr, hq]
  rw [show ∀ (t : State) (n : Nat) (g : Clause → Clause), (t.modClause n g).queue q = t.queue q from fun _ _ _ => rfl,
    State.count_keeps (·.queue q) (fun _ _ _ => rfl), State.modQueue_queue_self _ h]
  obtain ⟨x, hx, hs⟩ := hx
  simp only [Queue.holds, Bool.or_eq_true, List.any_eq_true]
  exact .inl (.inl ⟨x, hx, by simpa using hs⟩)

end Sys2Proof.Machine
end

