-- ==== Sys2Proof/Laws/Numbers.lean ====
section
/-! SUPPORT. Sums whose order nothing promises (R56, R64): they sum the values given. -/

namespace Sys2Proof.Machine

/-- A keyed value inserted into a list is there, or was there. -/
theorem mem_insertKey {α : Type} (k : Nat) (a : α) (l : List (Nat × α)) (x : Nat × α) (h : x ∈ insertKey k a l) : x = (k, a) ∨ x ∈ l := by
  induction l with
  | nil => simpa [insertKey] using h
  | cons b l ih =>
    simp only [insertKey] at h
    split at h
    · simpa using h
    · rcases List.mem_cons.1 h with e | e
      · exact .inr (by simp [e])
      · exact (ih e).imp_right (List.mem_cons_of_mem _)

/-- Sorting by keys adds nothing. -/
theorem mem_sortKeys {α : Type} (l : List (Nat × α)) (x : Nat × α) (h : x ∈ sortKeys l) : x ∈ l := by
  induction l with
  | nil => simp [sortKeys] at h
  | cons b l ih =>
    rcases mem_insertKey _ _ _ _ h with e | e
    · simp [e]
    · exact List.mem_cons_of_mem _ (ih e)

/-- An order that nothing promises is one of the values given. -/
theorem mem_anyOrder {α : Type} (seed n : Nat) (l : List α) (x : α) (h : x ∈ anyOrder seed n l) : x ∈ l := by
  obtain ⟨y, hy, rfl⟩ := List.mem_map.1 h
  obtain ⟨z, hz, rfl⟩ := List.mem_map.1 (mem_sortKeys _ _ hy)
  exact (List.mem_zipIdx' hz).2 ▸ List.getElem_mem _

/-- A sum of zeros is finite, in whatever order it is taken. -/
theorem sumF32_zeros_isFin (seed n : Nat) (l : List Num) (h : ∀ x ∈ l, x = decodeNum fmF32 0) : (sumF32 seed n l).isFin = true := by
  have step : ∀ xs : List Num, (∀ x ∈ xs, x = decodeNum fmF32 0) → ∀ b, (sumIn fmF32 false xs (decodeNum fmF32 0, b)).1 = decodeNum fmF32 0 := by
    intro xs
    induction xs with
    | nil => intros; rfl
    | cons x xs ih =>
      intro h b
      have hx := h x (by simp)
      subst hx
      have e : decodeNum fmF32 (encode fmF32 0 false 0 ((decodeNum fmF32 0).add (decodeNum fmF32 0))).code = decodeNum fmF32 0 := by decide +kernel
      simp only [sumIn, e]
      exact ih (fun y hy => h y (by simp [hy])) _
  unfold sumF32 sumTerms
  have hm := fun x hx => h x (mem_anyOrder seed n l x hx)
  cases e : anyOrder seed n l with
  | nil => rfl
  | cons x xs =>
    rw [e] at hm
    have hx := hm x (by simp)
    subst hx
    have e2 : decodeNum fmF32 (encode fmF32 0 false 0 (decodeNum fmF32 0)).code = decodeNum fmF32 0 := by decide +kernel
    simp only [e2]
    rw [step xs (fun y hy => hm y (by simp [hy]))]
    decide +kernel

end Sys2Proof.Machine
end

