-- ==== Sys2Proof/WellFormed.lean ====
section
/-! DEFINITION. Which commands are well formed: every number fits the field or the range of units that the spec gives
it. A command that is not well formed still has a meaning (Machine/Dispatch.lean); this says what a sender can
express. -/

namespace Sys2Proof

/-- Units of a class on a fully populated die (R4, R65, R66). -/
def unitsOfClass : EngineClass → Nat
  | .array | .vector | .move => 8
  | .embed => 16
  | .update => 12
  | .fabric => 16
  | .sched => 0

/-- A queue exists on the die. -/
def QueueId.ok (q : QueueId) : Bool := q.unit < unitsOfClass q.cls

/-- A hardware fault carries a reason byte, a 64-bit detail and a 32-bit progress (R100). -/
def HwFault.ok (h : HwFault) : Bool := h.reason < 2 ^ 8 && h.detail < 2 ^ 64 && h.progress < 2 ^ 32

/-- An access meets at most 4 failures of its interface (R304), and names a place in a run that a row or a sector has. -/
def MemAccess.ok (a : MemAccess) : Bool := a.retries ≤ 4 && a.corrected < 2 ^ 32 && (match a.bad with | some o => o < 2 ^ 16 | none => true)

/-- A fault that may strike is well formed. -/
def fltOk (f : Option HwFault) : Bool := match f with | some h => h.ok | none => true

/-- A frame's fields fit their widths, its payload is whole 16-byte units of at most 512 bytes (R316). -/
def Frame.ok (f : Frame) : Bool :=
  f.port < 16 && f.src < 2 ^ 16 && f.acting < 2 ^ 16 && f.dst < 2 ^ 16 && f.flags < 2 ^ 8 && f.key < 2 ^ 32 &&
    f.tag < 2 ^ 32 && f.addr < 2 ^ 64 && f.arg < 2 ^ 32 && f.status < 2 ^ 32 && f.payload.length ≤ 512 &&
    f.payload.length % 16 == 0

/-- A transaction header's fields fit their widths (R351). -/
def TxHdr.ok (h : TxHdr) : Bool :=
  h.job < 2 ^ 8 && h.tag < 2 ^ 16 && h.addr < 2 ^ 64 && h.bytes < 2 ^ 32 && h.session < 2 ^ 32

/-- A map request's fields fit their widths (R278). -/
def MapReq.ok (r : MapReq) : Bool :=
  r.size < 2 ^ 8 && r.tier < 2 ^ 8 && r.policy < 2 ^ 8 && r.srcJob < 2 ^ 8 && r.va < 2 ^ 64 && r.length < 2 ^ 64 &&
    r.srcVa < 2 ^ 64

/-- A mailbox message's body is at most 65,536 bytes and its header fields fit (R361). -/
def MsgHdr.ok (m : MsgHdr) (body : List Byte) : Bool :=
  m.seq < 2 ^ 32 && m.session < 2 ^ 32 && m.major < 2 ^ 16 && m.status < 2 ^ 16 && body.length ≤ 65536

/-- A written value fits what a write item can carry (R480). -/
def OdVal.ok (v : OdVal) : Bool := v.ty < 2 ^ 8 && v.bytes.length < 2 ^ 16

/-- A power-managed unit exists on the die (R398). -/
def PowerUnit.ok : PowerUnit → Bool
  | .array n | .vector n | .sequencer n => n < 8
  | .ee k => k < 16
  | .slice s => s < 12
  | .fabric => true
  | .core c => c < 4

/-- The source of a keyed add is well formed. -/
def KeyedSrc.ok : KeyedSrc → Bool
  | .ee k _ => k < 16
  | .frame f => f.ok

/-- A ring belongs to a job or is the session event ring. -/
def RingId.ok : RingId → Bool
  | .completion j | .event j => j < 64
  | .session => true

/-- A sideband fragment's fields fit their widths (R485). -/
def SbFrame.ok (f : SbFrame) : Bool :=
  f.ethertype < 2 ^ 16 && f.version < 2 ^ 8 && f.slot < 2 ^ 8 && f.kind < 2 ^ 8 && f.fragIndex < 2 ^ 16 &&
    f.fragCount < 2 ^ 16 && f.exchange < 2 ^ 32 && f.data.length ≤ 1500

/-- A frame carries whole 16-byte units of at most 512 bytes (R316). -/
def FrameError.ok : FrameError → Bool
  | .undefined n => n ≤ 512 && n % 16 == 0
  | _ => true

/-- A command is well formed. -/
def Instr.wf : Instr → Bool
  | .nop q | .clauseOpen q | .clauseDecl q | .fence q | .regionDefine q | .regionRelease q
  | .debugBreak q | .debugHaltResume q | .debugHaltEnd q => q.ok
  | .memoryWriteAck q _ a => q.ok && a.ok
  | .quotaWaitExpiry q j => q.ok && j < 64
  | .codeSwitch j | .submissionEntry j | .stepEntry j | .checkpointDone j | .jobScrubDone j => j < 64
  | .codeRegionRetired j r => j < 64 && r < 16
  | .demotionSweep j _ | .agreeResultQueryTimer j _ => j < 64
  | .agreeTimeout j g _ => j < 64 && g < 2 ^ 16
  | .create j _ | .start j _ | .park j _ | .unpark j _ | .checkpoint j _ | .destroy j _ => j < 64
  | .restore j _ => j < 64
  | .accRead ⟨n, f⟩ | .accWrite ⟨n, f⟩
  | .statLoad n f | .pass n f | .readout n f | .scaleLoad n f | .rescaleLoad n f | .elemwise n f
  | .vunary n f | .vbinary n f | .vternary n f | .vreduce n f | .vquant n f | .vdequant n f | .vcombine n f
  | .vconvert n f | .load n f | .store n f | .tload n f | .stashPut n f | .stashGet n f | .rbAdd n f | .rbRead n f
  | .spillAddDone n f => n < 8 && fltOk f
  | .accClear n => n < 8
  | .moveSectorArrival n _ a => n < 8 && a.ok
  | .lookupPool k f | .gradScatter k f | .combineFlush k f => k < 16 && fltOk f
  | .rowFetchArrival k _ a => k < 16 && a.ok
  | .partialAck k _ | .sketchHalving k => k < 16
  | .overflowPageGrant k j => k < 16 && j < 64
  | .commit sl m => sl < 12 && m.access.ok && fltOk m.fault
  | .recipeLoad sl a | .exportRows sl a => sl < 12 && a.ok
  | .releaseTimeout sl => sl < 12
  | .allReduce q | .reduceScatter q | .allGather q | .broadcast q | .reduce q | .allToAll q | .agree q | .gather q
  | .refetch q | .stepRelease q | .remoteGet q | .remotePut q | .remoteAdd q | .remoteAtomic q | .remoteSignal q
  | .insertedFlush q | .insertedFlushDone q | .collTimeout q => q < 16
  | .admitWaiting | .handlerEntryDecide | .migrationWindow | .pageMigrationWindow | .pageSweep => true
  | .commitReplay seq => seq < 2 ^ 64
  | .rowMoveSlotFree _ | .pendingPageArrival _ | .pageMoveCopyDone _ | .pageFrameRelease _ => true
  | .keyedAdd x => x.src.ok && x.access.ok
  | .write f | .add f | .atomic f => f.frame.ok && f.access.ok
  | .patrolScrub a _ => a < 2 ^ 48
  | .onDieScrub c u w _ => c < 2 ^ 8 && u < 2 ^ 16 && w.code < 2 ^ 8 && w.offset < 2 ^ 40
  | .hbmTempReport s _ | .hbmOvertemp s | .hbmReportTimeout s => s < 12
  | .map j _ r | .unmap j _ r | .mapAlias j _ r | .retarget j _ r => j < 64 && r.ok
  | .read f | .readResp f | .writeAck f | .atomicResp f | .signal f | .rowReq f
  | .rowResp f | .candidate f | .collData f | .agreeContrib f | .agreeResult f | .release f | .releaseFloor f
  | .gatherReq f | .gatherResp f | .aliasInstall f | .aliasAck f | .unreachable f | .agreeQuery f => f.ok
  | .fabricLinkAck p n | .fabricLinkNak p n | .fabricLinkCredit p n => p < 16 && n < 2 ^ 16
  | .keyingFrame p _ | .fabricReplayTimeout p | .portTrainingTimeout p | .portTrainingRetry p | .keyingTimeout p
  | .portLossOfSignal p | .quarantineEnd p | .rekeyDue p | .prevKeyExpiry p => p < 16
  | .portSignalDetect p l | .portTrainingDone p l => p < 16 && l < 16
  | .laneLossOfLock p l => p < 16 && l < 4
  | .laneFecWindow p l _ _ => p < 16 && l < 4
  | .planeReportExpiry p n => p < 16 && n < 2 ^ 16
  | .corruptFabricFrame p e => p < 16 && e.ok
  | .requestTimeout t => t < 2 ^ 32
  | .retryWindowExpiry n => n < 2 ^ 16
  | .takeOver v | .nodeIdWrite v | .deepIdle v | .attestNonce v | .debugToken v | .debugLock v | .clearDegraded v
  | .snapshot v | .sampleSeed v | .sampleConsumed v | .alertStatus v => v.ok
  | .portService p v => p < 16 && v.ok
  | .counterSelect u c v | .countClear u c v => u < 2 ^ 8 && c < 8 && v.ok
  | .dictWrite i s v => i < 2 ^ 16 && s < 2 ^ 8 && v.ok
  | .takeoverRetry => true
  | .memRead h => h.ok
  | .memWrite h d => h.ok && d.bytes.length == h.bytes && d.access.ok
  | .doorbellSubmission j i n | .doorbellCompletion j i n | .doorbellEvent j i n =>
    j < 2 ^ 8 && i < 2 ^ 32 && n < 2 ^ 32
  | .heartbeat n => n < 2 ^ 32
  | .msgResp _ | .ryeveLinkAck _ | .ryeveReplayTimeout | .ryeveTrainingDone | .ryeveSignalDetect => true
  | .sessionOpen m b | .sessionResume m b | .sessionClose m b | .heartbeatMessage m b | .fwStage m b | .fwActivate m b
  | .odRead m b | .odWrite m b => m.ok b
  | .heartbeatTimeout | .leaseEnd | .holdOffEnd => true
  | .governorWindow _ | .powerSample _ _ | .dieSensorRead _ => true
  | .standbyStart _ slot | .modRstRelease slot => slot < 2 ^ 8
  | .standbyStop | .inrushEnd => true
  | .inputUndervoltage _ _ | .inputOvervoltage _ _ | .undervoltageRecovery _ _ => true
  | .railFault g | .railGroupGood g | .railGroupOff g => 1 ≤ g && g ≤ 6
  | .pllLock => true
  | .pllUnlock p | .pllRelock p => p < 3
  | .modEnAssert | .modEnDeassert | .modRstAssert | .pfwHold | .pfwRelease => true
  | .unitIdleEntry u | .napDelayExpiry u | .offDelayExpiry u => u.ok
  | .watchdogExpiry c | .fwCoreRestart c => c < 4
  | .updateHandoverDone _ | .handoverDeadline | .lockstepMismatch | .attestReportReady => true
  | .bootComplete l => l.all (· < 2 ^ 32)
  | .fuseCommit k => k < 4
  | .debugChallenge _ | .debugLifetimeEnd | .challengeExpiry => true
  | .serviceRemove _ r | .serviceTest _ r | .serviceReturn _ r => r.cls < 2 ^ 8 && r.unit < 2 ^ 16 && r.mode < 2 ^ 8
  | .serviceRemovalDone | .selfTestDone _ | .snapshotPeriodExpiry => true
  | .beacon | .beaconLoss | .sidebandReassemblyTimeout => true
  | .sidebandFrame f => f.ok
  | .notifyIntervalEnd r => r.ok
  | .rawInputEdge _ _ => true
  | .memoryReadArrival _ a => a.ok

end Sys2Proof
end

