-- ==== Sys2Proof/Laws/PerInstr.lean ====
section
/-! SUPPORT. Families of statements about every command as syntax. Queued: the queue that a well-formed command names is one of the
die's (R4, R65, R66). -/

namespace Sys2Proof.Laws

/-- The queue that a command names: the one it issues from, or the one whose command it carries on. -/
def queueOf : Instr → Option QueueId
  | .nop x | .clauseOpen x | .clauseDecl x | .fence x | .regionDefine x | .regionRelease x | .debugBreak x
  | .debugHaltResume x | .debugHaltEnd x | .memoryWriteAck x _ _ | .quotaWaitExpiry x _ => some x
  | .statLoad x _ | .pass x _ | .readout x _ | .scaleLoad x _ | .rescaleLoad x _ | .elemwise x _ | .accClear x | .accRead ⟨x, _⟩
  | .accWrite ⟨x, _⟩ | .spillAddDone x _ => some ⟨.array, x⟩
  | .vunary x _ | .vbinary x _ | .vternary x _ | .vreduce x _ | .vquant x _ | .vdequant x _ | .vcombine x _ | .vconvert x _ => some ⟨.vector, x⟩
  | .load x _ | .store x _ | .tload x _ | .stashPut x _ | .stashGet x _ | .rbAdd x _ | .rbRead x _ | .moveSectorArrival x _ _ => some ⟨.move, x⟩
  | .lookupPool x _ | .gradScatter x _ | .combineFlush x _ | .rowFetchArrival x _ _ | .partialAck x _ | .sketchHalving x
  | .overflowPageGrant x _ => some ⟨.embed, x⟩
  | .commit x _ | .recipeLoad x _ | .exportRows x _ | .releaseTimeout x => some ⟨.update, x⟩
  | .allReduce x | .reduceScatter x | .allGather x | .broadcast x | .reduce x | .allToAll x | .agree x | .gather x
  | .refetch x | .stepRelease x | .remoteGet x | .remotePut x | .remoteAdd x | .remoteAtomic x | .remoteSignal x
  | .insertedFlush x | .insertedFlushDone x | .collTimeout x => some ⟨.fabric, x⟩
  | _ => none

/-- A queue that exists on the die is among its queues. -/
theorem queue_mem {q : QueueId} (h : q.ok = true) : q ∈ Machine.allQueues := by
  obtain ⟨c, n⟩ := q
  cases c <;> have := of_decide_eq_true h <;> simp_all [unitsOfClass, Machine.allQueues]

end Sys2Proof.Laws

namespace Sys2Proof.Laws.Queued

/-- The queue that a well-formed command names is one of the die's. -/
def Statement (i : Instr) : Prop := i.wf = true → ∀ q, queueOf i = some q → q ∈ Machine.allQueues

/-- Of two checks that hold, the first does. -/
theorem both_left {a b : Bool} (h : (a && b) = true) : a = true := (Bool.and_eq_true_iff.mp h).1

/-- A command that names no queue. -/
theorem of_none {i : Instr} (h : queueOf i = none) : Statement i := fun _ q e => by simp [h] at e

/-- A command whose form says that its queue exists. -/
theorem of_ok {i : Instr} {q : QueueId} (h : queueOf i = some q) (k : i.wf = true → q.ok = true) : Statement i := fun w p e => by
  rw [h] at e
  cases e
  exact queue_mem (k w)

theorem nop (q : QueueId) : Statement (.nop q) := of_ok rfl (fun w => w)
theorem clauseOpen (q : QueueId) : Statement (.clauseOpen q) := of_ok rfl (fun w => w)
theorem clauseDecl (q : QueueId) : Statement (.clauseDecl q) := of_ok rfl (fun w => w)
theorem fence (q : QueueId) : Statement (.fence q) := of_ok rfl (fun w => w)
theorem regionDefine (q : QueueId) : Statement (.regionDefine q) := of_ok rfl (fun w => w)
theorem regionRelease (q : QueueId) : Statement (.regionRelease q) := of_ok rfl (fun w => w)
theorem codeSwitch (j : Nat) : Statement (.codeSwitch j) := of_none rfl
theorem statLoad (n : Nat) (flt : Option HwFault) : Statement (.statLoad n flt) := of_ok rfl both_left
theorem pass (n : Nat) (flt : Option HwFault) : Statement (.pass n flt) := of_ok rfl both_left
theorem readout (n : Nat) (flt : Option HwFault) : Statement (.readout n flt) := of_ok rfl both_left
theorem scaleLoad (n : Nat) (flt : Option HwFault) : Statement (.scaleLoad n flt) := of_ok rfl both_left
theorem rescaleLoad (n : Nat) (flt : Option HwFault) : Statement (.rescaleLoad n flt) := of_ok rfl both_left
theorem elemwise (n : Nat) (flt : Option HwFault) : Statement (.elemwise n flt) := of_ok rfl both_left
theorem accClear (n : Nat) : Statement (.accClear n) := of_ok rfl (fun w => w)
theorem vunary (n : Nat) (flt : Option HwFault) : Statement (.vunary n flt) := of_ok rfl both_left
theorem vbinary (n : Nat) (flt : Option HwFault) : Statement (.vbinary n flt) := of_ok rfl both_left
theorem vternary (n : Nat) (flt : Option HwFault) : Statement (.vternary n flt) := of_ok rfl both_left
theorem vreduce (n : Nat) (flt : Option HwFault) : Statement (.vreduce n flt) := of_ok rfl both_left
theorem vquant (n : Nat) (flt : Option HwFault) : Statement (.vquant n flt) := of_ok rfl both_left
theorem vdequant (n : Nat) (flt : Option HwFault) : Statement (.vdequant n flt) := of_ok rfl both_left
theorem vcombine (n : Nat) (flt : Option HwFault) : Statement (.vcombine n flt) := of_ok rfl both_left
theorem vconvert (n : Nat) (flt : Option HwFault) : Statement (.vconvert n flt) := of_ok rfl both_left
theorem load (n : Nat) (flt : Option HwFault) : Statement (.load n flt) := of_ok rfl both_left
theorem store (n : Nat) (flt : Option HwFault) : Statement (.store n flt) := of_ok rfl both_left
theorem tload (n : Nat) (flt : Option HwFault) : Statement (.tload n flt) := of_ok rfl both_left
theorem stashPut (n : Nat) (flt : Option HwFault) : Statement (.stashPut n flt) := of_ok rfl both_left
theorem stashGet (n : Nat) (flt : Option HwFault) : Statement (.stashGet n flt) := of_ok rfl both_left
theorem rbAdd (n : Nat) (flt : Option HwFault) : Statement (.rbAdd n flt) := of_ok rfl both_left
theorem rbRead (n : Nat) (flt : Option HwFault) : Statement (.rbRead n flt) := of_ok rfl both_left
theorem lookupPool (k : Nat) (flt : Option HwFault) : Statement (.lookupPool k flt) := of_ok rfl both_left
theorem gradScatter (k : Nat) (flt : Option HwFault) : Statement (.gradScatter k flt) := of_ok rfl both_left
theorem combineFlush (k : Nat) (flt : Option HwFault) : Statement (.combineFlush k flt) := of_ok rfl both_left
theorem commit (sl : Nat) (m : SliceMet) : Statement (.commit sl m) := of_ok rfl (fun w => both_left (both_left w))
theorem recipeLoad (sl : Nat) (a : MemAccess) : Statement (.recipeLoad sl a) := of_ok rfl both_left
theorem exportRows (sl : Nat) (a : MemAccess) : Statement (.exportRows sl a) := of_ok rfl both_left
theorem allReduce (q : Nat) : Statement (.allReduce q) := of_ok rfl (fun w => w)
theorem reduceScatter (q : Nat) : Statement (.reduceScatter q) := of_ok rfl (fun w => w)
theorem allGather (q : Nat) : Statement (.allGather q) := of_ok rfl (fun w => w)
theorem broadcast (q : Nat) : Statement (.broadcast q) := of_ok rfl (fun w => w)
theorem reduce (q : Nat) : Statement (.reduce q) := of_ok rfl (fun w => w)
theorem allToAll (q : Nat) : Statement (.allToAll q) := of_ok rfl (fun w => w)
theorem agree (q : Nat) : Statement (.agree q) := of_ok rfl (fun w => w)
theorem gather (q : Nat) : Statement (.gather q) := of_ok rfl (fun w => w)
theorem refetch (q : Nat) : Statement (.refetch q) := of_ok rfl (fun w => w)
theorem stepRelease (q : Nat) : Statement (.stepRelease q) := of_ok rfl (fun w => w)
theorem remoteGet (q : Nat) : Statement (.remoteGet q) := of_ok rfl (fun w => w)
theorem remotePut (q : Nat) : Statement (.remotePut q) := of_ok rfl (fun w => w)
theorem remoteAdd (q : Nat) : Statement (.remoteAdd q) := of_ok rfl (fun w => w)
theorem remoteAtomic (q : Nat) : Statement (.remoteAtomic q) := of_ok rfl (fun w => w)
theorem remoteSignal (q : Nat) : Statement (.remoteSignal q) := of_ok rfl (fun w => w)
theorem debugBreak (q : QueueId) : Statement (.debugBreak q) := of_ok rfl (fun w => w)
theorem accRead (x : Struck) : Statement (.accRead x) := of_ok rfl both_left
theorem accWrite (x : Struck) : Statement (.accWrite x) := of_ok rfl both_left
theorem debugHaltResume (q : QueueId) : Statement (.debugHaltResume q) := of_ok rfl (fun w => w)
theorem debugHaltEnd (q : QueueId) : Statement (.debugHaltEnd q) := of_ok rfl (fun w => w)
theorem rowFetchArrival (k : Nat) (id : Nat) (a : MemAccess) : Statement (.rowFetchArrival k id a) := of_ok rfl both_left
theorem moveSectorArrival (n : Nat) (id : Nat) (a : MemAccess) : Statement (.moveSectorArrival n id a) := of_ok rfl both_left
theorem memoryWriteAck (q : QueueId) (id : Nat) (a : MemAccess) : Statement (.memoryWriteAck q id a) := of_ok rfl both_left
theorem partialAck (k : Nat) (id : Nat) : Statement (.partialAck k id) := of_ok rfl (fun w => w)
theorem spillAddDone (n : Nat) (flt : Option HwFault) : Statement (.spillAddDone n flt) := of_ok rfl both_left
theorem submissionEntry (j : Nat) : Statement (.submissionEntry j) := of_none rfl
theorem stepEntry (j : Nat) : Statement (.stepEntry j) := of_none rfl
theorem admitWaiting : Statement .admitWaiting := of_none rfl
theorem handlerEntryDecide : Statement .handlerEntryDecide := of_none rfl
theorem quotaWaitExpiry (q : QueueId) (j : Nat) : Statement (.quotaWaitExpiry q j) := of_ok rfl both_left
theorem overflowPageGrant (k : Nat) (j : Nat) : Statement (.overflowPageGrant k j) := of_ok rfl both_left
theorem commitReplay (seq : Nat) : Statement (.commitReplay seq) := of_none rfl
theorem insertedFlush (q : Nat) : Statement (.insertedFlush q) := of_ok rfl (fun w => w)
theorem insertedFlushDone (q : Nat) : Statement (.insertedFlushDone q) := of_ok rfl (fun w => w)
theorem codeRegionRetired (j : Nat) (r : Nat) : Statement (.codeRegionRetired j r) := of_none rfl
theorem sketchHalving (k : Nat) : Statement (.sketchHalving k) := of_ok rfl (fun w => w)
theorem demotionSweep (j : Nat) (t : Nat) : Statement (.demotionSweep j t) := of_none rfl
theorem migrationWindow : Statement .migrationWindow := of_none rfl
theorem rowMoveSlotFree (i : Nat) : Statement (.rowMoveSlotFree i) := of_none rfl
theorem keyedAdd (x : KeyedTry) : Statement (.keyedAdd x) := of_none rfl
theorem pendingPageArrival (i : Nat) : Statement (.pendingPageArrival i) := of_none rfl
theorem pageMoveCopyDone (i : Nat) : Statement (.pageMoveCopyDone i) := of_none rfl
theorem pageFrameRelease (i : Nat) : Statement (.pageFrameRelease i) := of_none rfl
theorem pageMigrationWindow : Statement .pageMigrationWindow := of_none rfl
theorem pageSweep : Statement .pageSweep := of_none rfl
theorem patrolScrub (addr : Nat) (r : ScrubResult) : Statement (.patrolScrub addr r) := of_none rfl
theorem onDieScrub (cls unit : Nat) (w : SramWord) (r : ScrubResult) : Statement (.onDieScrub cls unit w r) := of_none rfl
theorem hbmTempReport (st : Nat) (milli : Int) : Statement (.hbmTempReport st milli) := of_none rfl
theorem hbmOvertemp (st : Nat) : Statement (.hbmOvertemp st) := of_none rfl
theorem hbmReportTimeout (st : Nat) : Statement (.hbmReportTimeout st) := of_none rfl
theorem map (j : Nat) (p : Path) (r : MapReq) : Statement (.map j p r) := of_none rfl
theorem unmap (j : Nat) (p : Path) (r : MapReq) : Statement (.unmap j p r) := of_none rfl
theorem mapAlias (j : Nat) (p : Path) (r : MapReq) : Statement (.mapAlias j p r) := of_none rfl
theorem retarget (j : Nat) (p : Path) (r : MapReq) : Statement (.retarget j p r) := of_none rfl
theorem read (f : Frame) : Statement (.read f) := of_none rfl
theorem readResp (f : Frame) : Statement (.readResp f) := of_none rfl
theorem write (f : MetFrame) : Statement (.write f) := of_none rfl
theorem writeAck (f : Frame) : Statement (.writeAck f) := of_none rfl
theorem add (f : MetFrame) : Statement (.add f) := of_none rfl
theorem atomic (f : MetFrame) : Statement (.atomic f) := of_none rfl
theorem atomicResp (f : Frame) : Statement (.atomicResp f) := of_none rfl
theorem signal (f : Frame) : Statement (.signal f) := of_none rfl
theorem rowReq (f : Frame) : Statement (.rowReq f) := of_none rfl
theorem rowResp (f : Frame) : Statement (.rowResp f) := of_none rfl
theorem candidate (f : Frame) : Statement (.candidate f) := of_none rfl
theorem collData (f : Frame) : Statement (.collData f) := of_none rfl
theorem agreeContrib (f : Frame) : Statement (.agreeContrib f) := of_none rfl
theorem agreeResult (f : Frame) : Statement (.agreeResult f) := of_none rfl
theorem release (f : Frame) : Statement (.release f) := of_none rfl
theorem releaseFloor (f : Frame) : Statement (.releaseFloor f) := of_none rfl
theorem gatherReq (f : Frame) : Statement (.gatherReq f) := of_none rfl
theorem gatherResp (f : Frame) : Statement (.gatherResp f) := of_none rfl
theorem aliasInstall (f : Frame) : Statement (.aliasInstall f) := of_none rfl
theorem aliasAck (f : Frame) : Statement (.aliasAck f) := of_none rfl
theorem unreachable (f : Frame) : Statement (.unreachable f) := of_none rfl
theorem agreeQuery (f : Frame) : Statement (.agreeQuery f) := of_none rfl
theorem fabricLinkAck (p : Nat) (seq : Nat) : Statement (.fabricLinkAck p seq) := of_none rfl
theorem fabricLinkNak (p : Nat) (seq : Nat) : Statement (.fabricLinkNak p seq) := of_none rfl
theorem fabricLinkCredit (p : Nat) (n : Nat) : Statement (.fabricLinkCredit p n) := of_none rfl
theorem keyingFrame (p : Nat) (m : KeyingMsg) : Statement (.keyingFrame p m) := of_none rfl
theorem fabricReplayTimeout (p : Nat) : Statement (.fabricReplayTimeout p) := of_none rfl
theorem portSignalDetect (p : Nat) (lanes : Nat) : Statement (.portSignalDetect p lanes) := of_none rfl
theorem portTrainingDone (p : Nat) (lanes : Nat) : Statement (.portTrainingDone p lanes) := of_none rfl
theorem portTrainingTimeout (p : Nat) : Statement (.portTrainingTimeout p) := of_none rfl
theorem portTrainingRetry (p : Nat) : Statement (.portTrainingRetry p) := of_none rfl
theorem keyingTimeout (p : Nat) : Statement (.keyingTimeout p) := of_none rfl
theorem portLossOfSignal (p : Nat) : Statement (.portLossOfSignal p) := of_none rfl
theorem quarantineEnd (p : Nat) : Statement (.quarantineEnd p) := of_none rfl
theorem laneLossOfLock (p : Nat) (l : Nat) : Statement (.laneLossOfLock p l) := of_none rfl
theorem laneFecWindow (p : Nat) (l : Nat) (corrected : Nat) (received : Nat) : Statement (.laneFecWindow p l corrected received) := of_none rfl
theorem rekeyDue (p : Nat) : Statement (.rekeyDue p) := of_none rfl
theorem prevKeyExpiry (p : Nat) : Statement (.prevKeyExpiry p) := of_none rfl
theorem planeReportExpiry (p : Nat) (node : Nat) : Statement (.planeReportExpiry p node) := of_none rfl
theorem requestTimeout (tag : Nat) : Statement (.requestTimeout tag) := of_none rfl
theorem retryWindowExpiry (node : Nat) : Statement (.retryWindowExpiry node) := of_none rfl
theorem agreeTimeout (j : Nat) (g : Nat) (step : Nat) : Statement (.agreeTimeout j g step) := of_none rfl
theorem agreeResultQueryTimer (j : Nat) (step : Nat) : Statement (.agreeResultQueryTimer j step) := of_none rfl
theorem collTimeout (q : Nat) : Statement (.collTimeout q) := of_ok rfl (fun w => w)
theorem releaseTimeout (sl : Nat) : Statement (.releaseTimeout sl) := of_ok rfl (fun w => w)
theorem takeOver (v : OdVal) : Statement (.takeOver v) := of_none rfl
theorem takeoverRetry : Statement .takeoverRetry := of_none rfl
theorem nodeIdWrite (v : OdVal) : Statement (.nodeIdWrite v) := of_none rfl
theorem portService (p : Nat) (v : OdVal) : Statement (.portService p v) := of_none rfl
theorem memRead (h : TxHdr) : Statement (.memRead h) := of_none rfl
theorem memWrite (h : TxHdr) (data : MetData) : Statement (.memWrite h data) := of_none rfl
theorem doorbellSubmission (job : Nat) (index : Nat) (session : Nat) : Statement (.doorbellSubmission job index session) := of_none rfl
theorem doorbellCompletion (job : Nat) (index : Nat) (session : Nat) : Statement (.doorbellCompletion job index session) := of_none rfl
theorem doorbellEvent (job : Nat) (index : Nat) (session : Nat) : Statement (.doorbellEvent job index session) := of_none rfl
theorem heartbeat (session : Nat) : Statement (.heartbeat session) := of_none rfl
theorem msgResp (p : Path) : Statement (.msgResp p) := of_none rfl
theorem ryeveLinkAck (l : LinkFrame) : Statement (.ryeveLinkAck l) := of_none rfl
theorem ryeveReplayTimeout : Statement .ryeveReplayTimeout := of_none rfl
theorem ryeveTrainingDone : Statement .ryeveTrainingDone := of_none rfl
theorem ryeveSignalDetect : Statement .ryeveSignalDetect := of_none rfl
theorem sessionOpen (m : MsgHdr) (body : List Byte) : Statement (.sessionOpen m body) := of_none rfl
theorem sessionResume (m : MsgHdr) (body : List Byte) : Statement (.sessionResume m body) := of_none rfl
theorem sessionClose (m : MsgHdr) (body : List Byte) : Statement (.sessionClose m body) := of_none rfl
theorem heartbeatMessage (m : MsgHdr) (body : List Byte) : Statement (.heartbeatMessage m body) := of_none rfl
theorem fwStage (m : MsgHdr) (body : List Byte) : Statement (.fwStage m body) := of_none rfl
theorem fwActivate (m : MsgHdr) (body : List Byte) : Statement (.fwActivate m body) := of_none rfl
theorem odRead (m : MsgHdr) (body : List Byte) : Statement (.odRead m body) := of_none rfl
theorem odWrite (m : MsgHdr) (body : List Byte) : Statement (.odWrite m body) := of_none rfl
theorem heartbeatTimeout : Statement .heartbeatTimeout := of_none rfl
theorem leaseEnd : Statement .leaseEnd := of_none rfl
theorem holdOffEnd : Statement .holdOffEnd := of_none rfl
theorem create (j : Nat) (p : Path) : Statement (.create j p) := of_none rfl
theorem start (j : Nat) (p : Path) : Statement (.start j p) := of_none rfl
theorem park (j : Nat) (p : Path) : Statement (.park j p) := of_none rfl
theorem unpark (j : Nat) (p : Path) : Statement (.unpark j p) := of_none rfl
theorem checkpoint (j : Nat) (p : Path) : Statement (.checkpoint j p) := of_none rfl
theorem destroy (j : Nat) (p : Path) : Statement (.destroy j p) := of_none rfl
theorem checkpointDone (j : Nat) : Statement (.checkpointDone j) := of_none rfl
theorem jobScrubDone (j : Nat) : Statement (.jobScrubDone j) := of_none rfl
theorem governorWindow (measured : Nat) : Statement (.governorWindow measured) := of_none rfl
theorem powerSample (mv : Nat) (ma : Nat) : Statement (.powerSample mv ma) := of_none rfl
theorem dieSensorRead (temps : List Int) : Statement (.dieSensorRead temps) := of_none rfl
theorem standbyStart (mv : Nat) (slot : Nat) : Statement (.standbyStart mv slot) := of_none rfl
theorem standbyStop : Statement .standbyStop := of_none rfl
theorem inrushEnd : Statement .inrushEnd := of_none rfl
theorem inputUndervoltage (mv : Nat) (us : Nat) : Statement (.inputUndervoltage mv us) := of_none rfl
theorem inputOvervoltage (mv : Nat) (us : Nat) : Statement (.inputOvervoltage mv us) := of_none rfl
theorem railFault (group : Nat) : Statement (.railFault group) := of_none rfl
theorem undervoltageRecovery (mv : Nat) (us : Nat) : Statement (.undervoltageRecovery mv us) := of_none rfl
theorem railGroupGood (g : Nat) : Statement (.railGroupGood g) := of_none rfl
theorem railGroupOff (g : Nat) : Statement (.railGroupOff g) := of_none rfl
theorem pllLock : Statement .pllLock := of_none rfl
theorem pllUnlock (p : Nat) : Statement (.pllUnlock p) := of_none rfl
theorem pllRelock (p : Nat) : Statement (.pllRelock p) := of_none rfl
theorem modEnAssert : Statement .modEnAssert := of_none rfl
theorem modEnDeassert : Statement .modEnDeassert := of_none rfl
theorem modRstAssert : Statement .modRstAssert := of_none rfl
theorem modRstRelease (slot : Nat) : Statement (.modRstRelease slot) := of_none rfl
theorem pfwHold : Statement .pfwHold := of_none rfl
theorem pfwRelease : Statement .pfwRelease := of_none rfl
theorem unitIdleEntry (u : PowerUnit) : Statement (.unitIdleEntry u) := of_none rfl
theorem napDelayExpiry (u : PowerUnit) : Statement (.napDelayExpiry u) := of_none rfl
theorem offDelayExpiry (u : PowerUnit) : Statement (.offDelayExpiry u) := of_none rfl
theorem deepIdle (v : OdVal) : Statement (.deepIdle v) := of_none rfl
theorem watchdogExpiry (c : Nat) : Statement (.watchdogExpiry c) := of_none rfl
theorem fwCoreRestart (c : Nat) : Statement (.fwCoreRestart c) := of_none rfl
theorem updateHandoverDone (accepted : Bool) : Statement (.updateHandoverDone accepted) := of_none rfl
theorem handoverDeadline : Statement .handoverDeadline := of_none rfl
theorem bootComplete (failed : List Nat) : Statement (.bootComplete failed) := of_none rfl
theorem fuseCommit (kind : Nat) : Statement (.fuseCommit kind) := of_none rfl
theorem lockstepMismatch : Statement .lockstepMismatch := of_none rfl
theorem attestNonce (v : OdVal) : Statement (.attestNonce v) := of_none rfl
theorem attestReportReady : Statement .attestReportReady := of_none rfl
theorem debugChallenge (p : Path) : Statement (.debugChallenge p) := of_none rfl
theorem debugToken (v : OdVal) : Statement (.debugToken v) := of_none rfl
theorem debugLock (v : OdVal) : Statement (.debugLock v) := of_none rfl
theorem debugLifetimeEnd : Statement .debugLifetimeEnd := of_none rfl
theorem challengeExpiry : Statement .challengeExpiry := of_none rfl
theorem serviceRemove (p : Path) (r : ServiceReq) : Statement (.serviceRemove p r) := of_none rfl
theorem serviceTest (p : Path) (r : ServiceReq) : Statement (.serviceTest p r) := of_none rfl
theorem serviceReturn (p : Path) (r : ServiceReq) : Statement (.serviceReturn p r) := of_none rfl
theorem serviceRemovalDone : Statement .serviceRemovalDone := of_none rfl
theorem selfTestDone (pass : Bool) : Statement (.selfTestDone pass) := of_none rfl
theorem clearDegraded (v : OdVal) : Statement (.clearDegraded v) := of_none rfl
theorem snapshot (v : OdVal) : Statement (.snapshot v) := of_none rfl
theorem snapshotPeriodExpiry : Statement .snapshotPeriodExpiry := of_none rfl
theorem counterSelect (unit : Nat) (c : Nat) (v : OdVal) : Statement (.counterSelect unit c v) := of_none rfl
theorem countClear (unit : Nat) (c : Nat) (v : OdVal) : Statement (.countClear unit c v) := of_none rfl
theorem sampleSeed (v : OdVal) : Statement (.sampleSeed v) := of_none rfl
theorem sampleConsumed (v : OdVal) : Statement (.sampleConsumed v) := of_none rfl
theorem alertStatus (v : OdVal) : Statement (.alertStatus v) := of_none rfl
theorem dictWrite (index : Nat) (sub : Nat) (v : OdVal) : Statement (.dictWrite index sub v) := of_none rfl
theorem beacon : Statement .beacon := of_none rfl
theorem beaconLoss : Statement .beaconLoss := of_none rfl
theorem sidebandReassemblyTimeout : Statement .sidebandReassemblyTimeout := of_none rfl
theorem restore (j : Nat) (container : List Byte) : Statement (.restore j container) := of_none rfl
theorem sidebandFrame (f : SbFrame) : Statement (.sidebandFrame f) := of_none rfl
theorem notifyIntervalEnd (r : RingId) : Statement (.notifyIntervalEnd r) := of_none rfl
theorem rawInputEdge (p : Pin) (level : Bool) : Statement (.rawInputEdge p level) := of_none rfl
theorem corruptFabricFrame (p : Nat) (e : FrameError) : Statement (.corruptFabricFrame p e) := of_none rfl
theorem memoryReadArrival (id : Nat) (a : MemAccess) : Statement (.memoryReadArrival id a) := of_none rfl

end Sys2Proof.Laws.Queued
end

