-- ==== Sys2Proof/Tests/Slice0.lean ====
section
/-! SUPPORT. Tests: what WellFormed refuses, and for the obligations with hypotheses a concrete state and operands that meet them. -/

open Sys2Proof Sys2Proof.Machine

namespace Sys2Proof.Tests
set_option Elab.async false

/-! ### States to test on -/

/-- A number from fields given by their first bit and value. -/
def word (l : List (Nat × Nat)) : Nat := l.foldl (fun w f => w + f.2 * 2 ^ f.1) 0

/-- An operand of a resource and an offset. -/
def loc (r off : Nat) : Nat := r + 512 * off

/-- A state with entries set. -/
def withRegs (l : List (Nat × Nat)) (s : State) : State := l.foldl (fun s x => s.setReg x.1 x.2) s

/-- After boot, an OPEN session numbered 1 on a link that is UP, job 0 RUNNING. -/
def ready : State := withRegs [(K.bootStatus, 1), (K.sessionState, ssOpen), (K.sessionNumber, 1), (K.ryeveLinkState, 2), (K.jobState 0, 2),
  (K.fabricKey 0, 7), (K.logicalPhrases 0, 8)] State.reset

/-- A clause of job 0 on a queue that declares every resource. -/
def clauseOn (q : QueueId) (n : Nat) : Clause where
  seq := 1
  job := 0
  cls := q.cls
  unit := q.unit
  logical := 0
  region := 0
  base := 0
  count := n
  energy := 0
  declUnit := if clsOfPhrase q.cls then q.unit else 0
  declPhrase := 0
  declCount := 1
  fixedR := 2 ^ 16 - 1
  fixedW := 2 ^ 16 - 1
  reads := 2 ^ 256 - 1
  writes := 2 ^ 256 - 1
  tag := 0
  ringIdx := 0
  step := none
  notify := false
  filler := false
  overflow := false
  nonfinite := false
  wrote := false
  begun := false
  charged := false
  held := false
  keeps := false
  unitsLeft := [q.unit]
  next := 0
  replays := 0
  rows := 0
  noted := none

/-- A fetched command. -/
def fetched (idx w : Nat) : QCmd :=
  { seq := 1, idx := idx, addr := 32 * idx, word := w, bad := none, prog := 0, pos := 0, again := false }

/-- A state with one clause, whose commands from position `idx` on wait in a queue. -/
def busyFrom (idx : Nat) (s : State) (q : QueueId) (l : List Nat) : State :=
  { s with clauses := [clauseOn q (idx + l.length)] }.modQueue q fun Q => { Q with cmds := l.zipIdx.map fun (x : Nat × Nat) => fetched (idx + x.2) x.1 }

/-- The same from position 0 on. -/
def busy (s : State) (q : QueueId) (l : List Nat) : State := busyFrom 0 s q l

/-- The command waiting alone on a queue may issue, and no word of an SRAM is bad. -/
def mayRun (s : State) (q : QueueId) (w : Nat) : Bool :=
  (busy s q [w]).headOf q == some (fetched 0 w, clauseOn q 1) && (busy s q [w]).unitMissing q (clauseOn q 1) == none &&
    (busy s q [w]).accepts q.cls w && (busy s q [w]).svc.badWords == []

theorem mayRun_mayIssue {s : State} {q : QueueId} {w : Nat} (h : mayRun s q w = true) :
    (busy s q [w]).mayIssue q (fetched 0 w) (clauseOn q 1) := by
  simp only [mayRun, Bool.and_eq_true, beq_iff_eq] at h
  exact ⟨h.1.1.1, rfl, fun _ _ => h.1.1.2, h.1.2⟩

theorem mayRun_soundWords {s : State} {q : QueueId} {w : Nat} (h : mayRun s q w = true) : (busy s q [w]).soundWords := by
  simp only [mayRun, Bool.and_eq_true, beq_iff_eq] at h
  exact h.2

/-- Queues of phrase 0, EE 0, slice 0 and the fabric. -/
abbrev ary : QueueId := ⟨.array, 0⟩
abbrev vec : QueueId := ⟨.vector, 0⟩
abbrev mov : QueueId := ⟨.move, 0⟩
abbrev emb : QueueId := ⟨.embed, 0⟩
abbrev upd : QueueId := ⟨.update, 0⟩
abbrev fbq : QueueId := ⟨.fabric, 0⟩

/-! ### Commands of every engine -/

theorem test_nop_fence : mayRun ready ary (word []) = true ∧ isOp 0x00 (word []) = true ∧ reservedSet (word []) [(0, 8)] = false ∧
    mayRun ready ary (word [(0, 3)]) = true ∧ reservedSet (word [(0, 3)]) [(0, 8), (32, 1)] = false := by decide +kernel

theorem test_fence_phrase : mayRun ready vec (word [(0, 3), (32, 1)]) = true ∧
    reservedSet (word [(0, 3), (32, 1)]) [(0, 8), (32, 1)] = false ∧
    ∀ e ∈ (busy ready vec [word [(0, 3), (32, 1)]]).clauses, ¬ (clsOfPhrase e.cls = true ∧ e.unit = 0 ∧ e.job = 0 ∧ e.seq < 1) := by
  decide +kernel

theorem test_clause_open : mayRun ready upd (word [(0, 1)]) = true ∧ isOp 0x01 (word [(0, 1)]) = true := by decide +kernel

/-- A CLAUSE_DECL at its last place. -/
theorem test_clause_decl : let s := busyFrom 1 ready upd [word [(0, 2)]]
    s.headOf upd = some (fetched 1 (word [(0, 2)]), clauseOn upd 2) ∧ s.accepts .update (word [(0, 2)]) = true ∧
      1 ≤ (clauseOn upd 2).declCount := by decide +kernel

/-- The region that ends the local buffer. -/
def defineW : Nat := word [(0, 4), (32, 255), (64, 2047), (80, 1)]

theorem test_region_define : mayRun ready mov defineW = true ∧ declaresWrite (clauseOn mov 1) (cb defineW 4 1) = true ∧
    (busy ready mov [defineW]).mustWait (clauseOn mov 1) 0 255 true = false ∧
    reservedSet defineW [(0, 8), (32, 8), (64, 11), (80, 12)] = false ∧ bits defineW 64 11 + bits defineW 80 12 = 2048 := by decide +kernel

/-- Phrase 0 with region 0 over the first 64 KiB. -/
def withRegion (s : State) : State := s.modCtx 0 fun x => { x with regions := [(0, 0, 16)] }

theorem test_region_release : let s := withRegion ready
    mayRun s vec (word [(0, 5)]) = true ∧ reservedSet (word [(0, 5)]) [(0, 8), (32, 8)] = false ∧
      (((busy s vec [word [(0, 5)]]).ctx 0).region 0).isSome = true := by decide +kernel

/-- Debug unlocked. -/
def unlocked : State := { ready with trust := { ready.trust with unlocked := true } }

/-- DEBUG_BREAK with tag 9. -/
def breakW : Nat := word [(0, 0xF0), (128, 9)]

theorem test_debug_break : mayRun unlocked emb breakW = true ∧ isOp 0xF0 breakW = true ∧ reservedSet breakW [(0, 8), (128, 64)] = false := by
  decide +kernel

/-- A halt of a queue for a reason. -/
def haltFor (reason detail : Nat) (w : Nat) : Halt :=
  { cmd := fetched 0 w, job := 0, reason := reason, resumable := true, begun := false, detail := detail, progress := 0, pos := 0, page := 0
    decided := false, need := 0 }

/-- A queue halted for a reason. -/
def halted (s : State) (q : QueueId) (reason w : Nat) : State :=
  (busy s q [w]).modQueue q fun Q => { Q with halt := some (haltFor reason 0 w) }

theorem test_debug_resume : let s := halted unlocked ary 0xF0 breakW
    s.trust.unlocked = true ∧ s.coreOut 3 = false ∧ ((s.queue ary).bind (·.halt)).map (·.reason) = some 0xF0 := by decide +kernel

theorem test_blocked : (halted ready ary 0x31 (word [])).headOf ary = none ∧ ready.headOf vec = none ∧ ready.headOf mov = none ∧
    ready.headOf emb = none ∧ ready.headOf upd = none ∧ ready.headOf fbq = none := by decide +kernel

/-! ### The matrix array -/

/-- Phrase 0 with a live 128-row bf16 tile, a staged one, and an open product that has run 2 passes and spills every `n`. -/
def arrayOn (n : Nat) : State := ready.modCtx 0 fun x => { x with
  staging := { fmt := fmBf16, kLive := 128, elems := List.replicate 16384 0 }
  live := some { fmt := fmBf16, kLive := 128, elems := List.replicate 16384 0, checks := List.replicate 128 (0, 0) }
  product := some { bank := 0, passes := 2, run := 2, spillN := n, spillTile := 7, spilled := false, byClear := false } }

/-- STAT_LOAD of 128 rows of bf16 from tile buffer 0. -/
def statW : Nat := word [(0, 0x20), (16, 128), (32, loc 0x100 0), (128, fmBf16)]

theorem test_stat_load : mayRun ready ary statW = true ∧ (∀ x ∈ statChecks statW, x.1 = false) ∧
    (busy ready ary [statW]).board (clauseOn ary 1) 0 (statOpnds statW) = .go := by decide +kernel

/-- PASS of 128 rows of bf16 from tile buffer 1, added to the open product, which spills after `n` passes into tile 7. -/
def passW (n : Nat) : Nat := word [(0, 0x21), (16, 128), (32, loc 0x101 0), (128, fmBf16), (132, fmBf16), (145, 1), (152, n), (160, 7)]

theorem test_pass : let s := busy (arrayOn 0) ary [passW 0]
    mayRun (arrayOn 0) ary (passW 0) = true ∧ (∀ x ∈ passChecks (s.ctx 0) (passW 0), x.1 = false) ∧
      s.board (clauseOn ary 1) 0 (passOpnds (s.ctx 0) (passW 0)) = .go ∧ passFull (s.ctx 0) (passW 0) = false ∧
      passSpills (s.ctx 0) (passW 0) = false := by decide +kernel

theorem test_pass_spills : let s := busy (arrayOn 2) ary [passW 2]
    mayRun (arrayOn 2) ary (passW 2) = true ∧ (∀ x ∈ passChecks (s.ctx 0) (passW 2), x.1 = false) ∧
      s.board (clauseOn ary 1) 0 (passOpnds (s.ctx 0) (passW 2)) = .go ∧ passFull (s.ctx 0) (passW 2) = false ∧
      passSpills (s.ctx 0) (passW 2) = true := by decide +kernel

theorem test_spill_add_done :
    let s := ((busy (arrayOn 2) ary [passW 2]).modQueue ary fun Q => { Q with infl := some { progress := 128, pos := 0, waits := [] } }).modCtx 0
      fun x => { x with spilling := some (0, 7, true) }
    ((s.queue ary).map fun Q => (Q.cmds, Q.infl.isSome)) = some ([fetched 0 (passW 2)], true) ∧ (s.clause 1).isSome = true ∧
      (s.ctx 0).spilling = some (0, 7, true) := by decide +kernel

/-- READOUT of 128 rows to fp32 in tile buffer 2. -/
def readoutW : Nat := word [(0, 0x22), (16, 128), (64, loc 0x102 0), (136, fmF32)]

theorem test_readout : let s := busy (arrayOn 0) ary [readoutW]
    mayRun (arrayOn 0) ary readoutW = true ∧ (∀ x ∈ readoutChecks (s.ctx 0) readoutW, x.1 = false) ∧
      s.board (clauseOn ary 1) 0 (readoutOpnds (s.ctx 0) readoutW) = .go := by decide +kernel

/-- SCALE_LOAD and RESCALE_LOAD of the last entry. -/
def scaleW : Nat := word [(0, 0x23), (16, 1), (32, loc 0x100 0), (176, 4095)]
def rescaleW : Nat := word [(0, 0x24), (16, 1), (32, loc 0x100 0), (192, 4095)]

theorem test_scale_load : mayRun ready ary scaleW = true ∧ headOk scaleW (headFields ++ [(32, 32), (176, 12)]) 4096 ∧
    bits scaleW 176 12 + countOf scaleW = 4096 ∧ (busy ready ary [scaleW]).board (clauseOn ary 1) 0 [opnd (cb scaleW 4 4) 8 false] = .go ∧
    scaleOk ((ready.ctx 0).entryAt (cb scaleW 4 4) 0) = true := by
  unfold headOk
  decide +kernel

theorem test_rescale_load : mayRun ready ary rescaleW = true ∧ headOk rescaleW (headFields ++ [(32, 32), (192, 12)]) 4096 ∧
    bits rescaleW 192 12 + countOf rescaleW = 4096 ∧
    (busy ready ary [rescaleW]).board (clauseOn ary 1) 0 [opnd (cb rescaleW 4 4) 8 false] = .go := by
  unfold headOk
  decide +kernel

/-- ELEMWISE product of 16,384 fp8 elements of two tile buffers into a third. -/
def elemW : Nat := word [(0, 0x25), (16, 16384), (32, loc 0x100 0), (64, loc 0x102 0), (96, loc 0x101 0), (128, fmE4m3), (132, fmE4m3),
  (136, fmE4m3), (168, 1)]

theorem test_elemwise : mayRun ready ary elemW = true ∧ cb elemW 21 1 = 1 ∧
    headOk elemW (headFields ++ [(32, 32), (64, 32), (96, 32), (128, 8), (136, 4), (168, 8)]) 16384 ∧
    (busy ready ary [elemW]).board (clauseOn ary 1) 0 [elemOpnd (cb elemW 4 4) 16384 false, elemOpnd (cb elemW 8 4) 16384 true,
      elemOpnd (cb elemW 12 4) 16384 false] = .go := by
  unfold headOk
  decide +kernel

/-- ACC_READ and ACC_WRITE of 128 rows, in tile buffer 0. -/
def accReadW : Nat := word [(0, 0xF1), (16, 128), (64, loc 0x100 0)]
def accWriteW : Nat := word [(0, 0xF2), (16, 128), (32, loc 0x100 0)]

theorem test_acc_clear : mayRun ready ary (word [(0, 0x26)]) = true ∧
    reservedSet (word [(0, 0x26)]) [(0, 8), (8, 1), (9, 2)] = false ∧ rndOf (word [(0, 0x26)]) ≠ 3 := by decide +kernel

theorem test_acc_read : let s := { arrayOn 0 with trust := unlocked.trust }
    mayRun s ary accReadW = true ∧ reservedSet accReadW [(0, 8), (16, 16), (64, 32)] = false ∧ countOf accReadW = 128 ∧
      (busy s ary [accReadW]).board (clauseOn ary 1) 0 [opnd (cb accReadW 8 4) 65536 true] = .go ∧ (s.ctx 0).product.isSome = true := by
  decide +kernel

theorem test_acc_write : mayRun unlocked ary accWriteW = true ∧ reservedSet accWriteW [(0, 8), (16, 16), (32, 32)] = false ∧
    (busy unlocked ary [accWriteW]).board (clauseOn ary 1) 0 [opnd (cb accWriteW 4 4) 65536 false] = .go := by decide +kernel

/-- The state after a command. -/
def ran (c : Instr) (s : State) : State := match exec c s with | .next t => t | _ => s

/-- A hardware fault of a reason. -/
def faultOfReason (r p : Nat) : HwFault := { reason := r, detail := 0x42, progress := p }

/-- A live tile of one row of zeros, its checks among them. -/
def thinOn : State := (arrayOn 0).modCtx 0 fun x => { x with
  live := some { fmt := fmBf16, kLive := 1, elems := List.replicate 128 0, checks := [(0, 0)] } }

/-- PASS of 4 rows over it. -/
def thinW : Nat := word [(0, 0x21), (16, 4), (32, loc 0x101 0), (128, fmBf16), (132, fmBf16), (145, 1), (160, 7)]

/-- A fault of the array at row 3 of a PASS: reason, detail and progress of its halt record (R203: column 0x42 of the product's third
pass). -/
theorem test_array_fault :
    let t := ran (.pass 0 (some (faultOfReason 0x31 3))) (busy thinOn ary [thinW])
    (((t.queue ary).bind (·.halt)).map fun h => (h.reason, h.detail, h.progress)) = some (0x31, 0x42 + 2 ^ 16 * 2, 3) := by decide +kernel

theorem test_array_fault_met : let s := busy thinOn ary [thinW]
    mayRun thinOn ary thinW = true ∧ isOp 0x21 thinW = true ∧ (∀ x ∈ passChecks (s.ctx 0) thinW, x.1 = false) ∧
      s.board (clauseOn ary 1) 0 (passOpnds (s.ctx 0) thinW) = .go ∧ passFull (s.ctx 0) thinW = false ∧
      (faultOfReason 0x31 3).detail % 2 ^ 16 < 128 := by decide +kernel

/-- A fault of a row's check at row 3: the sum as it came out is 1, where the products and the checks are all zero (R203). -/
def rowFault : HwFault := { reason := 0x31, detail := 128 + 2 ^ 16 * 0x3F800000, progress := 3 }

theorem test_array_row_fault_met : let u := (busy thinOn ary [thinW]).started ary (fetched 0 thinW) (clauseOn ary 1)
    let sums := passSums u 0 thinW 3
    rowFault.detail % 2 ^ 16 = 128 ∧ sums.1.isFin = true ∧
      checkRow (decodeNum fmF32 (bits rowFault.detail 16 32)) sums.2.1 sums.2.2 = true := by
  refine ⟨by decide +kernel, ?_, by decide +kernel⟩
  have h : (passSwap (((busy thinOn ary [thinW]).started ary (fetched 0 thinW) (clauseOn ary 1)).ctx 0)
      ((busy thinOn ary [thinW]).started ary (fetched 0 thinW) (clauseOn ary 1)).free thinW).1.live =
        some { fmt := fmBf16, kLive := 1, elems := List.replicate 128 0, checks := [(0, 0)] } := by decide +kernel
  simp only [passSums, h]
  exact sumF32_zeros_isFin _ _ _ (by decide +kernel)

/-- A word of tile buffer 0 of phrase 0 that scrub found bad, at its first byte. -/
def badWord : State := let s := busy ready ary [statW]
  { s with svc := { s.svc with badWords := [(1, 0, 6, 0)] } }

theorem test_stat_load_bad : badWord.headOf ary = some (fetched 0 statW, clauseOn ary 1) ∧
    badWord.accepts .array statW = true ∧ badWord.board (clauseOn ary 1) 0 (statOpnds statW) = .go ∧
    (badWord.svc.badWords.any (hitWords ary 0 (boardWords (badWord.ctx 0) false (statOpnds statW)))) = true ∧
    badWord.unitFault ary 0 (boardWords (badWord.ctx 0) false (statOpnds statW)) noCheck none =
      some { reason := 0x30, detail := 6, progress := 0 } := by decide +kernel

/-! ### The vector engine -/

/-- VUNARY 0 and VUNARY 0x10 over 2 fp32 elements at the end of a tile buffer. -/
def vunaryW (op fd : Nat) : Nat := word [(0, 0x30), (16, 2), (144, op), (32, loc 0x100 65528), (96, loc 0x101 65528), (136, fd)]

theorem test_vunary : mayRun ready vec (vunaryW 0 0) = true ∧ headOk (vunaryW 0 0) vecFields 16384 ∧ cb (vunaryW 0 0) 18 1 = 0 ∧
    (busy ready vec [vunaryW 0 0]).vectorGoes (clauseOn vec 1) [vecOpnd (cb (vunaryW 0 0) 4 4) 8 false false,
      vecOpnd (cb (vunaryW 0 0) 12 4) 8 true false] [(cb (vunaryW 0 0) 12 4, 8)] [(cb (vunaryW 0 0) 4 4, 8, true)] := by
  unfold headOk State.vectorGoes
  decide +kernel

theorem test_vunary_mask : mayRun ready vec (vunaryW 0x11 fmBit) = true ∧ headOk (vunaryW 0x11 fmBit) vecFields 16384 ∧
    (busy ready vec [vunaryW 0x11 fmBit]).vectorGoes (clauseOn vec 1) [vecOpnd (cb (vunaryW 0x11 fmBit) 4 4) 8 false false,
      vecOpnd (cb (vunaryW 0x11 fmBit) 12 4) 1 true false] [(cb (vunaryW 0x11 fmBit) 12 4, 1)]
      [(cb (vunaryW 0x11 fmBit) 4 4, 8, true)] := by
  unfold headOk State.vectorGoes
  decide +kernel

/-- VBINARY ADD of 2 fp32 elements: full size, and with an immediate. -/
def vbinaryW (bc : Nat) : Nat := word ([(0, 0x31), (16, 2), (32, loc 0x100 0), (96, loc 0x102 0), (152, bc)] ++
  if bc = 3 then [(192, 0x3F800000)] else [(64, loc 0x101 0)])

theorem test_vbinary : mayRun ready vec (vbinaryW 0) = true ∧ binaryBad 0 0 0 0 = none ∧
    headOk (vbinaryW 0) (vecFields ++ [(64, 32), (132, 4), (152, 2), (192, 32)]) 16384 ∧
    (busy ready vec [vbinaryW 0]).vectorGoes (clauseOn vec 1) [vecOpnd (cb (vbinaryW 0) 4 4) 8 false false,
        vecOpnd (cb (vbinaryW 0) 8 4) 8 false false, vecOpnd (cb (vbinaryW 0) 12 4) 8 true false]
      [(cb (vbinaryW 0) 12 4, 8)] [(cb (vbinaryW 0) 4 4, 8, true), (cb (vbinaryW 0) 8 4, 8, true)] := by
  unfold headOk State.vectorGoes
  decide +kernel

/-- 1.5 + 1.0 = 2.5 in fp32, the second operand an immediate. -/
theorem test_vbinary_immediate : cb (vbinaryW 3) 8 4 = 0 ∧ mayRun ready vec (vbinaryW 3) = true ∧
    ((ran (.vbinary 0 none) (busy (ready.modCtx 0 fun x => x.writeLocal 0x100 0 (leBytes 4 0x3FC00000)) vec [vbinaryW 3])).ctx 0).readLocal
      0x102 0 4 = leBytes 4 0x40200000 := by decide +kernel

/-- VTERNARY MUL_ADD with its third source in a region, and in a tile buffer. -/
def vternaryW (rc : Nat) : Nat := word [(0, 0x32), (16, 2), (32, loc 0 0), (64, loc 0 4096), (96, loc 0x102 0), (224, loc rc 8192)]

theorem test_vternary : ∀ rc ∈ [0, 0x103], mayRun (withRegion ready) vec (vternaryW rc) = true ∧
    headOk (vternaryW rc) (vecFields ++ [(64, 32), (132, 4), (152, 2), (192, 32), (224, 32)]) 16384 ∧
    (busy (withRegion ready) vec [vternaryW rc]).vectorGoes (clauseOn vec 1)
      [vecOpnd (cb (vternaryW rc) 4 4) 8 false false, vecOpnd (cb (vternaryW rc) 8 4) 8 false false,
        vecOpnd (cb (vternaryW rc) 12 4) 8 true false, vecOpnd (cb (vternaryW rc) 28 4) 8 false false]
      [(cb (vternaryW rc) 12 4, 8)] [(cb (vternaryW rc) 4 4, 8, true), (cb (vternaryW rc) 28 4, 8, true), (cb (vternaryW rc) 8 4, 8, true)] := by
  unfold headOk State.vectorGoes
  decide +kernel

/-- VREDUCE SUM of rows of 2 of 3 fp32 elements, once per row. -/
def vreduceW : Nat := word [(0, 0x33), (16, 3), (160, 2), (32, loc 0x100 0), (96, loc 0x102 0)]

theorem test_vreduce : mayRun ready vec vreduceW = true ∧ headOk vreduceW (vecFields ++ [(160, 16)]) 16384 ∧ cb vreduceW 20 2 = 2 ∧
    bits vreduceW 148 3 = 0 ∧ (busy ready vec [vreduceW]).vectorGoes (clauseOn vec 1) [vecOpnd (cb vreduceW 4 4) 12 false false,
      vecOpnd (cb vreduceW 12 4) 8 true false] [(cb vreduceW 12 4, 8)] [(cb vreduceW 4 4, 12, true)] := by
  unfold headOk State.vectorGoes
  decide +kernel

/-- VQUANT to int8 codes and VDEQUANT from them, a row of 2. -/
def vquantW : Nat := word [(0, 0x34), (16, 2), (160, 2), (32, loc 0x100 0), (96, loc 0x101 0), (136, fmI8), (224, loc 0x102 0)]
def vdequantW : Nat := word [(0, 0x35), (16, 2), (160, 2), (32, loc 0x100 0), (64, loc 0x101 0), (96, loc 0x102 0), (128, fmI8)]

theorem test_vquant : mayRun ready vec vquantW = true ∧ headOk vquantW (vecFields ++ [(160, 16), (224, 32)]) 16384 ∧
    (busy ready vec [vquantW]).vectorGoes (clauseOn vec 1) [vecOpnd (cb vquantW 4 4) 8 false false, vecOpnd (cb vquantW 12 4) 2 true false,
      vecOpnd (cb vquantW 28 4) 8 true false] [(cb vquantW 12 4, 2), (cb vquantW 28 4, 8)] [(cb vquantW 4 4, 8, true)] := by
  unfold headOk State.vectorGoes
  decide +kernel

theorem test_vdequant : mayRun ready vec vdequantW = true ∧ headOk vdequantW (vecFields ++ [(64, 32), (160, 16)]) 16384 ∧
    (busy ready vec [vdequantW]).vectorGoes (clauseOn vec 1) [vecOpnd (cb vdequantW 4 4) 2 false false,
      vecOpnd (cb vdequantW 8 4) 8 false false, vecOpnd (cb vdequantW 12 4) 8 true false] [(cb vdequantW 12 4, 8)]
      [(cb vdequantW 4 4, 2, true), (cb vdequantW 8 4, 8, false)] ∧
    recordOk fmI8 ((ready.ctx 0).entryAt (cb vdequantW 8 4) 0) = true := by
  unfold headOk State.vectorGoes
  decide +kernel

/-- VCOMBINE of w48 spill tiles into one, and VCONVERT of one to fp32. -/
def vcombineW : Nat := word [(0, 0x36), (16, 2), (32, loc 0x104 0), (64, loc 0x105 0), (96, loc 0x106 0), (128, fmW48), (132, fmW48), (136, fmW48)]
def vconvertW : Nat := word [(0, 0x37), (16, 2), (32, loc 0x10B 0), (96, loc 0x102 0), (128, fmW48)]

theorem test_vcombine : mayRun ready vec vcombineW = true ∧ headOk vcombineW (vecFields ++ [(64, 32), (132, 4)]) 16384 ∧
    (busy ready vec [vcombineW]).vectorGoes (clauseOn vec 1) [vecOpnd (cb vcombineW 4 4) 12 false true,
      vecOpnd (cb vcombineW 8 4) 12 false true, vecOpnd (cb vcombineW 12 4) 12 true true] [(cb vcombineW 12 4, 12)]
      [(cb vcombineW 4 4, 12, true), (cb vcombineW 8 4, 12, true)] := by
  unfold headOk State.vectorGoes
  decide +kernel

theorem test_vconvert : mayRun ready vec vconvertW = true ∧ headOk vconvertW vecFields 16384 ∧
    (busy ready vec [vconvertW]).vectorGoes (clauseOn vec 1) [vecOpnd (cb vconvertW 4 4) 12 false true,
      vecOpnd (cb vconvertW 12 4) 8 true true] [(cb vconvertW 12 4, 8)] [(cb vconvertW 4 4, 12, true)] := by
  unfold headOk State.vectorGoes
  decide +kernel

/-! ### The MOVE engine -/

/-- A leaf of one page of job 0, at frame `f` of tier 0. -/
def leafAt (va f : Nat) : Leaf :=
  { job := 0, va := va, size := 0, read := true, write := true, tier := 0, pinned := false, allocated := true, migrating := false
    accessed := false, policy := 0, src := none, frame := f, node := 0, pref := 0, idle := 0, stash := none }

/-- Job 0 with 16 pages at its addresses from 0, in the frames from 1. -/
def mapped : State := ready.modMem fun m => { m with leaves := (List.range 16).map fun i => leafAt (65536 * i) (i + 1) }

/-- A MOVE command of one row of 64 bytes of fp32 between tile buffer 0 and address 0. -/
def moveW (op : Nat) : Nat := word [(0, op), (16, 1), (32, if op = 0x42 then loc 0x10E 0 else loc 0x100 0), (128, 64)]

theorem test_moves : ∀ op ∈ [0x40, 0x41, 0x42, 0x45, 0x46], mayRun mapped mov (moveW op) = true ∧
    (∀ x ∈ moveChecks (moveW op), x.1 = false) ∧
    (busy mapped mov [moveW op]).board (clauseOn mov 1) 0 [moveOpnd (moveGeom (moveW op))] = .go ∧
    (busy mapped mov [moveW op]).scaleWait (clauseOn mov 1) (moveGeom (moveW op)) = false := by decide +kernel

theorem test_stash_moves : ∀ op ∈ [0x43, 0x44], mayRun mapped mov (moveW op) = true ∧ (∀ x ∈ moveChecks (moveW op), x.1 = false) ∧
    (busy mapped mov [moveW op]).board (clauseOn mov 1) 0 [moveOpnd (moveGeom (moveW op))] = .go := by decide +kernel

/-- Whether an access is done. -/
def done {α : Type} : Acc α → Bool
  | .ok _ => true
  | _ => false

/-- Whether an access is done with an answer of which a test holds. -/
def gives {α : Type} (x : Acc α) (p : α → Bool) : Bool :=
  match x with
  | .ok a => p a
  | _ => false

/-- LOAD and STORE in execution with their first chunk under way. -/
def loading : State := ran (.load 0 none) (busy mapped mov [moveW 0x40])
def storing : State := ran (.store 0 none) (busy mapped mov [moveW 0x41])

theorem test_move_arrival : (loading.moving mov).map (fun x => x.2.2.waits.map (·.id)) = some [0] ∧
    loading.heldAt 0 0 = false ∧ done ((loading.accessAt 0 0 64 .clean).readMem 0 0 64 false) = true ∧ moveInto (moveGeom (moveW 0x40)).op = true ∧
    (loading.physOf 0 0) = some 65536 := by
  decide +kernel

theorem test_write_ack : (storing.moving mov).map (fun x => x.2.2.waits.map (·.id)) = some [0] ∧ storing.fab.reqs = [] ∧
    moveInto (moveGeom (moveW 0x41)).op = false ∧ (storing.physOf 0 0) = some 65536 := by decide +kernel

/-- RB_ADD and RB_READ of one row where the window holds it on the die. -/
def windowed : State := withRegs [(K.rbBase 0, 0), (K.rbLen 0, 65536)] mapped

/-- Whether a run over a window ends. -/
def rbDone : WinRun → Bool
  | .done _ _ => true
  | _ => false

theorem test_rb_add : let s := busy windowed mov [moveW 0x45]
    rbDone ((s.markDirty 0 (s.epochOf (clauseOn mov 1)) (s.inWindow 0 (moveGeom (moveW 0x45)).blocks)).rbAddRun 0 (fetched 0 (moveW 0x45))
      (clauseOn mov 1) (moveGeom (moveW 0x45)) 1 (2 ^ 21) 0) = true := by decide +kernel

theorem test_rb_read : rbDone ((busy windowed mov [moveW 0x46]).rbReadRun 0 (fetched 0 (moveW 0x46)) (clauseOn mov 1)
    (moveGeom (moveW 0x46)) 1 (2 ^ 21) 0) = true := by decide +kernel

/-- 1.5 + 1.0 at the last word of the window; a sum beyond it is refused. -/
theorem test_window_add : done (windowed.windowAdd 0 65532 false [decodeNum fmF32 0x3F800000]) = true ∧ 65532 + 4 ≤ windowed.reg (K.rbLen 0) ∧
    done (windowed.windowAdd 0 65533 false [decodeNum fmF32 0x3F800000]) = false ∧ Memory.wf windowed.mem.rb := by decide +kernel

/-! ### The embedding engines -/

/-- Bytes at an address of job 0. -/
def poke (va : Nat) (bs : List Byte) (s : State) : State := s.modMem fun m => { m with bytes := writeRun m.bytes (va + 65536) bs }

/-- Job 0 with table 0: one writable row of one fp32 element at the level hot, whose value is 1.5; a batch of one bag with the `n`
indices 0. -/
def tabled (n : Nat) : State :=
  poke 0x1000 (leBytes 8 1 ++ leBytes 2 1 ++ leBytes 1 8 ++ leBytes 1 0 ++ leBytes 1 0x10 ++ zeros 3 ++ leBytes 8 0x2000)
    (poke 0x2000 (leBytes 4 1) (poke 0x2048 (leBytes 8 1) (poke 0x2058 (leBytes 8 0x3000 ++ leBytes 8 0x4000)
      (poke 0x2078 (leBytes 4 1) (poke 0x2088 (leBytes 8 0x5000) (poke 0x4000 (leBytes 4 0x3FC00000)
        (poke 0x6000 (leBytes 8 0x6100 ++ leBytes 8 0x6200 ++ zeros 8 ++ leBytes 4 1) (poke 0x6104 (leBytes 4 n)
          (withRegs [(K.tableList 0, 0x1000), (K.tableCount 0, 1)] mapped)))))))))

/-- LOOKUP_POOL of one bag into tile buffer 0. -/
def lookupW : Nat := word [(0, 0x50), (16, 1), (64, 0x6000), (128, loc 0x100 0)]

/-- What a run of acceptances left: the position and the number of open bags. -/
def takenAt : Taken → Option (Nat × Nat)
  | .stop s pos => some (pos / 2 ^ 17, (s.ee 0).trackers.length)
  | .halt .. => none

theorem test_lookup_pool : ∀ n ∈ [0, 1], let s := busy (tabled n) emb [lookupW]
    mayRun (tabled n) emb lookupW = true ∧ (∀ x ∈ s.embChecks (clauseOn emb 1) lookupW, x.1 = false) ∧ gives (s.sharedWritable 0) (· == none) = true ∧
      (gives (s.tableOf 0 0) fun t => gives (s.batchOf 0 lookupW t) fun B =>
        s.board (clauseOn emb 1) 0 [opnd (embRegion lookupW) (4 * t.dim) true] == .go &&
          takenAt ((s.modEe 0 Ee.drop).acceptRun 0 (fetched 0 lookupW) (clauseOn emb 1) t B lookupFuel 0) == some (1, n)) = true := by
  decide +kernel

/-- LOOKUP_POOL with its map sector, and then its row, under way. -/
def mapComing : State := ran (.lookupPool 0 none) (busy (tabled 1) emb [lookupW])
def rowComing : State := ran (.rowFetchArrival 0 0 .clean) mapComing

theorem test_map_arrival : (mapComing.ee 0).fetches.map (fun f => (f.id, f.stage)) = [(0, .map)] ∧ (mapComing.embedding 0).isSome = true ∧
    mapComing.fab.reqs = [] ∧ done (mapComing.embRead 0 0x3000 8) = true ∧ done (mapComing.tableOf 0 0) = true := by decide +kernel

/-- The bag's element is the row's 1.5. -/
theorem test_row_arrival : (rowComing.ee 0).fetches.map (fun f => (f.id, f.stage)) = [(0, .row)] ∧ (rowComing.embedding 0).isSome = true ∧
    done (rowComing.embRead 0 0x4000 16) = true ∧
    ((ran (.rowFetchArrival 0 0 .clean) rowComing).ctx 0).readLocal 0x100 0 4 = leBytes 4 0x3FC00000 := by decide +kernel

theorem test_sketch_halving : let s := withRegs [(K.eeSketchDecay 0, 2)] (ready.modEe 0 fun e => { e with accepted := 2, sketch := [(0, 65535)] })
    s.eePresent 0 = true ∧ s.reg (K.eeSketchDecay 0) = (s.ee 0).accepted ∧ (s.ee 0).sketch.Pairwise (·.1 < ·.1) ∧
      ((ran (.sketchHalving 0) s).ee 0).sketch = [(0, 32767)] := by decide +kernel

/-! ### Gradients -/

/-- Step 1 of epoch 5 of job 0. -/
def stepIn (st : StepState) : Step :=
  { job := 0, number := 1, epoch := 5, group := 0, ovfClasses := 0, nfClasses := 0, scalars := [], ringIdx := 0, scale := 0x3F800000
    agreeSeq := none, state := st, overflow := false, nonfinite := false, failed := false, flushHalts := [], why := 0, scattered := []
    granted := [], committed := [] }

/-- Job 0 with its table's gradient region (16 buckets, an overflow log of `pages` pages) and parameter set 0: records of 64 bytes, fp32,
no state. -/
def grads (pages : Nat) : State :=
  poke 0x7000 (leBytes 8 0x10000 ++ leBytes 8 0x20000 ++ leBytes 8 4 ++ leBytes 8 0x30000 ++ leBytes 4 pages ++ leBytes 4 pages ++
    leBytes 8 0 ++ leBytes 4 5)
    (poke 0x8010 (leBytes 8 0xB0000 ++ leBytes 2 64 ++ leBytes 2 1)
      (withRegs [(K.agreedEpoch 0, 4), (K.gradList 0, 0x7000), (K.psetList 0, 0x8000), (K.psetCount 0, 1)] (tabled 1)))

/-- GRAD_SCATTER of one bag from tile buffer 0, and COMBINE_FLUSH of table 0. -/
def scatterW : Nat := word [(0, 0x51), (16, 1), (64, 0x6000), (128, loc 0x100 0)]
def flushW : Nat := word [(0, 0x52)]

/-- A partial of row 0, sum 1.0, epoch 5, sent by the clause `seq`. -/
def partialOf (seq : Nat) (landed : Bool) : Partial :=
  { id := 0, seq := seq, job := 0, table := 0, row := 0, epoch := 5, acc := [0x3F800000], owner := 0, sectors := 1, landed := landed }

def withPartial (seq : Nat) (landed : Bool) (s : State) : State := s.modEe 0 fun e => { e with partials := [partialOf seq landed] }

/-- What a run of GRAD_SCATTER left: the position, the entries, and whether a partial of clause 1 is out. -/
def scatteredAt : Taken → Option (Nat × Nat × Bool)
  | .stop s pos => some (pos / 2 ^ 17, (s.ee 0).comb.length, (s.ee 0).partials.any (·.seq == 1))
  | .halt .. => none

theorem test_grad_scatter : ∀ x ∈ [(7, false), (1, true)], let s0 := withPartial x.1 false (grads 1)
    let s := busy s0 emb [scatterW]
    mayRun s0 emb scatterW = true ∧ (∀ y ∈ s.embChecks (clauseOn emb 1) scatterW, y.1 = false) ∧
      gives (s.tableOf 0 0) (fun t => (!s.writeGuard 0 t) && done (s.gradDesc 0 t.num) && gives (s.batchOf 0 scatterW t) fun B =>
        s.board (clauseOn emb 1) 0 [opnd (embRegion scatterW) (4 * t.dim) false] == .go &&
          scatteredAt (s.scatterRun 0 (fetched 0 scatterW) (clauseOn emb 1) t B 0 lookupFuel 0) == some (1, 1, x.2)) = true := by
  decide +kernel

/-- An entry of the combining table. -/
def combOf : Comb := { set := 0, job := 0, table := 0, desc := 0, row := 0, epoch := 5, owner := 0, acc := [0x3F800000] }

theorem test_combine_flush : ∀ l ∈ [[], [combOf]], let s0 := (grads 1).modEe 0 fun e => { e with comb := l }
    let s := busy s0 emb [flushW]
    mayRun s0 emb flushW = true ∧ reservedSet flushW [(0, 8), (8, 1), (9, 2), (32, 8)] = false ∧ done (s.flushTables 0 [0]) = true ∧
      (((s.flushSome 0 1 (flushes 0 0) 4097).ee 0).comb, ((s.flushSome 0 1 (flushes 0 0) 4097).ee 0).partials.length) = ([], l.length) := by
  decide +kernel

theorem test_partial_ack : let s := withPartial 1 true (grads 1)
    ((s.ee 0).partials.find? (·.id == 0)).map (·.landed) = some true ∧ ((ran (.partialAck 0 0) s).ee 0).partials = [] := by decide +kernel

/-- A halt for a full overflow log, held by core 2. -/
def quotaHalt : Halt := { haltFor 0x22 (256 * 128) flushW with decided := true }

theorem test_overflow_grant : let s := (withPartial 1 false (grads 1)).modQueue emb fun Q => { Q with
      held := [{ halt := quotaHalt, cmds := [fetched 0 flushW], unread := [] }] }
    s.coreOut 2 = false ∧ s.grantFits 0 0 = true ∧ (s.heldOf emb 0).isSome = true := by decide +kernel

theorem test_overflow_grant_inserted : let s := { withPartial 1 false (grads 1) with
      steps := [{ stepIn .flushing with flushHalts := [quotaHalt] }] }
    s.coreOut 2 = false ∧ s.grantFits 0 0 = true ∧ s.heldOf emb 0 = none ∧
      (s.steps.find? fun t => t.job == 0 && t.flushHalts.any (heldFlush 0)).isSome = true := by decide +kernel

/-- How a keyed add ends, as a number. -/
def landing : Landing → Nat
  | .done _ _ => 0
  | .quota n => n
  | .fail _ _ => 1
  | .epochWait => 2
  | .stall _ => 3
  | .wait => 4

/-- A full bucket of epoch 5 with an overflow log that may not grow. -/
def full : State := poke 0x10000 ((List.range 32).flatMap fun w => leBytes 8 (100 + w) ++ leBytes 4 5 ++ zeros 4) (grads 0)

/-- Whether the keyed add of the waiting partial ends so. -/
def endsAs (s : State) (n : Nat) : Bool :=
  (withPartial 1 false s).keyedArg (.ee 0 0) == some { job := 0, table := 0, row := 0, epoch := 5, sums := packElems fmF32 [0x3F800000] } &&
    landing ((withPartial 1 false s).landKeyed 0 0 0 5 (packElems fmF32 [0x3F800000])) == n

/-- A keyed add lands; finds its bucket and log full; waits for the COMMIT of epoch 4. -/
theorem test_keyed_add : endsAs (grads 1) 0 = true ∧ endsAs full 128 = true ∧
    endsAs { grads 1 with steps := [{ stepIn .opened with epoch := 4 }] } 2 = true ∧ (grads 1).fab.kaWait = [] := by decide +kernel

/-- The page of row 0's state in tier 0, in no tier, and in tier 1 with no pending bucket: the add lands, lands and stalls. A keyed add
that waits already, and one whose directory sector fails. -/
theorem test_keyed_places : let s := grads 1
    let away := s.modMem fun m => { m with leaves := m.leaves.map fun l => if l.va = 0xB0000 then { l with tier := 1 } else l }
    let none' := s.setReg (K.psetCount 0) 0
    let place (s : State) : Option (Option (Bool × Nat)) := match s.tableOf 0 0 with
      | .ok t => some ((s.statePage 0 t 0).map fun h => (h.allocated, h.tier))
      | _ => none
    place s = some (some (true, 0)) ∧ place none' = some none ∧ place away = some (some (true, 1)) ∧ endsAs s 0 = true ∧ endsAs away 3 = true ∧
      away.reg (K.pendBucketBits 0) = 0 ∧ (away.fetchFailed 0 0xB0000).isNone = true ∧ s.epochHolds 0 0 5 = false ∧
      (((withPartial 1 false s).keyedArg (.ee 0 0)).bind fun a => (s.keyedMet a .clean).map (·.1)) = some 0x10000 := by decide +kernel

/-- Row 100 is found in its way; row 0 of epoch 6 takes way 0; row 0 of epoch 5 finds every way of its epoch. -/
theorem test_keyed_fold : gives (full.readVa 0 0x10000 512) (fun b => wayOf b 0 == (100, 5) && wayOf b 31 == (131, 5)) = true ∧
    bucketOf 0 4 = 0 ∧ ((List.range 32).all fun w => !((100 + w, 5) == (0, 5)) && 5 != 6) = true ∧
    gives (full.writeVa 0 0x20000 (padTo 64 (leBytes 4 0x3F800000))) (fun t => done (t.writeVa 0 0x10000 (leBytes 8 0 ++ leBytes 4 6 ++ zeros 4)))
      = true := by decide +kernel

/-! ### The conjugator slices -/

/-- Job 0 in a step of epoch 5 whose region holds 1.0 for row 0; parameter set 1 is dense with rows of 256 elements; row sets at 0x9000
(sparse, table 0) and 0x9040 (dense, row 0); recipe 0 is one instruction; the group 0 of this module alone. -/
def stepping (st : StepState) : State :=
  let s := poke 0x10000 (leBytes 8 0 ++ leBytes 4 5) (poke 0x20000 (leBytes 4 0x3F800000)
    (poke 0x8090 (leBytes 8 0xA0000 ++ leBytes 2 1088 ++ leBytes 2 256 ++ zeros 4 ++ leBytes 8 0x60000)
    (poke 0x9000 (leBytes 1 1) (poke 0x9042 (leBytes 1 1) (poke 0x9050 (leBytes 8 0xC000 ++ leBytes 8 256)
    (poke 0xA000 (leBytes 8 0xA100 ++ leBytes 2 1)
      (withRegs [(K.nodeId, 0), (K.psetCount 0, 2), (K.groupList 0, 0xA000), (K.groupCount 0, 1)] (grads 1))))))))
  { s with steps := [stepIn st] }.modSlice 0 fun x => { x with recipes := [(0, 0, [0])] }

/-- COMMIT of the sparse set 0 and of the dense set 1, epoch 5. -/
def commitW (p : Nat) : Nat := word ([(0, 0x60), (32, p), (64, 5), (128, 0x9000 + 0x40 * p)] ++ if p = 1 then [(192, 1)] else [])

/-- How a run over rows ends: rows, whether it stops or waits. -/
def ranRows (o : CommitOut) : Nat × Bool := (o.rows, o.stop.isNone && o.need.isNone)

/-- A COMMIT may run in a step that commits, waits in an opened one, passes in an ellipsis. -/
theorem test_commit : ∀ p ∈ [0, 1], let s0 := stepping .committing
    let s := busy s0 upd [commitW p]
    mayRun s0 upd (commitW p) = true ∧ reservedSet (commitW p) commitFields = false ∧
      ((s.steps.find? fun t => t.job == 0 && t.epoch == cb (commitW p) 8 8).map (·.number)) = some 1 ∧
      gives (s.rowSetOf 0 p (cb (commitW p) 24 4) (cb (commitW p) 16 8)) (fun r => r.sparse == decide (p = 0)) = true ∧
      ((s.fillRecipes 0 0).slice 0).recipe 0 (bits (commitW p) 40 4) = some [0] ∧ (s.fillRecipes 0 0).svc.badWords = [] ∧ beforeResult (stepIn .opened) = true ∧
      beforeResult (stepIn .committing) = false := by decide +kernel

theorem test_commit_sparse : let s := busy (stepping .committing) upd [commitW 0]
    gives (s.tableOf 0 0) (fun T => gives (s.psetOf 0 0 T.dim false) fun P => gives (s.gradDesc 0 T.num) fun g =>
      gives (s.gradRows 0 g T.dim 5) fun rows =>
        let G : CommitG := { j := 0, sl := 0, slot := 0, P := P, prog := [0], ks := commitKs P (stepIn .committing), epoch := 5 }
        let mine := s.sliceRows 0 G rows
        T.pset == 0 && !T.readOnly && !s.recipesDue (clauseOn upd 1) &&
          gives (State.placeRecords 0 P rows s) (fun x => rows.all fun y => !x.stranded G y.1) && gives (s.pendingLeft 0 0 5) (· == []) && (s.awayPages 0 P rows == []) &&
          ranRows (commitRun s 0 G mine mine.length fun s cv x => s.commitSparse G T cv x.1 x.2) == (1, true)) = true := by decide +kernel

/-- The dense row's record rests on another slice. -/
theorem test_commit_dense : let s := busy (stepping .committing) upd [commitW 1]
    s.shardsIn 0 1 0 1 = [] ∧ gives (s.rowSetOf 0 1 1 0x9040) (fun r => gives (s.psetOf 0 1 256 true) fun P =>
      let G : CommitG := { j := 0, sl := 0, slot := 0, P := P, prog := [0], ks := commitKs P (stepIn .committing), epoch := 5 }
      let rows := [(r.first, ([] : List Nat))]
      let mine := s.sliceRows 0 G rows
      (s.awayPages 0 P rows == []) && gives (State.placeRecords 0 P rows s) (fun x => rows.all fun y => !x.stranded G y.1) &&
        ranRows (commitRun s 0 G mine mine.length fun s cv x => s.commitDense G r cv x.1) == (0, true)) = true := by decide +kernel

/-- A record of epoch 0, and one of epoch 5. -/
theorem test_commit_record : ∀ e ∈ [0, 5], let s := poke 0xB0000 (leBytes 8 e) (stepping .committing)
    gives (s.psetOf 0 0 1 false) (fun P => P.recAddr 0 == 0xB0000 && gives (s.readVa 0 (P.recAddr 0) (16 + P.elems * (4 + P.count * P.ssize)))
      fun b => nb b 0 8 == e) = true := by decide +kernel

/-- RECIPE_LOAD of the longest program. -/
def recipeW : Nat := word [(0, 0x61), (128, 0x9100), (192, 96)]

theorem test_recipe_load : mayRun (grads 1) upd recipeW = true ∧
    reservedSet recipeW [(0, 8), (40, 4), (128, 64), (192, 32)] = false ∧ cb recipeW 24 4 = 96 ∧
    gives ((busy (grads 1) upd [recipeW]).readVa 0 0x9100 96) (fun b => (List.range 24).all fun i => instrOk (nb b (4 * i) 4)) = true := by
  decide +kernel

/-- EXPORT of row 0 of the sparse set, and of 1 row of the dense one, to 0xB000. -/
def exportW (p : Nat) : Nat := word [(0, 0x62), (32, p), (128, 0x9200 + 0x40 * p)]
def sends : State :=
  poke 0x9200 (leBytes 1 1 ++ zeros 15 ++ leBytes 8 0xB000 ++ leBytes 8 4096 ++ leBytes 8 0 ++ leBytes 8 1)
    (poke 0x9240 (zeros 16 ++ leBytes 8 0xB000 ++ leBytes 8 4096 ++ leBytes 8 0 ++ leBytes 8 1) (stepping .committing))

theorem test_rows_stream : ∀ p ∈ [0, 1], let s := busy sends upd [exportW p]
    mayRun sends upd (exportW p) = true ∧ reservedSet (exportW p) [(0, 8), (32, 8), (128, 64), (192, 32)] = false ∧
      s.exportReady 0 (fetched 0 (exportW p)) = true ∧ s.fab.reqs = [] ∧ (clauseOn upd 1).next = 0 ∧
      gives (s.exportOf 0 p (cb (exportW p) 16 8)) (fun d => d.sparse == decide (p = 0) && decide (64 ≤ d.cap) &&
        gives (s.tableOf 0 0) fun T => let T? := if p = 0 then some T else none
          gives (s.psetOf 0 p (if p = 0 then 1 else 256) (p != 0)) fun P => T.pset == 0 &&
            let v := s.accessAt 0 d.dest 64 .clean
            let o := State.exportRows upd 0 d P T? (v.exportRange 0 d P T?)
              { state := v, bytes := 0, rows := 0, full := false, stop := none, need := none }
            o.need.isNone && o.stop.isNone && !o.full &&
              gives (o.state.queueWrite upd 0 d.dest (exportHeader d P T? (v.reg (K.agreedEpoch 0)) o.rows true)) fun t => t.asks upd == false)
        = true := by
  decide +kernel

/-- A COMMIT withdrawn from its slice is admitted again. -/
theorem test_commit_replay : let s := { ready with clauses := [{ clauseOn upd 1 with unitsLeft := [] }] }
    s.powered = true ∧ s.coreOut 2 = false ∧ (s.clause 1).map (fun c => (c.cls == .update, c.unitsLeft)) = some (true, []) ∧
      s.retireWait 0 true 0 32 = false ∧ s.covers 0 = true ∧ (List.range 12).filter s.sliceUp ≠ [] := by decide +kernel

/-! ### REMOTE and agreement -/

/-- REMOTE operations between tile-less addresses of this module (0x5000 and 0xB000), and a SIGNAL to counter 15. -/
def remoteW (k : Nat) : Nat := word ([(0, 0x74), (32, k)] ++ if k = 4 then [(128, 15), (192, 2 ^ 32)] else
  [(64, 0xB000), (128, 0x5000), (192, 1)])

/-- How the pieces of a REMOTE end: its position, whether it stops, its requests. -/
def remoteAt (o : RemoteOut) : Nat × Bool × Nat := (o.pos, o.stop.isNone, o.state.fab.reqs.length)

theorem test_remote : ∀ k ∈ [0, 1, 2, 3, 4], mayRun (grads 1) fbq (remoteW k) = true ∧
    (∀ x ∈ (busy (grads 1) fbq [remoteW k]).remoteChecks (remoteW k), x.1 = false) ∧ isFab 0x74 k (remoteW k) = true ∧
    (((busy (grads 1) fbq [remoteW k]).landAll fbq (clauseOn fbq 1)).1) = none ∧
    remoteAt (((busy (grads 1) fbq [remoteW k]).landAll fbq (clauseOn fbq 1)).2.remoteRun fbq (fetched 0 (remoteW k)) (clauseOn fbq 1)
      (remoteFuel (remoteW k)) 0) = (remoteBytes (remoteW k), true, 0) := by decide +kernel

/-- A SIGNAL behind an unacknowledged write toward its node, and one with none. -/
theorem test_remote_signal : let s := (grads 1).request 0x03 0 fbq 0 0 0x5000 4 0 (zeros 4)
    (∃ r ∈ s.fab.reqs, r.owner = fbq ∧ r.node = fabDesc (remoteW 4) / 2 ^ 48 ∧ r.what = 0x03) ∧
      ((grads 1).fab.reqs = [] ∧ (grads 1).isMe (fabDesc (remoteW 4) / 2 ^ 48) = true) := by decide +kernel

/-- AGREE and STEP_RELEASE of step 1 in group 0. -/
def agreeW : Nat := word [(0, 0x71), (192, 1)]
def releaseW : Nat := word [(0, 0x73), (192, 1)]

/-- The clause of an AGREE, which keeps its step. -/
def agreeing (st : StepState) (w : Nat) : State := busy { stepping st with steps := [{ stepIn st with agreeSeq := some 1 }] } fbq [w]

theorem test_agree : (agreeing .opened agreeW).agreeAhead 0 = some (clauseOn fbq 1, { stepIn .opened with agreeSeq := some 1 }) ∧
    ∀ st ∈ [StepState.flushing, .abandoned], let s := agreeing st agreeW
      mayRun (stepping st) fbq agreeW = true ∧ reservedSet agreeW [(0, 8), (32, 8), (48, 16), (192, 64)] = false ∧
        s.stepOf 0 (fabArg agreeW) = some { stepIn st with agreeSeq := some 1 } ∧ s.earlierOpen (clauseOn fbq 1) 1 = false ∧
        gives (s.groupOf 0 (fabGroup agreeW)) (· == [0]) = true ∧ s.flushOver { stepIn st with agreeSeq := some 1 } = true ∧
        s.agreeAhead 0 = some (clauseOn fbq 1, { stepIn st with agreeSeq := some 1 }) := by decide +kernel

/-- A result for a step that is not AGREEING. -/
theorem test_late_result : ((stepping .committing).stepOf 0 (nb (leBytes 8 1) 0 8)).map (·.state) = some .committing := by decide +kernel

theorem test_step_release : let s := busy (stepping .committing) fbq [releaseW]
    mayRun (stepping .committing) fbq releaseW = true ∧ reservedSet releaseW [(0, 8), (32, 8), (48, 16), (192, 64)] = false ∧
      s.stepOf 0 (fabArg releaseW) = some (stepIn .committing) ∧ gives (s.groupOf 0 (fabGroup releaseW)) (· == [0]) = true ∧
      beforeResult (stepIn .committing) = false ∧ s.clauses.map (·.cls == .update) = [false] := by decide +kernel

/-- This module is node 0, its ports 0 and 15 are UP, and group 1 is the nodes 0 and 2. -/
def linked (st : StepState) : State :=
  poke 0xA010 (leBytes 8 0xA110 ++ leBytes 2 2) (poke 0xA112 (leBytes 2 2)
    (withRegs [(K.groupCount 0, 2), (K.portState 0, psUp), (K.portState 15, psUp)] (stepping st)))

/-- A frame of node 2 for this module on port 15, with job 0's key. -/
def frame (flags tag addr arg : Nat) (payload : List Byte) : Frame :=
  { port := 15, src := 2, acting := 2, dst := 0, flags := flags, key := 7, tag := tag, addr := addr, arg := arg, status := 0
    payload := payload }

/-- The job of a frame that comes in. -/
def comesIn (s : State) (op : Nat) (f : Frame) : Bool := (s.inbound op f).1 == some (0, f)

theorem test_agreement_frames : let f := frame 1 0 0 1 (leBytes 8 1 ++ zeros 24)
    comesIn (linked .agreeing) 0x0E f = true ∧ comesIn (linked .agreeing) 0x0F f = true ∧ comesIn (linked .agreeing) 0x17 f = true ∧
      comesIn (linked .agreeing) 0x10 f = true ∧ comesIn (linked .agreeing) 0x11 f = true ∧
      gives ((linked .agreeing).groupOf 0 1) (fun l => l == [0, 2] && (linked .agreeing).isMe (rootOf l)) = true ∧ f.acting ∈ [0, 2] ∧
      bit f.flags 1 = false := by decide +kernel

/-- A request of a queue to node 2 that has departed; a query that node 2 answers with a result. -/
def asked (what xid arg : Nat) (q : QueueId) (data : List Byte) (s : State) : State := s.modFab fun F => { F with
  reqs := [{ tag := 0, what := what, job := 0, owner := q, xid := xid, node := 2, port := 15, addr := 2 ^ 48 * 2 + 0x5000, arg := arg, dst := 0
             data := data, sent := true, held := false, phys := 2, blocked := false }] }

def asking : State := asked 0x17 0 1 fbq (leBytes 8 1 ++ zeros 8) (linked .agreeing)

theorem test_query_answer : let f := frame 3 0 0 1 (leBytes 8 1 ++ zeros 24)
    comesIn asking 0x0F f = true ∧ bit f.flags 1 = true ∧ bit f.flags 2 = false ∧ f.payload ≠ [] ∧
      (asking.reqOf 0).map (fun r => (r.what, r.sent)) = some (0x17, true) := by decide +kernel

/-- A PARTIAL frame of row 0, first received, and one that waits. -/
theorem test_keyed_frames : let f := frame 1 0 0 0 (leBytes 8 0 ++ leBytes 4 5 ++ zeros 4 ++ leBytes 4 0x3F800000 ++ zeros 12)
    let s := linked .opened
    ((s.arrive 0x0B f).1 == some f) = true ∧ s.fab.kaWait = [] ∧
      ((s.arrive 0x0B f).2.keyedArg (.frame f)).map (fun a => (a.job, a.table, a.row, a.epoch)) = some (0, 0, 0, 5) ∧
      let w : KaWait := { src := .frame f, stall := false, since := 0 }
      let u := s.modFab fun F => { F with kaWait := [w] }
      u.fab.kaWait = [w] ∧ w.page = false ∧ (u.keyedArg (.frame f)).isSome = true := by decide +kernel

/-- One contribution of two, and the AGREE that waits in execution in group 1. -/
def contributed : State := (busy (linked .agreeing) fbq [agreeW + 2 ^ 48]).modQueue fbq (fun Q => { Q with
    infl := some { progress := 0, pos := 0, waits := [] } }) |>.modFab fun F => { F with
  contribs := [{ job := 0, group := 1, step := 1, node := 0, flags := 0, scale := 0, clean := 0 }] }

theorem test_agree_timers : (contributed.contribsOf 0 1 1).length = 1 ∧ contributed.agreeQueue 0 1 = some 0 ∧
    (contributed.fabRun 0).map (fun x => (fabGroup x.1.word, x.2.2.pos)) = some (1, 0) ∧
    gives (contributed.groupOf 0 1) (fun l => l == [0, 2] && contributed.isMe (rootOf l)) = true := by decide +kernel

theorem test_release_timeout : let s := busy (stepping .opened) upd [commitW 0]
    (s.headOf upd).isSome = true ∧ isOp 0x60 (commitW 0) = true := by decide +kernel

/-! ### Collectives, gathers and shards -/

/-- A collective of one int32 element per member in group 0, with a ragged table at 0xC100 (0xC200 for ALL_TO_ALL). -/
def collW (k : Nat) : Nat := word [(0, 0x70), (32, k), (40, fmI32), (64, 0xB000), (128, if k = 0 then 0 else if k = 5 then 0xC200 else 0xC100),
  (192, 1)]
def ragged : State :=
  poke 0xC100 (leBytes 8 0xD000 ++ leBytes 2 1 ++ zeros 6 ++ leBytes 8 1 ++ zeros 40 ++ leBytes 8 0 ++ leBytes 8 1)
    (poke 0xC200 (leBytes 8 0xD000 ++ leBytes 2 1 ++ zeros 6 ++ leBytes 8 1 ++ zeros 40 ++ leBytes 8 0 ++ leBytes 8 1 ++ leBytes 8 0 ++ leBytes 8 1)
      (linked .committing))

theorem test_collectives : ∀ k ∈ [0, 1, 2, 3, 4, 5], let s := busy ragged fbq [collW k]
    mayRun ragged fbq (collW k) = true ∧ (∀ x ∈ collChecks (collW k), x.1 = false) ∧ isFab 0x70 k (collW k) = true ∧
      gives (s.groupOf 0 (fabGroup (collW k))) (fun l => gives (s.raggedOf 0 (collW k) l.length) fun T =>
        T.dst % alignOf (fabFmt (collW k)) == 0) = true := by decide +kernel

/-- Collective 0 of group 1 in execution. -/
def collecting : State := (busy ragged fbq [collW 0 + 2 ^ 48]).modQueue fbq (fun Q => { Q with
    infl := some { progress := 0, pos := 0, waits := [] } }) |>.modJob 0 fun x => { x with collSeq := [(1, 1)] }

/-- COLL_DATA for the collective in execution, for one to come, and for one that is past. -/
theorem test_coll_data : let f (seq : Nat) := frame 1 0 1 seq (zeros 16)
    let mine (seq q : Nat) : Bool := match collecting.fabRun q with
      | some (c, cl, x) => cl.job == 0 && cb c.word 0 1 == 0x70 && fabGroup c.word == 1 && x.pos / 4 == seq
      | none => false
    comesIn collecting 0x0D (f 0) = true ∧ (List.range 16).find? (mine 0) = some 0 ∧ (List.range 16).find? (mine 1) = none ∧
      cellGet 0 1 (collecting.job 0).collSeq = 1 ∧
      (List.range 16).find? (fun q => match (linked .opened).fabRun q with | some _ => true | none => false) = none := by decide +kernel

theorem test_coll_timeout : gives (collecting.groupOf 0 1) (fun l => (l.find? fun n => !collecting.isMe n &&
    ((collecting.collOf 0 1 0 n).bind (·.decl)).isNone) == some 2) = true ∧
    (collecting.fabRun 0).map (fun x => (isOp 0x70 x.1.word, x.2.2.pos % 4)) = some (true, 0) := by decide +kernel

/-- GATHER and REFETCH of one shard of 256 elements of set 1 that this module owns, in bf16. -/
def gatherW (k : Nat) : Nat := word [(0, 0x72), (32, k), (64, 0xD000), (128, 0xC400), (192, 256)]
def sharded (owner : Nat) : State :=
  poke 0xC400 (leBytes 4 1 ++ leBytes 1 1 ++ leBytes 1 fmBf16 ++ zeros 58 ++ leBytes 8 0 ++ leBytes 8 256 ++ leBytes 2 owner)
    (linked .committing)

/-- How a gather stands: its mask, whether it stops. -/
def gatheredAt (s : State) (k : Nat) : Bool :=
  gives (s.groupOf 0 (fabGroup (gatherW k))) fun _ => gives (s.gatherOf 0 (fabDesc (gatherW k)) (fabArg (gatherW k))) fun G =>
    fabLocal (gatherW k) % alignOf G.fmt == 0 &&
      let start := s.gatherLand fbq (fetched 0 (gatherW k)) (clauseOn fbq 1) G { state := s, mask := 0, stop := none, at' := none }
      let o := (List.range G.shards.length).foldl (fun (o : GatherOut) i => o.state.gatherOne fbq (fetched 0 (gatherW k)) (clauseOn fbq 1) G o i)
        start
      o.stop.isNone

theorem test_gathers : ∀ k ∈ [0, 1], mayRun (sharded 2) fbq (gatherW k) = true ∧
    reservedSet (gatherW k) [(0, 8), (32, 8), (48, 16), (64, 64), (128, 64), (192, 64)] = false ∧ isFab 0x72 k (gatherW k) = true ∧
    gatheredAt (busy (sharded 2) fbq [gatherW k]) k = true := by decide +kernel

theorem test_gather_own : gatheredAt (busy (sharded 0) fbq [gatherW 0]) 0 = true := by decide +kernel

/-- Frames for another node, and on a port that is not UP; a request with another job's key. -/
theorem test_stray_frames : (linked .opened).isMe 3 = false ∧ (linked .opened).portUp 1 = false ∧
    let f := { frame 1 0 0x5000 4 [] with key := 9 }
    ((linked .opened).arrive 0x01 f).1 = some f ∧ ((linked .opened).arrive 0x01 f).2.jobByKey 9 = none := by decide +kernel

/-! ### Requests of peers and their answers -/

/-- A frame that comes in for job 0, and the memory of this module. -/
def served (op addr arg : Nat) (payload : List Byte) (p : State → Frame → Bool) : Bool :=
  let x := (linked .opened).inboundAny op (frame 1 0 addr arg payload)
  match x.1 with
  | some (some j, g) => j == 0 && x.2.isMe (g.addr / 2 ^ 48) && p x.2 g
  | _ => false

theorem test_peer_requests :
    served 0x01 0x5000 64 [] (fun u g => done (u.readVa 0 g.addr g.arg)) = true ∧
    served 0x03 0x5000 3 (zeros 16) (fun u g => done (u.writeVa 0 g.addr (g.payload.take g.arg))) = true ∧
    served 0x05 0x5000 (0xFFFF * 16) (leBytes 4 0x3F800000 ++ zeros 12) (fun u g =>
      match u.addSectors 0 (g.arg % 16) (g.addr / 64 * 64) 33 0 g.payload false with | .ok _ _ => true | _ => false) = true ∧
    served 0x06 0x5000 (9 + 16 * 4) (zeros 16) (fun u g => done (u.atomicVa 0 g.addr 9 4 (nb g.payload 0 8) (nb g.payload 8 8))) = true ∧
    served 0x08 0 15 (leBytes 8 (2 ^ 32) ++ zeros 8) (fun _ g => decide (g.arg ≤ 15)) = true ∧
    served 0x09 0 0x1000 (zeros 16) (fun _ _ => true) = true ∧
    served 0x0C 0 0 (zeros 16) (fun u g => gives (u.tableOf 0 (g.arg % 256)) fun t => gives (u.shardOf 0 t (nb g.payload 0 8)) fun e =>
      match e with | some e => u.owns t e | none => false) = true ∧
    served 0x12 0 0 (zeros 32) (fun _ _ => true) = true := by decide +kernel

/-- Page 0 of job 0 moves: a write waits there, and nowhere else. -/
theorem test_waiting_writes : let s := (linked .opened).modMem fun m => { m with leaves := m.leaves.map fun l =>
      if l.va = 0 then { l with migrating := true } else l }
    let waits {α : Type} (x : Acc α) : Bool := match x with | .wait => true | _ => false
    comesIn s 0x03 (frame 1 0 0x5000 3 (zeros 16)) = true ∧ s.writeWaits 0 0x5000 = true ∧ s.writeWaits 0 0x15000 = false ∧
      waits (s.writeFor .unit 0 0x5000 (zeros 3) s.freshPend) = true ∧ (linked .opened).writeWaits 0 0x5000 = false ∧
      done ((linked .opened).writeFor .unit 0 0x5000 (zeros 3) (linked .opened).freshPend) = true ∧
      let h : TxHdr := { job := 0, tag := 0, addr := 0x5000, bytes := 4, session := 1 }
      let u := s.vc0In h
      u.writeWaits 0 (u.vc0Addr h) = true ∧ waits (u.writeFor .unit 0 (u.vc0Addr h) (zeros 4) u.freshPend) = true := by decide +kernel

/-- The answer with opcode `op` to that request. -/
def answered (s : State) (op flags status : Nat) (payload : List Byte) : Option Nat :=
  ((s.response op { frame flags 0 0 0 payload with status := status }).1).map fun x => x.1.what

theorem test_responses : ∀ x ∈ [(0x02, 0x01, mov), (0x04, 0x03, mov), (0x04, 0x0B, emb), (0x04, 0x03, upd), (0x07, 0x06, fbq),
      (0x0A, 0x09, emb), (0x13, 0x12, fbq)],
    answered (asked x.2.1 0 4 x.2.2 (zeros 16) (linked .opened)) x.1 3 0 (zeros 16) = some x.2.1 ∧
    answered (asked x.2.1 0 4 x.2.2 (zeros 16) (linked .opened)) x.1 7 0x20 (zeros 16) = some x.2.1 := by decide +kernel

/-- A MOVE, a REMOTE_ATOMIC and a LOOKUP_POOL in execution that wait for such answers. -/
theorem test_answers_reach : let wait := fun (Q : Queue) => { Q with infl := some { progress := 0, pos := 0, waits := [{ id := 0, va := 0, len := 4, dst := 0 }] } }
    let a := (busy (asked 0x06 0 (9 + 16 * 4) fbq (zeros 16) (linked .opened)) fbq [remoteW 3]).modQueue fbq wait
    (((busy (linked .opened) mov [moveW 0x40]).modQueue mov wait).moving mov).map (fun x => x.2.2.waits.map (·.id)) = some [0] ∧
      (a.fabRun 0).map (fun x => isOp 0x74 x.1.word) = some true ∧
      ((a.reqOf 0).map fun r => (a.landReq fbq (clauseOn fbq 1) r (zeros 8)).1) = some none ∧
      (((busy (linked .opened) emb [lookupW]).modQueue emb wait).embedding 0).isSome = true := by decide +kernel

/-- A read that node 2 does not answer, and a plane's report on it. -/
theorem test_request_timeout : let s := withRegs [(K.retryWindow, 100)] (asked 0x01 0 4 mov [] (linked .opened))
    (s.reqOf 0).map (fun r => (timedOp r.what, r.sent, s.realNode (r.node % 2 ^ 16) == r.phys)) = some (true, true, true) ∧
      s.reg K.retryWindow ≠ 0 ∧ (s.arrive 0x16 (frame 1 0 0 0 [])).1 = some (frame 1 0 0 0 []) := by decide +kernel

theorem test_plane_report : (3, 2) ∈ ((linked .opened).modFab fun F => { F with reports := [(3, 2)] }).fab.reports := by decide +kernel

/-- An ALIAS of node 2 that takes over node 5; the one answer that a takeover awaits. -/
theorem test_takeover : let f := { frame 1 0 0 5 [] with key := 0 }
    (linked .opened).isMe f.dst = true ∧ (linked .opened).portUp f.port = true ∧ frameReserved f = false ∧
      ((linked .opened).received f).aliases = [] ∧ (((linked .opened).received f).installAlias 5 2 false).isSome = true ∧
      let s := (asked 0x14 0 0 fbq [] (linked .opened)).modFab fun F => { F with takeover := [2] }
      answered s 0x15 3 0 [] = some 0x14 ∧ (s.reqOf 0).map (·.node) = some 2 ∧ s.fab.takeover ≠ [] ∧
        let w := (asked 0x14 0 0 fbq [] (linked .opened)).modFab fun F => { F with takeover := [2, 3] }
        answered w 0x15 3 0 [] = some 0x14 ∧ (w.fab.takeover.filter (· != 2)) = [3] := by decide +kernel

/-! ### The scheduler -/

/-- A submission ring of 8 entries at 0xD000 with one entry `b`, a completion ring with room, and code region 0 ACTIVE at 0xE000, whose
clause is one CLAUSE_OPEN of the VECTOR class. -/
def submits (b : List Byte) : State :=
  (poke 0xD000 b <| poke 0xE000 (leBytes 32 (word [(0, 1), (16, 1), (32, 1), (56, 0xFF)])) <|
    withRegs [(K.sqBase 0, 0xD000), (K.sqEntries 0, 8), (K.cqEntries 0, 8), (K.codeBase 0 0, 0xE000),
      (K.codeLenState 0 0, 2 ^ 24 + 1)] (stepping .opened)).modJob 0 fun x => { x with sqProduced := 1, lastStep := some 1 }

/-- A CLAUSE entry of class `c` for logical unit `u`; a STEP entry with its descriptor at 0xE100. -/
def entryOf (c u : Nat) : List Byte := leBytes 1 1 ++ leBytes 1 c ++ leBytes 1 0 ++ leBytes 1 u ++ zeros 60
def stepEntryOf : List Byte := leBytes 1 2 ++ zeros 23 ++ leBytes 8 0xE100 ++ zeros 32

/-- A class that does not exist is refused; the clause of class VECTOR may be admitted, and so may a waiting one. -/
theorem test_submission : let s := submits (entryOf 15 0)
    s.admits 0 = true ∧ s.reg K.sessionState = ssOpen ∧ s.homeless 0 = false ∧
      (match s.nextEntry 0 with | some (.ok e) => e.kind != 2 && s.entryRefusal 0 e == some (0x08, 0) | _ => false) = true ∧
      (s.job 0).terminated = false ∧ s.slotFree 0 = true := by decide +kernel

theorem test_admission : let s := submits (entryOf 1 0)
    (match s.attempt 0 with | .ready t _ d c => d.energy == 0 && c.cls == .vector && c.unit == 0 && t.covers d.energy | _ => false) = true ∧
      let w : Waiting := { job := 0, since := 0, windows := 0 }
      s.svc.coreDown.contains 0 = false ∧ s.clauses.filter isHomeless = [] ∧ ({ s with waiting := [w] } : State).waitOrder = [w] ∧
      (match ({ s with waiting := [w] } : State).attempt 0 with | .ready t _ d _ => t.covers d.energy | _ => false) = true := by
  decide +kernel

/-- A sound STEP descriptor of step 2, epoch 6, and an unsound one. -/
theorem test_step_entry : ∀ x ∈ [(0, true), (1, false)],
    let s := poke 0xE100 (leBytes 8 2 ++ leBytes 8 6 ++ zeros 4 ++ leBytes 1 x.1) (submits stepEntryOf)
    s.admits 0 = true ∧ s.reg K.sessionState = ssOpen ∧
      (match s.nextEntry 0 with | some (.ok e) => e.kind == 2 && !e.reserved && e.desc == 0xE100 | _ => false) = true ∧
      (s.job 0).terminated = false ∧ (s.steps.filter (·.job == 0)).length < 2 ∧
      gives ((s.wake (.core 0)).readVa 0 0xE100 64) (fun b => (s.wake (.core 0)).stepOk 0 b == x.2) = true := by decide +kernel

/-- CODE_SWITCH to region 1 from region 0, sound and not, last in its clause or not. -/
def switchW : Nat := word [(0, 0x10), (40, 1)]
def switching (lines : Nat) (more : List QCmd) : State :=
  { withRegs [(K.codeLenState 0 0, 2 ^ 24 + 1), (K.codeLenState 0 1, lines)] ready with
    sched := [{ clause := clauseOn ary 2, next := 0, left := fetched 0 switchW :: more }] }

theorem test_code_switch : ∀ x ∈ [(0, [], some 1), (1, [], none), (1, [fetched 1 0], none)], let s := switching x.1 x.2.1
    s.svc.coreDown.contains 0 = false ∧ (s.sched.find? fun r => r.clause.job == 0).map (·.left) = some (fetched 0 switchW :: x.2.1) ∧
      cb switchW 0 1 = 0x10 ∧ reservedSet switchW [(0, 8), (32, 8), (40, 8), (48, 1)] = false ∧
      s.switchBad 0 (cb switchW 4 1) (cb switchW 5 1) (bit switchW 48) = x.2.2 := by decide +kernel

theorem test_region_retired : let s := withRegs [(K.codeLenState 0 15, 2 * 2 ^ 24 + 1)] ready
    s.codeState 0 15 = 2 ∧ s.clauses = [] := by decide +kernel

/-! ### Halts that core 2 decides -/

/-- An entry of the handler queue. -/
def handling : State := { ready with svc := { ready.svc with
  queue := [{ seq := 1, kind := 1, cls := 1, unit := 0, queue := some ary, job := 0, reason := 0x22, detail := 0, occ := 1 }] } }

theorem test_handler_entry : handling.powered = true ∧ handling.coreOut 2 = false ∧ handling.svc.queue.length = 1 := by decide +kernel

/-- Undecided halts of each kind, with and without a quota wait; and a job that is held. -/
theorem test_decided : (∀ r ∈ [0xF0, 0x22, 0x31], ((((halted ready ary r breakW).queue ary).bind (·.halt)).map fun h => (h.reason, h.decided)) =
    some (r, false)) ∧ (withRegs [(K.quotaWait 0, 1)] ready).reg (K.quotaWait 0) ≠ 0 ∧ (withRegs [(K.quotaWait 0, 0)] ready).reg (K.quotaWait 0) = 0 ∧
    let s := ready.modQueue emb fun Q => { Q with held := [{ halt := quotaHalt, cmds := [], unread := [] }] }
    s.powered = true ∧ s.coreOut 2 = false ∧ (s.heldOf emb 0).isSome = true := by decide +kernel

/-! ### Migration, scrub and temperatures -/

/-- The table of `stepping` may migrate: job 0 alone is resident. -/
theorem test_migration_window : let s := withRegs [(K.rowMigrateBudget, 1)] (stepping .opened)
    let u := (s.modMem fun m => { m with rowsMoved := [], rowWant := false }).rowMovesGoOn
    s.powered = true ∧ s.reg K.rowMigrateBudget ≠ 0 ∧ u.residents = [0] ∧ u.reg (K.tableCount 0) = 1 ∧
      gives (u.tableOf 0 0) (fun t => u.migrates 0 t && t.shards == 1 && gives (u.shardAt 0 t 0) fun e => u.owns t e) = true := by
  decide +kernel

/-- A table with the levels hot and cold, one old row at the hot level, whose state page rests in tier 0: it moves to the cold level. -/
def aged : State :=
  poke 0x1008 (leBytes 2 1 ++ leBytes 1 8 ++ leBytes 1 0 ++ leBytes 1 0x55) (poke 0x100E (leBytes 1 3)
    (poke 0x2070 (leBytes 8 0xC000) (poke 0x2080 (leBytes 4 1) (poke 0x3000 (leBytes 8 0x30) (withRegs [(K.rowMigrateBudget, 1)] (stepping .opened))))))

theorem test_demotion_sweep : gives (aged.tableOf 0 0) (fun t => t.age == 3 && aged.migrates 0 t && t.shards == 1 &&
    gives (aged.shardAt 0 t 0) fun e => aged.owns t e && e.rows == 1 && gives (aged.readVa 0 (mapAddr e e.first) 8) fun m =>
      mapOk t e (leNat m) && !mapMigrating (leNat m) && t.below (mapLevel (leNat m)) == some 2 && decide (t.age ≤ mapAge (leNat m)) &&
        match (aged.didRead 0 (mapAddr e e.first) 8).moveRow 0 t e e.first (leNat m) 2 with | .made _ => true | _ => false) = true ∧
    aged.powered = true ∧ aged.isResident 0 = true ∧ aged.mem.sweeps = [] := by decide +kernel

/-- A row move under way whose slot no fetch names; a request for a page in tier 1; a page whose copy from tier 1 is done. -/
theorem test_row_move : let m : RowMove := { job := 0, table := 0, row := 0, level := 0, slot := 0, newLevel := 1, newSlot := 0, gen := 0, slice := 0, master := 0, done := true, fetches := [] }
    let s := aged.modMem fun x => { x with rowMoves := [m] }
    s.mem.rowMoves[0]? = some m ∧ m.done = true ∧ m.fetches = [] ∧
      let u := s.modMem fun x => { x with rowMoves := x.rowMoves.eraseIdx 0 }
      gives (u.tableOf 0 0) (fun t => gives (u.shardOf 0 t 0) fun e => e.isSome) = true := by decide +kernel

/-- Job 0 with page 0 in tier 1, not kept there as any container, and page 1 in tier 0. -/
def paged : State := (withRegs [(K.nodeId, 0), (K.pageMigratePages, 0), (K.t0DataQuota 0, 2 ^ 20)] ready).modMem fun m => { m with
  leaves := [{ leafAt 0 0 with tier := 1 }, { leafAt 65536 1 with migrating := true }] }

theorem test_page_request : let r : PageReq := { job := 0, va := 0, table := 0, epoch := 0, failed := none }
    let s := paged.modMem fun m => { m with pageReqs := [r] }
    s.powered = true ∧ s.reg K.pageMigratePages = 0 ∧ s.mem.pageReqs = [r] ∧
      (s.leafOf 0 0).map (fun l => (l.allocated, l.tier, s.movable l, (s.startMove l 0 false).isSome)) = some (true, 1, true, true) ∧
      let u := s.modMem fun m => { m with retired := 0 }
      (u.leafOf 0 0).isSome = true ∧ u.quotaFits 0 0 65536 = true ∧ u.drawsMove 0 1 = true := by decide +kernel

theorem test_page_arrival : let r : PageReq := { job := 0, va := 65536, table := 0x100, epoch := 0, failed := none }
    let s := mapped.modMem fun m => { m with pageReqs := [r] }
    s.mem.pageReqs[0]? = some r ∧ (s.leafOf 0 65536).map (fun l => (l.allocated, l.tier, l.migrating)) = some (true, 0, false) := by decide +kernel

theorem test_page_copied : let m : PageMove := { job := 0, va := 0, srcTier := 1, src := 0, dstTier := 0, dst := 5, stage := .copying, retire := false }
    let s := paged.modMem fun x => { x with moves := [m] }
    s.mem.moves[0]? = some m ∧ m.srcTier ≠ 2 ∧ m.dstTier ≠ 2 ∧
      ((s.leafOf 0 0).map fun l => (s.putCopy m (s.pageHere l) (s.poisonHere l 64)).isSome) = some true := by decide +kernel

theorem test_page_release : let m : PageMove := { job := 0, va := 0, srcTier := 1, src := 0, dstTier := 0, dst := 5, stage := .releasing, retire := false }
    (ready.modMem fun x => { x with moves := [m] }).mem.moves[0]? = some m ∧ m.srcTier ≠ m.dstTier := by decide +kernel

theorem test_scrub : ready.powered = true ∧ (11 * 65536) / 64 * 64 ≠ t0LastSector ∧ ready.channelUp (frameStack 11) (frameChannel 11) = true ∧
    (∀ x ∈ [(1, 1), (1, 0x0D), (2, 0x0E), (2, 0x0F), (3, 0x10), (0x0B, 0x11)], ready.scrubUnit x.1 0 = true ∧ scrubCode x.1 x.2 = true) ∧
    scrubCode 1 0x0E = false := by decide +kernel

/-- The first unit and the last of tier 1, and a unit of a page that two chunks keep. -/
theorem test_scrub_tier1 : (∀ x ∈ [(0, 0), (ready.chunksTotal - 1, 63)], x.1 < ready.chunksTotal ∧ ready.chunkOk x.1 = true) ∧
    let b : Container := { id := 3, job := 0, page := 0, chunks := [5, 9], unitMap := 1 }
    ([b].find? (·.chunks.contains 9)) = some b ∧ b.blockAt (64 * b.chunks.idxOf 9 + 2) = some 33 := by decide +kernel

/-- Stacks at each level, and changes of it among levels 1 to 3. -/
theorem test_throttle : (∀ l ∈ [0, 1, 2, 3], (withRegs [(K.hbmThrottleLevel 0, l)] ready).throttledTime 0 |>.reg (K.hbmThrottleLevel 0) |> (· = l)) ∧
    throttleLevel 85 5 96000 0 = 3 ∧ throttleLevel 85 5 93000 3 = 3 ∧ throttleLevel 85 5 84000 2 = 2 ∧ throttleLevel 85 5 80000 1 = 1 ∧
    throttleLevel 85 5 84999 0 = 0 := by decide +kernel

theorem test_overtemp : (withRegs [(K.hbmThrottleLevel 11, 3)] ready).reg (K.hbmThrottleLevel 11) = 3 := by decide +kernel

/-! ### Ports -/

/-- Port 15 in a state. -/
def portIn (st : Nat) : State := withRegs [(K.nodeId, 0), (K.portState 15, st), (K.portLanesInService 15, 15)] ready

theorem test_ports : (portIn psDown).portsLive = true ∧ (portIn psDown).reg (K.portState 15) = psDown ∧
    lanesIn ((portIn psTraining).laneMask 15 1) < 2 ∧ 2 ≤ lanesIn ((portIn psTraining).laneMask 15 15) ∧
    (portIn psQuarantined).reg (K.portState 15) = psQuarantined ∧ (portIn psUp).portUp 15 = true ∧
    bit ((portIn psUp).reg (K.portLanesInService 15)) 3 = true := by decide +kernel

/-- Port 15 as a structure, in a state of its replay buffer. -/
def txFrame (n k : Nat) : TxFrame := { seq := n, op := 0x01, frame := frame 0 0 0x5000 4 [], moved := false, replays := k }

/-- Frames that are acknowledged, that are not, that were replayed 15 times; a 9th flap within 60 s and a first one. -/
theorem test_port_frames : let p (l : List TxFrame) (t : List Nat) : State := (portIn psUp).modPort 15 fun P => { P with replay := l, flapTimes := t }
    let port (s : State) : Option (List TxFrame × Nat) := (s.fab.ports[15]?).map fun P =>
      (P.replay, (s.tick :: P.flapTimes.filter fun t => s.tick - t < 60 * 25000000).length)
    port (p [txFrame 3 0, txFrame 4 15] []) = some ([txFrame 3 0, txFrame 4 15], 1) ∧ port (p [] (List.replicate 8 0)) = some ([], 9) ∧
      seqUpTo 3 3 = true ∧ seqUpTo 4 3 = false ∧ (portIn psDown).reg (K.portState 15) ≠ psUp := by decide +kernel

/-- A dictionary value on the sideband. -/
def odv (ty n : Nat) : OdVal := { path := .sideband, ty := ty, bytes := leBytes (if ty = 1 then 1 else ty) n }

/-- A state whose checks pass for a write of `n` to an entry, of type `ty` and `len` bytes. -/
def writes (s : State) (idx sub ty len n : Nat) : Bool :=
  s.dictServed .sideband && (s.wake (.core 3)).writeChecks .sideband idx sub ty (leBytes len n) == .ok

/-- A key exchange: the hello sent, the peer's received, its signature received; and a rekey. -/
def keyed (st : Nat) (l : List KeyingMsg) (re : Bool) : State := (portIn st).modPort 15 fun P => { P with keying := l, rekeying := re }

theorem test_keying : let h : KeyingMsg := .hello 1 2 []
    ((keyed psKeying [h] false).fab.ports[15]?).map (fun P => (P.keying, P.rekeying)) = some ([h], false) ∧
      ((keyed psKeying [h, h] false).fab.ports[15]?).map (·.keying) = some [h, h] ∧
      ((keyed psUp [] false).fab.ports[15]?).map (·.rekeying) = some false ∧
      ((keyed psUp [h, h, .sign 3] true).fab.ports[15]?).map (fun P => (P.keying, P.rekeying)) = some ([h, h, .sign 3], true) ∧
      (keyed psKeying [h] false).reg (K.portState 15) = psKeying ∧ (keyed psUp [] false).portUp 15 = true ∧
      (keyed psUp [h, h] true).reg (K.portState 15) = psUp ∧
      ((keyed psUp [h, h] true).fab.ports[15]?).map (fun P => (P.keying, P.rekeying)) = some ([h, h], true) := by decide +kernel

/-- Writes of port_service: out of service from UP and from out of service, back from out of service, and 0 elsewhere. -/
theorem test_port_service : ∀ st ∈ [psUp, psOut], ∀ n ∈ [0, 1], writes (portIn st) 0x272F 0xA 2 1 n = true ∧
    (((portIn st).wake (.core 3)).setReg (K.portService 15) n).reg (K.portState 15) = st := by decide +kernel

/-! ### The Ryeve link and the control node -/

def ryFrame (k : Nat) : RyeveOut := { seq := 0, session := 0, vc := 0, op := 0, tag := 0, job := 0, status := 0, payload := [], replays := k }

theorem test_ryeve_link : ready.ryUp = true ∧ ready.powered = true ∧ ready.sess.replay = [] ∧
    (withRegs [(K.ryeveLinkState, 1)] ready).reg K.ryeveLinkState = 1 ∧ ready.reg K.moduleState ≠ 2 ∧ ready.pow.pllStopped = false ∧
    ∀ k ∈ [0, 15], (ready.modSess fun e => { e with replay := [ryFrame k] }).sess.replay = [ryFrame k] := by decide +kernel

/-- Doorbells of job 0 in session 1: to the end of the ring, one past it, and in another session. -/
theorem test_doorbells : let u := (withRegs [(K.sqEntries 0, 8), (K.cqProduced 0, 1), (K.eqProduced 0, 1)] ready).bellIn 0
    u.bellOk 0 1 = true ∧ u.bellOk 0 2 = false ∧ sub32 8 (u.reg (K.sqConsumed 0)) ≤ u.reg (K.sqEntries 0) ∧
      sub32 (u.job 0).sqProduced (u.reg (K.sqConsumed 0)) ≤ 8 ∧ u.reg (K.sqEntries 0) < sub32 9 (u.reg (K.sqConsumed 0)) ∧
      sub32 1 (u.job 0).cqConsumed ≤ sub32 (u.reg (K.cqProduced 0)) (u.job 0).cqConsumed ∧
      sub32 1 (u.job 0).eqConsumed ≤ sub32 (u.reg (K.eqProduced 0)) (u.job 0).eqConsumed ∧ ready.sessionOk 1 = true := by decide +kernel

theorem test_notify_interval : ∀ x ∈ [(1, RingId.completion 0), (2, .event 0)],
    let s := ready.modJob 0 fun c => { c with notifyWait := [1, 2], notifyDue := [2] }
    (s.job 0).notifyWait.contains x.1 = true := by decide +kernel

/-- Headers of memory operations: of job 0, of the session window to its last byte, of 0 bytes. -/
def header (job addr n session : Nat) : TxHdr := { job := job, tag := 0, addr := addr, bytes := n, session := session }

theorem test_control_memory : let h := header 0 0x5000 4 1
    let u := mapped.vc0In h
    badHdr h h.bytes = false ∧ u.sessionOk h.session = true ∧ u.jobServed h.job = true ∧ done (u.readVa 0 (u.vc0Addr h) 4) = true ∧
      done (u.writeVa 0 (u.vc0Addr h) (zeros 4)) = true ∧ (mapped.vc0In (header 0 0 4 2)).sessionOk 2 = false ∧
      (mapped.vc0In (header 1 0 4 1)).jobServed 1 = false ∧ badHdr (header 0xFF (2 ^ 24 - 4) 4 1) 4 = false ∧ 2 ^ 24 - 4 + 4 ≤ 2 ^ 24 ∧
      badHdr (header 0 0 0 1) 0 = true := by decide +kernel

/-- Reads of the control node that wait for memory. -/
theorem test_control_arrival : ∀ j ∈ [0, 0xFF], let p : PendRead := { id := 0, vc0 := true, op := 0x01, frame := frame 0 0 0 0 [], hdr := header j 0x5000 4 1, data := [] }
    let s := mapped.modFab fun F => { F with pendReads := [p] }
    s.powered = true ∧ (s.fab.pendReads.find? (·.id == p.id)) = some p ∧ done (s.readVa 0 (s.vc0Addr p.hdr) 4) = true ∧
      (s.physOf 0 (s.vc0Addr p.hdr)).isSome = true := by decide +kernel

/-- A message on the sideband. -/
def msg : MsgHdr := { path := .sideband, seq := 0, session := 0, major := 1, status := 0, response := false, reserved := 0 }

/-- SESSION_OPEN of version 1.0 with a ring of 64 entries where there is no session. -/
theorem test_session_open : let s := withRegs [(K.sessionState, ssNone), (K.fwInterfaceVersion, 2 ^ 16)] ready
    let b := leBytes 4 (2 ^ 16) ++ zeros 4 ++ leBytes 8 4096 ++ leBytes 4 64
    s.pow.standby = true ∧ s.booted = true ∧ s.coreOut 3 = false ∧ b.length = 20 ∧ nb b 4 1 ≤ 1 ∧ nb b 5 3 = 0 ∧
      ringPlaceOk (nb b 8 8) (nb b 16 4) = true ∧ (s.wake (.core 3)).sess.holdOff = none ∧
      nb b 0 4 / 2 ^ 16 = (s.wake (.core 3)).reg K.fwInterfaceVersion / 2 ^ 16 ∧
      nb b 0 4 % 2 ^ 16 ≤ (s.wake (.core 3)).reg K.fwInterfaceVersion % 2 ^ 16 ∧ (s.wake (.core 3)).ninth = false := by decide +kernel

theorem test_session_resume : let s := withRegs [(K.sessionState, ssSilent)] ready
    let b := leBytes 4 1 ++ zeros 16
    b.length = 20 ∧ nb b 0 4 = s.reg K.sessionNumber ∧ nb b 4 16 = s.sess.token ∧ (s.wake (.core 3)).ninth = false ∧
      (withRegs [(K.lease, 1)] ready).reg K.lease ≠ 0 ∧ ready.reg K.sessionState = ssOpen := by decide +kernel

/-! ### The object dictionary -/

/-- A write of alert_mask passes and is made; one of 1 to a live count passes and is refused; one of the wrong type does not pass. -/
theorem test_dict_write : writes ready 0x1220 6 4 4 0 = true ∧
    (((ready.wake (.core 3)).writeEntry 0x1220 6 0 (leBytes 4 0)).isSome) = true ∧ writes ready 0x2880 2 5 8 1 = true ∧
    ((ready.wake (.core 3)).writeEntry 0x2880 2 1 (leBytes 8 1)).isSome = false ∧ writes ready 0x1220 6 3 4 0 = false ∧
    256 * 0x2880 + 9 ≠ K.debugToken := by decide +kernel

/-- An undefined index; an undefined subindex; an entry of the service role; a read-only entry; a wrong type; a reserved bit; a range. -/
theorem test_check_order : (Dict.index 0x1FFF).length = 0 ∧ (Dict.index 0x1220).length = 8 ∧ (Dict.find 0x1220 9).isSome = false ∧
    ((Dict.find 0x1220 6).any fun e => e.role == 1 && e.access == .rw && encodingOk e 4 (zeros 4) && !encodingOk e 3 (zeros 4) &&
      !setsReserved e 0x1220 6 (zeros 4) && inRange e 0) = true ∧ (withRegs [(K.sbRyeveService, 0)] ready).roleOf .vc1 = 0 ∧ ready.roleOf .sideband = 1 ∧
    (Dict.find 0x1220 5).map (fun e => setsReserved e 0x1220 5 (leBytes 4 256)) = some true ∧
    (Dict.find 0x1220 1).map (fun e => e.access == .ro) = some true ∧ ready.indexAbsent 0x1220 = false := by decide +kernel

/-- After boot, with no job and no session. -/
def rested : State := withRegs [(K.bootStatus, 1)] State.reset

/-- Writes of entries that act, at the ends of their ranges. -/
theorem test_acting_entries : writes ready (0x2880 + 0x52) (0x0A + 7) 4 4 0x10 = true ∧ eventDefined 0x52 (bits 0x10 0 8) = true ∧
    writes ready 0x2810 4 4 4 5 = true ∧ writes ready 0x2810 7 5 8 0 = true ∧
    (ready.wake (.core 3)).reg K.smpConsumed ≤ 0 ∧ 0 ≤ (ready.wake (.core 3)).reg K.smpProduced ∧ writes ready 0x1220 5 4 4 0xF0 = true ∧
    writes ready 0x2800 1 1 1 1 = true ∧ writes rested 0x2700 1 3 2 16383 = true ∧ rested.anyResident = false ∧
    writes ready 0x2711 1 3 2 5 = true ∧ writes rested 0x2100 2 1 1 0 = true ∧ writes rested 0x2100 2 1 1 1 = true ∧
    ∀ p < 16, rested.reg (K.portState p) ≠ psUp := by decide +kernel

theorem test_snapshot : (withRegs [(K.snapshotPeriod, 1)] ready).reg K.snapshotPeriod ≠ 0 ∧ ready.reg K.snapshotACycles = 0 ∧
    0x52 ∈ countedUnits ∧ ready.countedPresent 0x52 = true ∧ ready.countsCycles 0x52 7 = false := by decide +kernel

/-- clear_degraded where the module may return to NORMAL, and where an entry waits for core 2. -/
theorem test_clear_degraded : let s := withRegs [(K.moduleState, 1)] ready
    writes s 0x2900 2 1 1 1 = true ∧ s.reg K.moduleState ≤ 1 ∧ s.svc.queue = [] ∧ s.phraseUp 0 = true ∧ s.eeUp 0 = true ∧
      s.sliceUp 0 = true ∧ writes handling 0x2900 2 1 1 1 = true ∧ handling.svc.queue ≠ [] := by decide +kernel

theorem test_count_clear : writes ready (0x2880 + 0x52) (0x02 + 7) 5 8 0 = true ∧ writes ready (0x2880 + 0x52) (0x02 + 7) 5 8 1 = true := by
  decide +kernel

/-- A map request of the last large page of the address space. -/
def request (size va n : Nat) : MapReq :=
  { size := size, tier := 0, read := true, write := false, pin := false, policy := 0, srcJob := 63, reserved := 0, va := va, length := n, srcVa := 0 }

theorem test_map_request : ready.dictServed .sideband = true ∧ (ready.wake (.core 3)).reg (K.mapStatus 63) ≠ 1 ∧
    let r := request 2 (2 ^ 48 - mapSpan 2) (mapSpan 2)
    r.va % mapSpan r.size = 0 ∧ 0 < r.length ∧ r.length % mapSpan r.size = 0 ∧ r.va + r.length ≤ 2 ^ 48 ∧ r.srcVa % mapSpan r.size = 0 := by
  decide +kernel

/-- A map of two pages adds them; a map of what is mapped is refused. -/
theorem test_map_range : (ready.mem.leaves.any fun l => leafMeets l 0 0 131072) = false ∧ (ready.mapRequest 1 0 (request 0 0 131072)).1 = 0 ∧
    (mapped.mapRequest 1 0 (request 0 0 131072)).1 ≠ 0 := by decide +kernel

/-- OD_READ of one item, one with no items, and OD_WRITE of one. -/
theorem test_item_messages : msg.path = .sideband ∧ ready.pow.standby = true ∧ ready.booted = true ∧ ready.coreOut 3 = false ∧
    readBodyStatus (leBytes 2 0x1220 ++ leBytes 1 1 ++ leBytes 1 1 ++ zeros 4) = 0 ∧ readBodyStatus (zeros 8) ≠ 0 ∧
    (match writeBody (leBytes 1 1 ++ zeros 7 ++ leBytes 2 0x1220 ++ leBytes 1 6 ++ leBytes 1 4 ++ leBytes 2 4 ++ zeros 2 ++ zeros 4) with
      | .ok l => l.length == 1 | .error _ => false) = true := by decide +kernel

/-- A sideband frame. -/
def sideband (i n : Nat) : SbFrame :=
  { ethertype := 0x88B5, dstOk := true, version := 1, slot := 0, kind := 1, fragIndex := i, fragCount := n, exchange := 0, fragLen := 16
    reserved := 0, data := zeros 16 }

theorem test_sideband_frames : (∀ x ∈ [(0, 1), (0, 4), (3, 4)], ready.sbAccepts (sideband x.1 x.2) = true) ∧ ready.sbAccepts (sideband 4 4) = false ∧
    ready.sess.sbBusy = none ∧ ready.sess.sbPartial = none ∧ (withRegs [(K.sbPlcaState, 1)] ready).reg K.sbPlcaState = 1 ∧
    (ready.modSess fun e => { e with sbPartial := some (0, 1, []) }).sess.sbPartial = some (0, 1, []) := by decide +kernel

/-! ### Jobs -/

/-- Job 0 in a state, with a checkpoint destination. -/
def jobIn (st : Nat) : State := withRegs [(K.jobState 0, st), (K.ckptDest 0, 0x10000)] ready

theorem test_job_commands : ∀ st ∈ [jsFree, jsCreated, jsRunning, jsParked], (jobIn st).dictServed .vc1 = true ∧
    ((jobIn st).wake (.core 3)).reg K.sessionState = ssOpen ∧ ((jobIn st).wake (.core 3)).reg (K.jobState 0) = st ∧
    (((jobIn st).wake (.core 3)).job 0).ckpt = false ∧ ((jobIn st).wake (.core 3)).reg (K.ckptDest 0) ≠ 0 := by decide +kernel

theorem test_checkpoint_done : let s := (jobIn jsRunning).modJob 0 fun c => { c with ckpt := true, ckptEnd := 4096 }
    s.powered = true ∧ (s.job 0).ckpt = true ∧ (s.job 0).ckptEnd ≠ 0 ∧ s.fab.reqs = [] ∧ s.fab.farFail = [] := by decide +kernel

theorem test_scrub_done : let s := (jobIn jsReleasing).modJob 0 fun c => { c with scrubbing := true }
    s.powered = true ∧ s.reg (K.jobState 0) = jsReleasing ∧ (s.job 0).scrubbing = true ∧ s.reg K.sessionState ≠ ssReleasing := by decide +kernel

/-- A container of no section, with a digest. -/
def container (digest : Nat) : List Byte :=
  leBytes 4 0x4B435855 ++ leBytes 2 1 ++ leBytes 2 7 ++ leBytes 4 (ready.reg K.contractVersion / 65536 * 65536) ++ zeros 116 ++ leBytes 64 digest

/-- Its digest is what SHA-512 gives for no section; nothing else is to restore. -/
theorem test_restore : ready.powered = true ∧ ready.jobServed 0 = true ∧
    ready.readContainer (container (Config.sha512 [])) = some [] ∧ (ready.evictList 0).reg (K.psetCount 0) = 0 := by
  have hl : ∀ n v, leNat (leBytes n v) = v % 256 ^ n := by
    intro n
    induction n with
    | zero => intro v; simp [leBytes, leNat, Nat.mod_one]
    | succ n ih =>
      intro v
      have := Nat.mod_mul (x := v) (a := 256) (b := 256 ^ n)
      simp only [leBytes, leNat, ih, BitVec.toNat_ofNat, Nat.pow_succ, Nat.mul_comm _ 256]
      omega
  have hd : nb (container (Config.sha512 [])) 128 64 = Config.sha512 [] := by
    have : (container (Config.sha512 [])).drop 128 = leBytes 64 (Config.sha512 []) := by rfl
    have e : (leBytes 64 (Config.sha512 [])).take 64 = leBytes 64 (Config.sha512 []) := by rfl
    have two : (2 : Nat) ^ 512 = 256 ^ 64 := by decide +kernel
    rw [nb, this, e, hl]
    exact Nat.mod_eq_of_lt (two ▸ (Config.sha512Bits []).isLt)
  refine ⟨by decide +kernel, by decide +kernel, ?_, by decide +kernel⟩
  have h0 : nb (container (Config.sha512 [])) 14 2 = 0 := by decide +kernel
  have h1 : (nb (container (Config.sha512 [])) 0 4 == 0x4B435855 && nb (container (Config.sha512 [])) 4 2 == 1 &&
    nb (container (Config.sha512 [])) 6 2 == 7 && nb (container (Config.sha512 [])) 8 4 / 65536 == ready.reg K.contractVersion / 65536) = true := by
    decide +kernel
  simp only [State.readContainer, h0, h1, hd]
  simp

/-! ### Power, clocks and pins -/

theorem test_governor : ready.booted = true ∧ ready.svc.coreDown = [] ∧ ready.trust.updateReq = none ∧ ready.pow.pllStopped = false ∧
    ready.clauses = [] := by decide +kernel

/-- A sample above 102 % of the cap, and one at the cap. -/
theorem test_power_sample : let s := withRegs [(K.powerCap, 1000)] ready
    ready.pow.standby = true ∧ meanMw (((48000, 21251) :: ({ s with gov := { s.gov with samples := [] } } : State).gov.samples).take 25) * 100 >
      s.reg K.powerCap * 1000 * 102 ∧ meanMw ([(50000, 20000)].take 25) ≤ s.reg K.powerCap * 1000 := by decide +kernel

/-- The state after a reading of 32 equal die sensors. -/
def sensed (s : State) (t : Int) : State :=
  let l := List.replicate 32 t
  let u := (List.range 32).foldl (State.judgeSensor l) s
  (u.setReg K.junction (u.junctionOf l % 2 ^ 32).toNat).gateTime

/-- Its junction temperature, its gate, and the limit. -/
def sense (gate : Bool) (t : Int) : Int × Bool × Nat :=
  let s : State := withRegs [(K.junctionLimit, 95)] { ready with gov := { ready.gov with gateThermal := gate } }
  (((List.range 32).foldl (State.judgeSensor (List.replicate 32 t)) s).junctionOf (List.replicate 32 t), (sensed s t).gov.gateThermal,
    (sensed s t).reg K.junctionLimit)

theorem test_die_sensors_110 : sense false 110000 = (110000, false, 95) := by decide +kernel

theorem test_die_sensors : sense false 95000 = (95000, false, 95) ∧ sense true 92000 = (92000, true, 95) ∧
    sense false 94999 = (94999, false, 95) ∧ sense true 92001 = (92001, true, 95) := by decide +kernel

/-- The module without its input. -/
def dark : State := { State.reset with pow := { State.reset.pow with standby := false } }

/-- The rails wanted, `n` groups of them up. -/
def railsAt (want : Bool) (n : Nat) : State := { State.reset with pow := { State.reset.pow with railsWant := want, railsUp := n } }

theorem test_rails : dark.pow.standby = false ∧ ready.pow.standby = true ∧ ready.railsOn = true ∧ 6 ≤ ready.pow.railsUp ∧
    ({ ready with pow := { ready.pow with uvWait := true } } : State).pow.uvWait = true ∧ (railsAt true 5).pow.standby = true ∧
    (railsAt true 5).pow.railsWant = true ∧ (railsAt true 5).pow.railsUp < 6 ∧ (railsAt false 6).pow.railsWant = false ∧
    1 ≤ (railsAt false 6).pow.railsUp := by decide +kernel

theorem test_plls : let s : State := { railsAt true 6 with pow := { (railsAt true 6).pow with inReset := true } }
    s.pow.railsUp = 6 ∧ s.pow.inReset = true ∧ ready.pow.pllStopped = false ∧ bit ((withRegs [(K.pllLocked, 7)] ready).reg K.pllLocked) 2 = true := by
  decide +kernel

/-- The three inputs: MOD_EN not asserted and asserted, MOD_RST_N and PFW_N not asserted and asserted. -/
theorem test_pins : let s (n : Nat) : State := withRegs [(K.inputs, n)] ready
    (s 0).pow.standby = true ∧ ({ s 0 with pow := { (s 0).pow with inrushDone := true } } : State).pow.inrushDone = true ∧ (s 0).input 0 = false ∧
      ((s 0).recognise 0 true).reg K.moduleState ≠ 2 ∧ (s 1).input 0 = true ∧ (s 1).railsOn = true ∧ (s 0).input 1 = false ∧
      (s 2).input 1 = true ∧ (s 0).input 2 = false ∧ (s 0).booted = true ∧ (s 4).input 2 = true ∧
      ({ s 4 with pow := { (s 4).pow with inHold := true } } : State).pow.inHold = true ∧
      ({ s 0 with pow := { (s 0).pow with rawLevel := 0 } } : State).pow.rawLevel = 0 ∧ pinAsserts .pfw false = true := by decide +kernel

/-- Units that rest: a phrase's array, an EE, a slice, the fabric, a core. -/
theorem test_rest : let s := withRegs [(K.jobState 0, 0)] ready
    ∀ u ∈ [PowerUnit.array 7, .ee 15, .slice 11, .fabric, .core 2], s.hasUnit u = true ∧ s.powerOf u = 0 ∧ s.unitQuiet u = true ∧
      s.mayNap u = true ∧ s.unbound u = true := by decide +kernel

/-- Every unit in Nap. -/
theorem test_all_nap : let s := ready.powerUnits.foldl (fun s u => s.setPower u 2) ready
    s.allNap = true ∧ s.reg K.deepIdle ≠ 1 ∧ (ready.ees[15]?).isSome = true := by decide +kernel

/-! ### Service, cores, boot and trust -/

/-- A service request for a unit. -/
def serviceOf (cls unit : Nat) : ServiceReq := { cls := cls, unit := unit, mode := 0, reserved := 0 }

/-- Removal, test and return of slice 0 and of package 0; of a unit that is absent; of the last phrase. -/
theorem test_service : let u (l : List (Nat × Nat)) := (withRegs l ready).wake (.core 3)
    ready.dictServed .sideband = true ∧ 1 ≤ (u []).roleOf .sideband ∧ (u []).requestRefusal 1 (serviceOf 3 12) = some 0x02 ∧
      (u []).requestRefusal 1 (serviceOf 3 0) = none ∧ (u []).svcUp 3 0 = true ∧ (u []).runOn 3 0 = none ∧ (u []).svcLast 3 0 = false ∧
      (u []).roomFor 3 0 = true ∧ (u [(K.sliceService 0, 2)]).requestRefusal 2 (serviceOf 3 0) = none ∧
      (u [(K.sliceService 0, 2)]).svcState 3 0 = 2 ∧
      (u ((List.range 11).map fun k => (K.sliceService k, 2))).svcLast 3 11 = true := by decide +kernel

def removing : ServiceRun := { op := 1, cls := 3, unit := 0, mode := 0, byFault := false, after := 0, since := 0 }

theorem test_removal_ends : let s : State := { ready with svc := { ready.svc with runs := [removing] } }
    s.powered = true ∧ s.svc.runs = [removing] ∧ (s.advance removing).2 = true ∧
      (({ s with svc := { s.svc with runs := [{ removing with op := 2 }] } } : State).svc.runs.find? (·.op == 2)).isSome = true := by decide +kernel

theorem test_cores : ready.booted = true ∧ ready.svc.coreDown.contains 3 = false ∧ ready.powerOf (.core 3) = 0 ∧
    ({ ready with svc := { ready.svc with coreDown := [3] } } : State).svc.coreDown.contains 3 = true := by decide +kernel

/-- No trusted image in either slot. -/
theorem test_boot_fails : let s := State.reset.modTrust fun t => { t with trustedA := [], trustedB := [] }
    s.powered = true ∧ s.reg K.bootStatus = 0 ∧ s.bootTrusted.isSome = false ∧
      ((s.modTrust fun t => { t with fusesDue := [(1, 5, 1)] }).trust.fusesDue.find? (fun x => x.1 == 1)) = some (1, 5, 1) := by decide +kernel

/-- FW_STAGE of the last byte of the area; FW_ACTIVATE of an area that holds no image. -/
theorem test_update_messages : let b := leBytes 4 (imageMax - 1) ++ zeros 4 ++ zeros 1
    8 ≤ b.length ∧ b.length ≤ 4080 ∧ nb b 0 4 + (b.length - 8) ≤ imageMax ∧ nb b 4 4 = 0 ∧ ready.reg K.bootStatus = 1 ∧
      ready.verifyImage [1, 2] (readRun ready.trust.staging 0 512) ≠ 0 ∧
      (ready.modTrust fun t => { t with updateReq := some msg }).trust.updateReq = some msg := by decide +kernel

/-- A nonce, a token that does not check, a lock; a report under way; debug unlocked with no halt of DEBUG_BREAK. -/
theorem test_trust_core : writes ready 0x2A20 1 9 32 7 = true ∧ (ready.wake (.core 3)).reg K.attestStatus ≠ 1 ∧
    writes ready 0x5000 2 9 256 0 = true ∧ (ready.wake (.core 3)).tokenOk (leBytes 256 0) = false ∧ writes ready 0x5000 4 1 1 1 = true ∧
    ((withRegs [(K.attestStatus, 1)] ready).modTrust fun t => { t with nonce := some 7 }).trust.nonce = some 7 ∧ unlocked.trust.unlocked = true ∧
    (allQueues.all fun q => match unlocked.queue q with | some Q => Q.halt.isNone | none => true) = true := by decide +kernel

/-! ### Records, frames and steps -/

/-- A halt record with every field at its greatest value, and an integer sum that wraps. -/
theorem test_halt_record : let r := haltRecord (2 ^ 64 - 1) 255 15 true true 255 255 63 255 65535 (2 ^ 64 - 1) (2 ^ 32 - 1) (2 ^ 32 - 1)
    r.length = 32 ∧ nb r 12 1 = 63 ∧ nb r 14 2 = 65535 := by decide +kernel

theorem test_integer_sum : (reduceElem fmI32 0 0 0 [2 ^ 31 - 1, 1]).1 % 2 ^ 32 = 2 ^ 31 ∧ (∀ c ∈ [2 ^ 31 - 1, 1], c < 2 ^ fmtBits fmI32) := by
  decide +kernel

theorem test_event_payload : (zeros 48).length ≤ 48 ∧ (zeros 32).length = 32 := by decide +kernel

/-- A write to the last bytes of page 15, and its page. -/
theorem test_frame_write : mapped.ownNode ≤ 16383 ∧ [(0 : Byte), 0].length ≤ 65536 - 0xFFFFE % 65536 ∧
    (mapped.leafOf 0 0xFFFFE).map (fun l => (l.write, l.allocated, l.migrating, l.src == none, l.tier)) = some (true, true, false, true, 0) ∧
    mapped.stackHeld (16 * 65536 + 65534) = false ∧
    mapped.inStash 0 0xFFFFE = false ∧ mapped.liveIn (16 * 65536 + 65534) 2 = none ∧ mapped.poisonPart (16 * 65536 + 65534) 2 = none := by
  decide +kernel

theorem test_local_write : ((ready.ctx 0).locOf 0x100).isSome = true ∧
    (match (ready.ctx 0).locOf 0x100 with | some (.store _ _) => true | _ => false) = true ∧
    (match (ready.ctx 0).locOf 0x104 with | some (.tile _) => true | _ => false) = true := by decide +kernel

/-- A command that completes while its clause goes on. -/
theorem test_completion : let u := busy ready ary [0, 0]
    (u.queue ary).map (fun Q => (Q.cmds, Q.tagged, Q.unread)) = some ([fetched 0 0, fetched 1 0], none, []) ∧
      u.clause 1 = some (clauseOn ary 2) ∧ (fetched 1 0).seq = (fetched 0 0).seq ∧ ary ∈ allQueues := by decide +kernel

theorem test_settled : dark.settled := by
  unfold State.settled State.alertFollows State.healthFollows
  decide +kernel

/-! ### What WellFormed refuses -/

/-- A frame with one field out of range, or a payload that is no whole unit. -/
def badFrames : List Frame :=
  let f := frame 0 0 0 0 []
  [{ f with port := 16 }, { f with src := 2 ^ 16 }, { f with acting := 2 ^ 16 }, { f with dst := 2 ^ 16 }, { f with flags := 256 },
    { f with key := 2 ^ 32 }, { f with tag := 2 ^ 32 }, { f with addr := 2 ^ 64 }, { f with arg := 2 ^ 32 }, { f with status := 2 ^ 32 },
    { f with payload := zeros 528 }, { f with payload := zeros 15 }]

theorem test_wf_frames : (badFrames.all fun f => !(Instr.read f).wf && !(Instr.keyedAdd ⟨.frame f, .clean⟩).wf) = true ∧
    (Instr.read (frame 0 0 0 0 (zeros 512))).wf = true := by decide +kernel

/-- A queue, fault, header, request or unit with a number out of range. -/
theorem test_wf_units : ([Instr.nop ⟨.array, 8⟩, .nop ⟨.embed, 16⟩, .nop ⟨.update, 12⟩, .nop ⟨.fabric, 16⟩, .nop ⟨.sched, 0⟩,
    .pass 8 none, .load 0 (some (faultOfReason 256 0)), .load 0 (some (faultOfReason 0x30 (2 ^ 32))),
    .load 0 (some { reason := 0, detail := 2 ^ 64, progress := 0 }), .accClear 8, .moveSectorArrival 8 0 .clean, .lookupPool 16 none,
    .rowFetchArrival 16 0 .clean, .partialAck 16 0, .overflowPageGrant 16 0, .overflowPageGrant 0 64, .commit 12 ⟨.clean, none⟩, .releaseTimeout 12,
    .agree 16, .commitReplay (2 ^ 64), .keyedAdd ⟨.ee 16 0, .clean⟩, .unitIdleEntry (.array 8), .unitIdleEntry (.ee 16),
    .unitIdleEntry (.slice 12), .unitIdleEntry (.core 4), .watchdogExpiry 4, .patrolScrub (2 ^ 48) .clean,
    .onDieScrub 256 0 ⟨0, 0⟩ .clean, .onDieScrub 0 0 ⟨256, 0⟩ .clean, .hbmOvertemp 12].all fun i => !i.wf) = true := by decide +kernel

theorem test_wf_jobs : ([Instr.quotaWaitExpiry ary 64, .codeSwitch 64, .codeRegionRetired 64 0, .codeRegionRetired 0 16,
    .demotionSweep 64 0, .agreeTimeout 64 0 0, .agreeTimeout 0 65536 0, .create 64 .vc1, .restore 64 [],
    .map 0 .vc1 { request 0 0 0 with size := 256 }, .map 0 .vc1 { request 0 0 0 with tier := 256 },
    .map 0 .vc1 { request 0 0 0 with va := 2 ^ 64 }, .map 64 .vc1 (request 0 0 0), .notifyIntervalEnd (.event 64)].all
      fun i => !i.wf) = true := by decide +kernel

theorem test_wf_links : ([Instr.fabricLinkAck 16 0, .fabricLinkAck 0 65536, .rekeyDue 16, .portTrainingDone 16 0, .portTrainingDone 0 16,
    .laneLossOfLock 0 4, .laneFecWindow 16 0 0 0, .planeReportExpiry 16 0, .corruptFabricFrame 16 .crc, .requestTimeout (2 ^ 32),
    .retryWindowExpiry 65536, .memRead { header 0 0 0 0 with tag := 65536 }, .memWrite (header 0 0 1 0) ⟨[], .clean⟩,
    .doorbellEvent 256 0 0, .doorbellEvent 0 (2 ^ 32) 0, .heartbeat (2 ^ 32), .sessionOpen { msg with seq := 2 ^ 32 } [],
    .sidebandFrame { sideband 0 1 with kind := 256 }].all fun i => !i.wf) = true := by decide +kernel

theorem test_wf_values : ([Instr.takeOver { path := .vc1, ty := 256, bytes := [] }, .portService 16 (odv 1 0), .counterSelect 256 0 (odv 1 0),
    .counterSelect 0 8 (odv 1 0), .dictWrite 65536 0 (odv 1 0), .dictWrite 0 256 (odv 1 0), .standbyStart 0 256, .railFault 0, .railGroupGood 7,
    .pllUnlock 3, .bootComplete [2 ^ 32], .fuseCommit 4, .serviceTest .vc1 (serviceOf 256 0), .serviceTest .vc1 (serviceOf 0 65536)].all
      fun i => !i.wf) = true := by decide +kernel

end Sys2Proof.Tests
end

section
/-! SUPPORT and PROOFS. Little-endian fields read back from a list of bytes (R12), and the layout of the records. -/

namespace Sys2Proof.Machine

/-! ### Fields of a byte list -/

@[simp] theorem length_leBytes (n v : Nat) : (leBytes n v).length = n := by
  induction n generalizing v with
  | zero => rfl
  | succ n ih => simp [leBytes, ih]

theorem leNat_leBytes (n v : Nat) : leNat (leBytes n v) = v % 256 ^ n := by
  induction n generalizing v with
  | zero => simp [leBytes, leNat, Nat.mod_one]
  | succ n ih => rw [leBytes, leNat, ih, BitVec.toNat_ofNat, Nat.pow_succ' (m := 256), Nat.mod_mul]

/-- A field that fits its bytes is read back from the front of the list. -/
theorem nb_leBytes_front {n v : Nat} (h : v < 256 ^ n) (l : List Byte) : nb (leBytes n v ++ l) 0 n = v := by
  simp [nb, leNat_leBytes, Nat.mod_eq_of_lt h]

/-- A read behind the first field does not depend on that field. -/
theorem nb_leBytes_behind {m i : Nat} (h : m ≤ i) (v : Nat) (l : List Byte) (n : Nat) :
    nb (leBytes m v ++ l) i n = nb l (i - m) n := by
  simp [nb, List.drop_append, List.drop_eq_nil_of_le, h]

/-! ### The halt record (R100) -/

/-- Byte 9 of the halt record: the engine class, and the flags resumable and begun (R100). -/
def haltFlags (cls : Nat) (resumable begun : Bool) : Nat :=
  cls + (if resumable then 16 else 0) + (if begun then 32 else 0)

theorem haltFlags_fields {cls : Nat} (resumable begun : Bool) (h : cls < 16) :
    let f := haltFlags cls resumable begun
    f < 256 ∧ bits f 0 4 = cls ∧ bit f 4 = resumable ∧ bit f 5 = begun ∧ bits f 6 2 = 0 := by
  cases resumable <;> cases begun <;>
    simp only [haltFlags, bits, bit, Nat.testBit_eq_decide_div_mod_eq, decide_eq_true_eq, decide_eq_false_iff_not, if_true,
      Bool.false_eq_true, if_false] <;>
    omega

/-- A job number leaves the two high bits of its byte zero. -/
theorem bits_of_lt_64 {job : Nat} (h : job < 64) : bits job 0 6 = job ∧ bits job 6 2 = 0 := by
  simp only [bits]
  omega

theorem length_haltRecord (addr reason cls : Nat) (resumable begun : Bool)
    (phys logical job opcode idx detail seq progress : Nat) :
    (haltRecord addr reason cls resumable begun phys logical job opcode idx detail seq progress).length = 32 := by
  simp [haltRecord]

/-- The halt record as a chain of fields, each in front of the rest, so that one field after the other can be read or passed. -/
theorem haltRecord_eq_chain (addr reason cls : Nat) (resumable begun : Bool)
    (phys logical job opcode idx detail seq progress : Nat) :
    haltRecord addr reason cls resumable begun phys logical job opcode idx detail seq progress =
      leBytes 8 addr ++ (leBytes 1 reason ++ (leBytes 1 (haltFlags cls resumable begun) ++ (leBytes 1 phys ++ (leBytes 1 logical ++
        (leBytes 1 job ++ (leBytes 1 opcode ++ (leBytes 2 idx ++ (leBytes 8 detail ++ (leBytes 4 seq ++
          (leBytes 4 progress ++ [])))))))))) := by
  simp only [haltRecord, haltFlags, List.append_assoc, List.append_nil]

/-- Settles O47: a read passes the fields in front of its own and returns its own; the flags and the job byte are then taken apart. -/
theorem haltRecordsAreLaidOut : Obligations.HaltRecordsAreLaidOut := by
  intro addr reason cls phys logical job opcode idx detail seq progress resumable begun
    haddr hreason hcls hphys hlogical hjob hopcode hidx hdetail hseq hprogress r
  obtain ⟨hflags, hclass, hresumable, hbegun, hreserved⟩ := haltFlags_fields resumable begun hcls
  obtain ⟨hjobBits, hjobReserved⟩ := bits_of_lt_64 hjob
  refine ⟨length_haltRecord .., ?_⟩
  simp (disch := omega) only [r, haltRecord_eq_chain, nb_leBytes_behind, nb_leBytes_front, Nat.reduceSub, hclass, hresumable, hbegun,
    hreserved, hjobBits, hjobReserved, and_self]

end Sys2Proof.Machine
end

section
/-! SUPPORT and PROOFS. The return of the module to NORMAL by clear_degraded (R424). -/

namespace Sys2Proof.Machine

/-! ### What session events and journal records leave of the dictionary -/

@[simp] theorem State.ryDrain_reg (s : State) (fuel i : Nat) : (s.ryDrain fuel).reg i = s.reg i := by
  induction fuel generalizing s with
  | zero => rfl
  | succ fuel ih =>
    unfold State.ryDrain
    split
    · rfl
    · split
      · rfl
      · rw [ih, State.modSess_reg]

@[simp] theorem State.rySend_reg (s : State) (vc op status job tag : Nat) (payload : List Byte) (i : Nat) :
    (s.rySend vc op status job tag payload).reg i = s.reg i := by
  simp [State.rySend]

@[simp] theorem State.notifySession_reg (s : State) (i : Nat) : s.notifySession.reg i = s.reg i := by
  unfold State.notifySession
  split <;> simp

@[simp] theorem State.putSession_reg (s : State) (code job : Nat) (payload : List Byte) (i : Nat) :
    (s.putSession code job payload).reg i = s.reg i := by
  simp [State.putSession]

@[simp] theorem State.owedSession_reg (s : State) (i : Nat) : s.owedSession.reg i = s.reg i := by
  unfold State.owedSession
  split <;> simp

/-- A module event leaves every entry but the count of lost events (R369). -/
theorem State.postSession_reg (s : State) (code job : Nat) (payload : List Byte) {i : Nat} (h : i ≠ K.sessionEventsLost) :
    (s.postSession code job payload).reg i = s.reg i := by
  unfold State.postSession
  dsimp only
  split
  · simp
  · simp [State.reg_bump_ne _ _ _ _ h.symm]

/-- A journal record leaves every entry but the sequence number that it takes and the journal's head (R426). -/
theorem State.journalOwn_reg (s : State) (kind cls unit reason action detail job : Nat) {i : Nat} (hseq : i ≠ K.nextSeq)
    (hhead : i ≠ K.journalHead) : (s.journalOwn kind cls unit reason action detail job).reg i = s.reg i :=
  (State.reg_setReg_ne _ _ _ _ hhead.symm).trans (State.reg_setReg_ne _ _ _ _ hseq.symm)

/-! ### What waking a control core leaves -/

/-- Waking a control core leaves every entry but its own power state and the lock of the PLLs. -/
theorem State.wake_core_reg (s : State) (c : Nat) {i : Nat} (hlock : i ≠ K.pllLocked) (hstate : i ≠ K.coreStates c) :
    (s.wake (.core c)).reg i = s.reg i := by
  unfold State.wake
  split
  · rfl
  · simp only [powerCounter, State.setPower, powerPlace]
    rw [State.reg_setReg_ne _ _ _ _ hstate.symm]
    split
    · exact State.reg_setReg_ne { s with pow := { s.pow with pllStopped := false } } _ _ 7 hlock.symm
    · rfl

/-- The entries of faults, service and jobs, among others, stand behind the power states of the cores. -/
theorem State.wake_core3_reg (s : State) {i : Nat} (h : 0x220000 ≤ i) : (s.wake (.core 3)).reg i = s.reg i :=
  s.wake_core_reg 3 (by simp only [K.pllLocked]; omega) (by simp only [K.coreStates]; omega)

@[simp] theorem State.wake_svc (s : State) (u : PowerUnit) : (s.wake u).svc = s.svc :=
  State.wake_keeps (·.svc) (fun _ _ _ => rfl) (fun _ _ => rfl) s u

@[simp] theorem State.wake_part (s : State) (u : PowerUnit) : (s.wake u).part = s.part :=
  State.wake_keeps (·.part) (fun _ _ _ => rfl) (fun _ _ => rfl) s u

/-! ### Whether the module may return to NORMAL (R424) -/

/-- The condition of R424: the handler queue is empty, and a phrase, an EE and a slice are in service. -/
def State.MayClear (s : State) : Prop :=
  s.svc.queue = [] ∧ (∃ n < 8, s.phraseUp n = true) ∧ (∃ k < 16, s.eeUp k = true) ∧ ∃ k < 12, s.sliceUp k = true

theorem countIf_eq_zero_iff (n : Nat) (f : Nat → Bool) : countIf n f = 0 ↔ ¬ ∃ k < n, f k = true := by
  simp [countIf, List.countP_eq_zero]

@[simp] theorem State.wake_core3_phraseUp (s : State) (n : Nat) : (s.wake (.core 3)).phraseUp n = s.phraseUp n := by
  rw [State.phraseUp, State.phrasePresent, State.wake_part, s.wake_core3_reg (Nat.le_add_right_of_le (by decide))]
  rfl

@[simp] theorem State.wake_core3_eeUp (s : State) (k : Nat) : (s.wake (.core 3)).eeUp k = s.eeUp k := by
  rw [State.eeUp, State.eePresent, State.wake_part, s.wake_core3_reg (Nat.le_add_right_of_le (by decide))]
  rfl

@[simp] theorem State.wake_core3_sliceUp (s : State) (k : Nat) : (s.wake (.core 3)).sliceUp k = s.sliceUp k := by
  rw [State.sliceUp, s.wake_core3_reg (Nat.le_add_right_of_le (by decide))]
  rfl

/-- The units in service and the handler queue do not depend on the power state of core 3. -/
theorem State.mayClear_wake_core3 (s : State) : (s.wake (.core 3)).MayClear ↔ s.MayClear := by
  simp [State.MayClear]

/-- The refusal of clear_degraded tests the condition of R424 by counts. -/
theorem State.not_mayClear_iff (s : State) :
    ¬ s.MayClear ↔ s.svc.queue ≠ [] ∨ countIf 8 s.phraseUp = 0 ∨ countIf 16 s.eeUp = 0 ∨ countIf 12 s.sliceUp = 0 := by
  simp only [State.MayClear, countIf_eq_zero_iff, Classical.not_and_iff_not_or_not, ne_eq]

theorem State.clearDegraded_eq_none (s : State) (h : ¬ s.MayClear) : s.clearDegraded = none :=
  if_pos (s.not_mayClear_iff.mp h)

/-- The entries that clear_degraded may change: the module's state, the count of lost events, and the journal's numbers. -/
def ClearedEntry (i : Nat) : Prop := i = K.moduleState ∨ i = K.sessionEventsLost ∨ i = K.nextSeq ∨ i = K.journalHead

/-- A job's state is neither one of these nor a derived entry. -/
theorem jobState_not_written (j : Nat) : ¬ ClearedEntry (K.jobState j) ∧ ¬ Derived (K.jobState j) := by
  simp only [ClearedEntry, Derived, K.jobState, K.moduleState, K.sessionEventsLost, K.nextSeq, K.journalHead, K.alertStatus]
  omega

/-- Where the condition of R424 holds, a module that is not STOPPED ends NORMAL. -/
theorem State.clearDegraded_eq_some (s : State) (h : s.MayClear) (hm : s.reg K.moduleState ≤ 1) :
    ∃ t, s.clearDegraded = some t ∧ t.reg K.moduleState = 0 ∧ ∀ i, ¬ ClearedEntry i → t.reg i = s.reg i := by
  rw [State.clearDegraded, if_neg (mt s.not_mayClear_iff.mpr (not_not_intro h))]
  split
  · exact ⟨s, rfl, by omega, fun _ _ => rfl⟩
  · refine ⟨_, rfl, ?_, fun i hi => ?_⟩
    · rw [State.journalOwn_reg _ _ _ _ _ _ _ _ (by decide) (by decide), State.postSession_reg _ _ _ _ (by decide), State.reg_setReg]
    · simp only [ClearedEntry, not_or] at hi
      obtain ⟨hmodule, hlost, hseq, hhead⟩ := hi
      rw [State.journalOwn_reg _ _ _ _ _ _ _ _ hseq hhead, State.postSession_reg _ _ _ _ hlost, State.reg_setReg_ne _ _ _ _ (Ne.symm hmodule)]

/-! ### The command -/

/-- A write of 1 that passes the checks of R475 does the work of clear_degraded, or is refused where that is. -/
theorem exec_clearDegraded (s : State) (v : OdVal) (hserved : s.dictServed v.path = true)
    (hok : (s.wake (.core 3)).writeChecks v.path 0x2900 2 v.ty v.bytes = .ok) (hone : leNat v.bytes = 1) :
    exec (.clearDegraded v) s =
      .next (settle s ((s.wake (.core 3)).clearDegraded.getD ((s.wake (.core 3)).refuseItem .refused 0x2900 2))) := by
  have hentry : (s.wake (.core 3)).writeEntry 0x2900 2 1 v.bytes = (s.wake (.core 3)).clearDegraded := rfl
  have hrow : exec (.clearDegraded v) s = .next (settle s (s.odRow 0x2900 2 v)) := rfl
  rw [hrow, State.odRow, if_pos hserved, State.odWrite, hok, hone]
  simp only [hentry]
  cases (s.wake (.core 3)).clearDegraded <;> rfl

/-- Settles O36: core 3's wake leaves the condition of R424 as it was; where it holds, the work sets the module's state, and neither the
event, the journal record nor the end of the command writes that entry again or a job's state; where it fails, the item is refused. -/
theorem clearDegradedReturnsToNormal : Obligations.ClearDegradedReturnsToNormal := by
  intro s v hserved u hok hone hmodule
  have hrun := exec_clearDegraded s v hserved hok hone
  refine ⟨fun hready => ?_, fun hready => ?_⟩
  · have hu : u.reg K.moduleState = s.reg K.moduleState := s.wake_core3_reg (by decide)
    obtain ⟨t, ht, hnormal, hframe⟩ := u.clearDegraded_eq_some (s.mayClear_wake_core3.mpr hready) (hu ▸ hmodule)
    refine ⟨settle s t, by rw [hrun, ht, Option.getD_some], ?_, fun j _ => ?_⟩
    · rw [settle_reg _ _ _ (by simp only [Derived, K.moduleState, K.alertStatus]; omega), hnormal]
    · obtain ⟨hcleared, hderived⟩ := jobState_not_written j
      rw [settle_reg _ _ _ hderived, hframe _ hcleared, s.wake_core3_reg (Nat.le_add_right_of_le (by decide))]
  · rw [hrun, u.clearDegraded_eq_none (mt s.mayClear_wake_core3.mp hready), Option.getD_none]

end Sys2Proof.Machine
end

section
/-! SUPPORT and PROOFS. The live counts (R461): the command that clears one, and the wrap of a counted event. -/

namespace Sys2Proof.Machine

/-! ### A write that passes the checks of R475 -/

/-- An item that core 3 serves and whose value passes the checks does the entry's work, or is refused where the entry's own rules refuse it. -/
theorem State.odRow_of_checks_ok {s : State} {idx sub : Nat} {v : OdVal} (hserved : s.dictServed v.path = true)
    (hok : (s.wake (.core 3)).writeChecks v.path idx sub v.ty v.bytes = .ok) :
    s.odRow idx sub v = ((s.wake (.core 3)).writeEntry idx sub (leNat v.bytes) v.bytes).getD
      (((s.wake (.core 3)).refuseItem .refused idx sub).afterRefusal idx sub) := by
  rw [State.odRow, if_pos hserved, State.odWrite, hok]
  dsimp only
  cases (s.wake (.core 3)).writeEntry idx sub (leNat v.bytes) v.bytes <;> rfl

/-! ### The entries of the live counts -/

/-- Subindices 2 to 9 of a counted unit's index are its live counts. -/
theorem State.writeEntry_liveCount (s : State) {u c : Nat} (hu : u < 0x53) (hc : c < 8) (n : Nat) (b : List Byte) :
    s.writeEntry (0x2880 + u) (0x02 + c) n b = s.writeCount u c n := by
  have harea : (0x2880 + u) / 256 = 0x28 := by omega
  have hcount : s.writeCounters (0x2880 + u) (0x02 + c) n = s.writeCount u c n := by
    unfold State.writeCounters
    rw [if_pos (by omega), if_pos (by omega), Nat.add_sub_cancel_left, Nat.add_sub_cancel_left]
  simp only [State.writeEntry, harea, hcount]

/-- No live count is the debug token, whose refusal alone leaves a mark (R455). -/
theorem State.afterRefusal_liveCount (s : State) {u c : Nat} (hu : u < 0x53) (hc : c < 8) :
    s.afterRefusal (0x2880 + u) (0x02 + c) = s :=
  if_neg (by simp only [K.debugToken]; omega)

/-- A write to a live count that passes the checks of R475 does the work of writeCount, or is refused where that refuses it. -/
theorem exec_countClear {s : State} {u c : Nat} {v : OdVal} (hserved : s.dictServed v.path = true) (hu : u < 0x53) (hc : c < 8)
    (hok : (s.wake (.core 3)).writeChecks v.path (0x2880 + u) (0x02 + c) v.ty v.bytes = .ok) :
    exec (.countClear u c v) s = .next (settle s (((s.wake (.core 3)).writeCount u c (leNat v.bytes)).getD
      ((s.wake (.core 3)).refuseItem .refused (0x2880 + u) (0x02 + c)))) := by
  have hrow : exec (.countClear u c v) s = .next (settle s (s.odRow (0x2880 + u) (0x02 + c) v)) := rfl
  rw [hrow, State.odRow_of_checks_ok hserved hok, State.writeEntry_liveCount _ hu hc, State.afterRefusal_liveCount _ hu hc]

/-! ### The count and its overflow bit -/

/-- The overflow bit after `n` events: it was set, or bits [47:0] wrapped. -/
def overflowAfter (v n : Nat) : Bool := bit v 48 || decide (2 ^ 48 ≤ bits v 0 48 + n)

/-- A count after `n` events: the overflow bit above the sum modulo 2^48. -/
theorem counterAdd_eq (v n : Nat) :
    counterAdd v n = 2 ^ 48 * (overflowAfter v n).toNat + (bits v 0 48 + n) % 2 ^ 48 := by
  have hflag : (2 ^ 48 ≤ bits v 0 48 + n ∨ bit v 48 = true) ↔ overflowAfter v n = true := by
    rw [overflowAfter, Bool.or_eq_true, decide_eq_true_eq, or_comm]
  rw [counterAdd, Nat.add_comm]
  simp only [ge_iff_le, hflag]
  cases overflowAfter v n <;> rfl

/-- Bits [47:0] add up and wrap. -/
theorem bits_counterAdd (v n : Nat) : bits (counterAdd v n) 0 48 = (bits v 0 48 + n) % 2 ^ 48 := by
  rw [counterAdd_eq, bits, Nat.pow_zero, Nat.div_one, Nat.mul_add_mod, Nat.mod_mod]

/-- Bit [48] is the overflow bit. -/
theorem bit_counterAdd (v n : Nat) : bit (counterAdd v n) 48 = overflowAfter v n := by
  have hsum : (bits v 0 48 + n) % 2 ^ 48 < 2 ^ 48 := Nat.mod_lt _ (Nat.two_pow_pos 48)
  rw [counterAdd_eq, bit, Nat.testBit_two_pow_mul_add _ hsum, if_neg (Nat.lt_irrefl 48), Nat.sub_self]
  cases overflowAfter v n <;> rfl

/-- Bits [63:49] stay zero. -/
theorem counterAdd_lt (v n : Nat) : counterAdd v n < 2 ^ 49 := by
  have hflag : (overflowAfter v n).toNat ≤ 1 := Bool.toNat_le _
  rw [counterAdd_eq]
  omega

/-- Settles O37: writeCount clears at zero and refuses every other value, which is then the outcome of the command; a counted event's
result is an overflow bit above 48 bits of sum, and each field is read off that form. -/
theorem countsWrapAndClear : Obligations.CountsWrapAndClear := by
  constructor
  · intro s u c v hserved hu hc w hok
    have hrun := exec_countClear hserved hu hc hok
    refine ⟨fun hzero => ?_, fun hnonzero => ?_⟩
    · rw [hrun, State.writeCount, if_pos hzero, Option.getD_some]
    · rw [hrun, State.writeCount, if_neg hnonzero, Option.getD_none]
  · exact fun v n _ _ => ⟨bits_counterAdd v n, bit_counterAdd v n, counterAdd_lt v n⟩

end Sys2Proof.Machine
end

section
/-! SUPPORT and PROOFS. What the end of every command settles (R34, R408), steps, runs, and the reset state. -/

namespace Sys2Proof.Machine

/-! ### What the derived entries follow from -/

/-- What is in service follows from the part and from entries that `settle` does not write. -/
theorem State.inService_congr {s t : State} (hpart : t.part = s.part) (hreg : ∀ i, ¬ Derived i → t.reg i = s.reg i) :
    t.inService = s.inService := by
  have high (i : Nat) (h : 0x200000 ≤ i) : t.reg i = s.reg i :=
    hreg i (by simp only [Derived, K.alertStatus]; omega)
  have hphrase (n : Nat) : t.phraseUp n = s.phraseUp n := by
    simp only [State.phraseUp, State.phrasePresent, hpart, high (K.phraseService n) (Nat.le_add_right_of_le (by decide))]
  have hee (n : Nat) : t.eeUp n = s.eeUp n := by
    simp only [State.eeUp, State.eePresent, hpart, high (K.eeService n) (Nat.le_add_right_of_le (by decide))]
  have hslice (n : Nat) : t.sliceUp n = s.sliceUp n := by
    simp only [State.sliceUp, high (K.sliceService n) (Nat.le_add_right_of_le (by decide))]
  have hchannel : t.channelsUp = s.channelsUp := by
    simp only [State.channelsUp, State.channelUp, high (K.hbmChannelsInService _) (Nat.le_add_right_of_le (by decide))]
  simp only [State.inService, hphrase, hee, hslice, hchannel, high (K.stackService _) (Nat.le_add_right_of_le (by decide)),
    high (K.packageService _) (Nat.le_add_right_of_le (by decide)), high (K.portState _) (Nat.le_add_right_of_le (by decide))]

/-- The level bits of alert_status fit their four bits. -/
theorem State.alertLevels_lt (s : State) : s.alertLevels < 16 := by
  unfold State.alertLevels
  split <;> split <;> split <;> split <;> decide

/-- The conditions of the level bits follow from the power and governor records and from entries other than alert_status. -/
theorem State.alertLevels_congr {s t : State} (hpow : t.pow.inHold = s.pow.inHold) (hgov : t.gov = s.gov)
    (hreg : ∀ i, i ≠ K.alertStatus → t.reg i = s.reg i) : t.alertLevels = s.alertLevels := by
  have hlevel (k : Nat) : t.reg (K.hbmThrottleLevel k) = s.reg (K.hbmThrottleLevel k) :=
    hreg _ (by simp only [K.hbmThrottleLevel, K.alertStatus]; omega)
  simp only [State.alertLevels, hpow, hgov, hlevel, hreg K.moduleState (by decide)]

/-! ### What `settle` establishes -/

/-- Lists of one length that differ at no place are equal. -/
theorem eq_of_no_difference (l : List Nat) : ∀ m : List Nat, l.length = m.length →
    ((List.zip l m).countP fun p => p.1 != p.2) = 0 → l = m := by
  induction l with
  | nil => intro m hlen _; exact (List.length_eq_zero_iff.mp hlen.symm).symm
  | cons x xs ih =>
    intro m hlen hcount
    cases m with
    | nil => simp at hlen
    | cons y ys =>
      simp only [List.zip_cons_cons, List.countP_cons, Nat.add_eq_zero_iff, bne_iff_ne, ne_eq, ite_eq_right_iff, Nat.one_ne_zero,
        imp_false, Decidable.not_not] at hcount
      obtain ⟨htail, hhead⟩ := hcount
      rw [hhead, ih ys (by simpa using hlen) htail]

/-- Entries in a row depend on their places in the dictionary alone. -/
theorem State.regsFrom_congr {s t : State} (n : Nat) : ∀ k, (∀ i, k ≤ i → i < k + n → t.reg i = s.reg i) →
    t.regsFrom k n = s.regsFrom k n := by
  induction n with
  | zero => intros; rfl
  | succ n ih =>
    intro k h
    rw [State.regsFrom, State.regsFrom, h k (Nat.le_refl k) (by omega), ih (k + 1) fun i hlo hhi => h i (by omega) (by omega)]

/-- Once health has been refreshed, the in-service entries tell what is in service (R34). -/
theorem State.refreshHealth_follows (s : State) : s.refreshHealth.healthFollows := by
  have hsame : s.refreshHealth.inService = s.inService :=
    State.inService_congr (State.refreshHealth_keeps (·.part) (fun _ _ _ => rfl) s) fun i hi => s.refreshHealth_reg i hi
  unfold State.healthFollows
  rw [hsame]
  unfold State.refreshHealth
  dsimp only
  split
  · next hcount => exact eq_of_no_difference _ _ rfl hcount
  · refine (State.regsFrom_congr 7 _ fun i _ hi => State.reg_bump32_ne _ _ _ _ ?_).trans (State.regsFrom_setRegs s.inService s _)
    simp only [K.phrasesInService, K.healthChanges] at hi ⊢
    omega

/-- Refreshing the alert leaves what the in-service entries follow from. -/
theorem State.refreshAlert_healthFollows {s : State} (h : s.healthFollows) : s.refreshAlert.healthFollows := by
  have hentries : s.refreshAlert.regsFrom K.phrasesInService 7 = s.regsFrom K.phrasesInService 7 :=
    State.regsFrom_congr 7 _ fun i _ hi => s.refreshAlert_reg i (by simp only [K.phrasesInService, K.alertStatus] at *; omega)
  unfold State.healthFollows
  rw [hentries, h]
  exact (State.inService_congr (s := s) (t := s.refreshAlert) rfl fun i hi => s.refreshAlert_reg i fun e => hi (.inr e)).symm

/-- Once the alert has been refreshed, its output and its level bits follow their conditions (R408). -/
theorem State.refreshAlert_follows (s : State) : s.refreshAlert.alertFollows := by
  have hlevels : s.refreshAlert.alertLevels = s.alertLevels :=
    State.alertLevels_congr rfl rfl fun i hi => s.refreshAlert_reg i hi
  have hstatus : s.refreshAlert.reg K.alertStatus = s.reg K.alertStatus - s.reg K.alertStatus % 16 + s.alertLevels :=
    State.reg_setReg _ _ _
  have hlt := s.alertLevels_lt
  constructor
  · rw [hlevels, hstatus]
    omega
  · rw [hstatus]
    rfl

/-- Whether a state is settled does not depend on the waiting commands, the free value and the clock. -/
theorem State.settled_frame {s : State} (h : s.settled) (l : List Instr) (n k : Nat) :
    ({ s with pending := l, free := n, tick := k } : State).settled := h

/-- Every command ends in a state whose derived entries follow from it. -/
theorem settle_settled (s t : State) : (settle s t).settled := by
  unfold settle
  generalize t.retestHolds = u
  have h : u.refreshHealth.refreshAlert.settled :=
    ⟨u.refreshHealth.refreshAlert_follows, State.refreshAlert_healthFollows u.refreshHealth_follows⟩
  exact State.settled_frame h s.pending (s.free + 1) _

/-! ### Commands, steps and runs -/

/-- Settles O55: every command ends in `settle`, which keeps the waiting commands, advances the free value and derives the rest. -/
theorem everyCommandAnswers : Obligations.EveryCommandAnswers := by
  intro c s
  obtain ⟨t, ht⟩ := exec_settles c s
  exact ⟨settle s t, ht, settle_pending s t, settle_free s t, settle_settled s t⟩

/-- Settles O53: by the definition of a step on a queue that is not empty. -/
theorem stepsRunTheFrontCommand : Obligations.StepsRunTheFrontCommand := fun _ _ _ => rfl

/-- On an empty queue a step is idle. -/
theorem step_of_pending_nil {s : State} (h : s.pending = []) : step s = idle s := by
  simp only [step, h]

/-- With a command in front a step runs it on the rest. -/
theorem step_of_pending_cons {s : State} {c : Instr} {rest : List Instr} (h : s.pending = c :: rest) :
    step s = exec c { s with pending := rest } := by
  simp only [step, h]

/-- Settles O54: the step is then the idle tick. -/
theorem emptyQueuesCountATick : Obligations.EmptyQueuesCountATick := by
  intro s hempty
  rw [step_of_pending_nil hempty, idle]

/-- From a settled state a step answers a settled state: a command settles it, and the idle tick leaves all that the derived entries
follow from. -/
theorem step_answers_settled {s : State} (h : s.settled) : ∃ t, step s = .next t ∧ t.settled := by
  cases hqueue : s.pending with
  | nil =>
    refine ⟨_, step_of_pending_nil hqueue, ?_⟩
    split
    · exact State.settled_frame h s.pending s.free (s.tick + 1)
    · exact h
  | cons c rest =>
    obtain ⟨t, ht, -, -, hsettled⟩ := everyCommandAnswers c { s with pending := rest }
    exact ⟨t, (step_of_pending_cons hqueue).trans ht, hsettled⟩

/-- Settles O57: the state that a step answers is the settled one. -/
theorem stepsKeepTheStateSettled : Obligations.StepsKeepTheStateSettled := by
  intro s t hs hstep
  obtain ⟨u, hu, hsettled⟩ := step_answers_settled hs
  obtain rfl : u = t := Host.Outcome.next.inj (hu.symm.trans hstep)
  exact hsettled

/-- Settles O58, by induction on the number of steps: each answers, and answers a settled state. -/
theorem everyRunIsSafe : Obligations.EveryRunIsSafe := by
  intro n
  induction n with
  | zero => exact fun s hs => ⟨s, rfl, hs⟩
  | succ n ih =>
    intro s hs
    obtain ⟨t, hstep, ht⟩ := step_answers_settled hs
    obtain ⟨u, hrun, hu⟩ := ih t ht
    refine ⟨u, ?_, hu⟩
    simp only [Host.Core.run, Sys2Proof.core, hstep]
    exact hrun

/-! ### Reset -/

/-- After reset the alert and the in-service entries follow their conditions: each is a closed fact about the reset values. -/
theorem reset_settled : State.reset.settled := by
  unfold State.settled State.alertFollows State.healthFollows
  decide +kernel

/-- Every queue of the die is empty after reset. -/
theorem reset_queues : ∀ q ∈ allQueues, ∃ Q, State.reset.queue q = some Q ∧ Q.cmds = [] ∧ Q.infl = none ∧ Q.halt = none := by
  have h : allQueues.all (fun q => (State.reset.queue q).any fun Q => Q.cmds == [] && Q.infl == none && Q.halt == none) = true := by
    decide +kernel
  intro q hq
  obtain ⟨Q, hQ, hempty⟩ := (Option.any_eq_true _ _).mp (List.all_eq_true.mp h q hq)
  simp only [Bool.and_eq_true, beq_iff_eq] at hempty
  obtain ⟨⟨hcmds, hinfl⟩, hhalt⟩ := hempty
  exact ⟨Q, hQ, hcmds, hinfl, hhalt⟩

/-- Settles O56: the lists of the reset state are empty, and each entry reads its reset value. -/
theorem resetIsSettledAndFormed : Obligations.ResetIsSettledAndFormed :=
  ⟨reset_settled, by unfold State.formed; decide +kernel, rfl, rfl, rfl, rfl, rfl, by decide +kernel, reset_queues⟩

end Sys2Proof.Machine
end

section
/-! SUPPORT and PROOFS. Byte spaces: what a stored run reads back, and what it leaves. -/

namespace Sys2Proof.Machine

/-! ### Single bytes -/

/-- Cells of other addresses behind a list do not show in a byte. -/
theorem cellGet_append_left {α : Type} (d : α) (k : Nat) (l r : List (Nat × α)) (h : ∀ c ∈ r, c.1 ≠ k) :
    cellGet d k (l ++ r) = cellGet d k l := by
  induction l with
  | nil => exact cellGet_absent d k r h
  | cons c t ih => simp [cellGet, ih]

/-- Writing a run leaves every byte outside it. -/
theorem byteAt_writeRun_outside (m : Bytes) {a b : Nat} (bs : List Byte) (h : b < a ∨ a + bs.length ≤ b) :
    byteAt (writeRun m a bs) b = byteAt m b := by
  have hrun (c : Host.Cell) (hc : c ∈ runCells a bs) : c.1 ≠ b := by
    obtain ⟨hlo, hhi, -⟩ := mem_runCells hc
    omega
  unfold byteAt writeRun
  rcases h with hb | hb
  · rw [cellGet_append_left, cellGet_append_left _ _ _ _ hrun, cellGet_filter_keep]
    · exact fun c hc => decide_eq_true (hc ▸ hb)
    · intro c hc
      have := of_decide_eq_true (List.mem_filter.mp hc).2
      omega
  · rw [cellGet_append_absent, cellGet_filter_keep]
    · exact fun c hc => decide_eq_true (hc ▸ hb)
    · intro c hc
      rcases List.mem_append.mp hc with hc | hc
      · have := of_decide_eq_true (List.mem_filter.mp hc).2
        omega
      · exact hrun c hc

/-- Zeroing a run zeroes its bytes and leaves the others. -/
theorem byteAt_clearRun (m : Bytes) (a n b : Nat) : byteAt (clearRun m a n) b = if a ≤ b ∧ b < a + n then 0 else byteAt m b := by
  unfold byteAt clearRun
  split
  · next hin =>
    refine cellGet_absent _ _ _ fun c hc he => ?_
    have houtside := (List.mem_filter.mp hc).2
    simp only [Bool.or_eq_true, decide_eq_true_eq] at houtside
    omega
  · next hout =>
    refine cellGet_filter_keep _ _ _ _ fun c hc => ?_
    simp only [Bool.or_eq_true, decide_eq_true_eq]
    omega

/-! ### Runs -/

/-- A byte space without cells reads zeros from everywhere. -/
theorem readFrom_nil (n : Nat) : ∀ a, readFrom [] a n = zeros n := by
  induction n with
  | zero => intros; rfl
  | succ n ih => intro a; rw [readFrom, ih, zeros, zeros, List.replicate_succ]

/-- A byte in front of every cell reads 0. -/
theorem readFrom_before (l : Bytes) (a n : Nat) (h : ∀ c ∈ l, a < c.1) : readFrom l a (n + 1) = 0 :: readFrom l (a + 1) n := by
  cases l with
  | nil => rw [readFrom, readFrom_nil, readFrom_nil]
  | cons c t => rw [readFrom, if_neg (Nat.ne_of_gt (h c List.mem_cons_self))]

/-- The cells of a run, before cells behind it, read as the run's bytes. -/
theorem readFrom_runCells (bs : List Byte) : ∀ (a : Nat) (r : Bytes), (∀ c ∈ r, a + bs.length ≤ c.1) →
    readFrom (runCells a bs ++ r) a bs.length = bs := by
  induction bs with
  | nil => intros; simp [readFrom]
  | cons b bs ih =>
    intro a r hr
    have hbehind : ∀ c ∈ r, a + 1 + bs.length ≤ c.1 := fun c hc => by
      have := hr c hc
      simp only [List.length_cons] at this
      omega
    simp only [runCells, List.length_cons]
    split
    · next hzero =>
      rw [readFrom_before, ih (a + 1) r hbehind, hzero]
      intro c hc
      rcases List.mem_append.mp hc with hc | hc
      · exact (mem_runCells hc).1
      · have := hbehind c hc
        omega
    · simp [readFrom, ih (a + 1) r hbehind]

/-- A run that was written reads back. -/
theorem readRun_writeRun (m : Bytes) (a : Nat) (bs : List Byte) : readRun (writeRun m a bs) a bs.length = bs := by
  have hfront : (m.filter (·.1 < a)).filter (a ≤ ·.1) = [] := by
    rw [List.filter_filter, List.filter_eq_nil_iff]
    intro c _
    simp only [Bool.and_eq_true, decide_eq_true_eq]
    omega
  have hrun : (runCells a bs).filter (a ≤ ·.1) = runCells a bs :=
    List.filter_eq_self.mpr fun c hc => decide_eq_true (mem_runCells hc).1
  unfold readRun writeRun
  rw [List.filter_append, List.filter_append, hfront, hrun, List.nil_append]
  refine readFrom_runCells bs a _ fun c hc => ?_
  exact of_decide_eq_true (List.mem_filter.mp (List.mem_filter.mp hc).1).2

/-- Settles O49: the run's own cells are read back, and a byte outside them is looked up among the cells that stayed. -/
theorem storedBytesReadBack : Obligations.StoredBytesReadBack := fun m a bs =>
  ⟨readRun_writeRun m a bs, fun _ hb => byteAt_writeRun_outside m bs hb, fun n b => byteAt_clearRun m a n b⟩

end Sys2Proof.Machine
end

section
/-! SUPPORT and PROOFS. Counted events and their entries; a write to a page that rests in tier 0 (R273, R274, R294). -/

namespace Sys2Proof.Machine

/-! ### Counted events -/

/-- Counting leaves every entry but the unit's own live counts. -/
theorem State.count_reg_ne (s : State) (u ev n : Nat) (job : Option Nat) {i : Nat} (h : ∀ c < 8, K.ctrCount u c ≠ i) :
    (s.count u ev n job).reg i = s.reg i := by
  unfold State.count
  split
  · rfl
  · have round (l : List Nat) : (∀ c ∈ l, c < 8) → ∀ t : State, (l.foldl (fun s c =>
        let sel := s.reg (K.ctrSelect u c)
        if bits sel 0 8 == ev && bit sel 8 && (!bit sel 9 || job == some (bits sel 10 6)) && ev != 0 then
          s.setReg (K.ctrCount u c) (counterAdd (s.reg (K.ctrCount u c)) n)
        else s) t).reg i = t.reg i := by
      induction l with
      | nil => intros; rfl
      | cons c l ih =>
        intro hl t
        rw [List.foldl_cons, ih fun x hx => hl x (List.mem_cons_of_mem _ hx)]
        dsimp only
        split
        · exact State.reg_setReg_ne _ _ _ _ (h c (hl c List.mem_cons_self))
        · rfl
    exact round _ (fun c hc => List.mem_range.mp hc) s

/-- The entries of the performance counters, 0x2880 to 0x28D2. -/
def CounterEntry (i : Nat) : Prop := 0x288000 ≤ i ∧ i < 0x28D300

/-- Counting at one of the 0x53 counted units leaves every entry but those of the performance counters. -/
theorem State.count_reg (s : State) {u : Nat} (hu : u < 0x53) (ev n : Nat) (job : Option Nat) {i : Nat} (hi : ¬ CounterEntry i) :
    (s.count u ev n job).reg i = s.reg i := by
  refine s.count_reg_ne u ev n job fun c hc => ?_
  simp only [CounterEntry, K.ctrCount] at *
  omega

/-- Sectors are counted at a stack's or at tier 1's controller. -/
theorem State.countAt_reg (s : State) (a n : Nat) (write : Bool) (job : Option Nat) {i : Nat} (hi : ¬ CounterEntry i) :
    (s.countAt a n write job).reg i = s.reg i := by
  refine s.count_reg ?_ _ _ _ hi
  split
  · have : frameStack (a / 65536) < 12 := Nat.mod_lt _ (by decide)
    omega
  · decide

/-- Counting sectors changes the dictionary alone. -/
theorem State.countAt_keeps {α : Type} (f : State → α) (hr : ∀ s k v, f (State.setReg s k v) = f s) (s : State) (a n : Nat) (write : Bool)
    (job : Option Nat) : f (s.countAt a n write job) = f s :=
  State.count_keeps f hr _ _ _ _ _

/-- Touching the pages of a run changes their marks alone. -/
theorem State.touchRun_keeps {α : Type} (f : State → α) (hm : KeepsMarks f) (s : State) (j off n : Nat) : f (s.touchRun j off n) = f s :=
  foldl_keeps f _ (fun t o => State.touch_keeps f hm t j o) _ _

/-! ### The write -/

/-- The bytes of a run stored in tier 0: the sectors are counted, and poison that the run covers whole is gone (R305, R463). -/
def State.storeAt (s : State) (j a : Nat) (bs : List Byte) : State :=
  ((s.countAt a bs.length true (some j)).modMem fun m => { m with bytes := writeRun m.bytes a bs }).cleanse a bs.length

/-- What neither entries nor memory hold is as before a store. -/
theorem State.storeAt_keeps {α : Type} (f : State → α) (hr : ∀ s k v, f (State.setReg s k v) = f s)
    (hm : ∀ (s : State) (m : Mem), f { s with mem := m } = f s) (s : State) (j a : Nat) (bs : List Byte) : f (s.storeAt j a bs) = f s :=
  (hm _ _).trans ((hm _ _).trans (State.countAt_keeps f hr _ _ _ _ _))

/-- The bytes after a store are the run's, written. -/
theorem State.storeAt_bytes (s : State) (j a : Nat) (bs : List Byte) : (s.storeAt j a bs).mem.bytes = writeRun s.mem.bytes a bs := by
  have h : (s.countAt a bs.length true (some j)).mem = s.mem := State.countAt_keeps (·.mem) (fun _ _ _ => rfl) _ _ _ _ _
  show writeRun (s.countAt a bs.length true (some j)).mem.bytes a bs = _
  rw [h]

/-- A page of tier 0 that takes the write: it is mapped, writable, allocated and at rest, no stash page and no live code, its stack takes
accesses and no poisoned unit is covered in part (R274, R305, R308). -/
structure State.TakesWrite (s : State) (j off n : Nat) (l : Leaf) : Prop where
  leaf : s.leafOf j off = some l
  writable : l.write = true
  allocated : l.allocated = true
  resting : l.migrating = false
  tier0 : l.tier = 0
  plain : s.inStash j off = false
  unheld : s.stackHeld (l.frame * 65536 + (off - l.va)) = false
  notLive : s.liveIn (l.frame * 65536 + (off - l.va)) n = none
  clean : s.poisonPart (l.frame * 65536 + (off - l.va)) n = none

/-- A unit's write within such a page stores its bytes in the page's frame. -/
theorem State.writePage_of_takesWrite {s : State} {j off : Nat} {bs : List Byte} {l : Leaf} (h : s.TakesWrite j off bs.length l) :
    s.writePage j off bs .unit = .ok (s.storeAt j (l.frame * 65536 + (off - l.va)) bs) := by
  have hplace : leafPlace l off = .phys (l.frame * 65536 + (off - l.va)) := by
    simp [leafPlace, h.allocated, h.tier0]
  unfold State.writePage
  simp [h.leaf, h.writable, h.allocated, h.resting, h.tier0, h.plain, h.unheld, h.notLive, h.clean, hplace, Place.ident, State.storeAt]

/-- A run that ends in its page is written by one write of the page. -/
theorem State.writePages_one (s : State) (j : Nat) (via : Via) (fuel off : Nat) (bs : List Byte) (hne : bs ≠ [])
    (hfit : bs.length ≤ 65536 - off % 65536) : s.writePages j via (fuel + 2) off bs = s.writePage j off bs via := by
  rw [State.writePages, if_neg hne]
  simp only [Nat.min_eq_left hfit, List.take_length, List.drop_length]
  cases s.writePage j off bs via <;> simp [accBind, State.writePages]

/-- The module's own node is one of its IDs. -/
theorem State.isMe_ownNode (s : State) : s.isMe s.ownNode = true := by simp [State.isMe]

/-- A unit's write at an address of this module that ends in its page. -/
theorem State.writeVa_own {s : State} {j off : Nat} {bs : List Byte} (hnode : s.ownNode ≤ 16383) (hoff : off < 2 ^ 48) (hne : bs ≠ [])
    (hfit : bs.length ≤ 65536 - off % 65536) : s.writeVa j (2 ^ 48 * s.ownNode + off) bs =
      accBind (s.writePage j off bs .unit) fun t => .ok (t.touchRun j off bs.length) := by
  have hdiv : (2 ^ 48 * s.ownNode + off) / 2 ^ 48 = s.ownNode := by omega
  have hmod : (2 ^ 48 * s.ownNode + off) % 2 ^ 48 = off := by omega
  simp only [State.writeVa, State.writeAs, hdiv, hmod, if_neg (Nat.not_lt.mpr hnode), s.isMe_ownNode, if_true]
  rw [s.writePages_one _ _ _ _ _ hne hfit]

/-- Settles O50: the write is one store of the run's bytes in the frame, after which the page is touched; a store changes the bytes and
the counters of the stack, a touch the page's marks. -/
theorem writesReachTheirFrameAlone : Obligations.WritesReachTheirFrameAlone := by
  intro s j off bs l hnode hoff hne hfit hleaf hwrite halloc hmig _ htier hstash a hheld hlive hpoison
  have hpage := State.writePage_of_takesWrite ⟨hleaf, hwrite, halloc, hmig, htier, hstash, hheld, hlive, hpoison⟩
  have frame {α : Type} (f : State → α) (hr : ∀ s k v, f (State.setReg s k v) = f s) (hm : ∀ (s : State) (m : Mem), f { s with mem := m } = f s) :
      f ((s.storeAt j a bs).touchRun j off bs.length) = f s :=
    (State.touchRun_keeps f (fun s _ _ _ => hm s _) _ _ _ _).trans (State.storeAt_keeps f hr hm _ _ _ _)
  have hbytes : ((s.storeAt j a bs).touchRun j off bs.length).mem.bytes = writeRun s.mem.bytes a bs :=
    (State.touchRun_keeps (·.mem.bytes) (fun _ _ _ _ => rfl) _ _ _ _).trans (s.storeAt_bytes j a bs)
  refine ⟨_, (State.writeVa_own hnode hoff hne hfit).trans (by rw [hpage]; rfl), ?_, fun b hb => ?_, fun i hi => ?_,
    frame (·.phrases) (fun _ _ _ => rfl) (fun _ _ => rfl), frame (·.ees) (fun _ _ _ => rfl) (fun _ _ => rfl),
    frame (·.slices) (fun _ _ _ => rfl) (fun _ _ => rfl), frame (·.fab) (fun _ _ _ => rfl) (fun _ _ => rfl),
    frame (·.clauses) (fun _ _ _ => rfl) (fun _ _ => rfl), frame (·.jobs) (fun _ _ _ => rfl) (fun _ _ => rfl)⟩
  · rw [hbytes, readRun_writeRun]
  · rw [hbytes, byteAt_writeRun_outside _ _ hb]
  · exact (State.touchRun_keeps (·.reg i) (fun _ _ _ _ => rfl) _ _ _ _).trans (s.countAt_reg a bs.length true (some j) hi)

end Sys2Proof.Machine
end

section
/-! SUPPORT and PROOFS. Integer reductions of a collective (R44, R61, R334). -/

namespace Sys2Proof.Machine

/-! ### Two's complement (R44) -/

/-- An integer of `w` bits fits them. -/
theorem ofSigned_lt (w : Nat) (i : Int) : ofSigned w i < 2 ^ w := by
  have hpos : (0 : Int) < 2 ^ w := Int.pow_pos (by decide)
  have hlt := Int.emod_lt_of_pos i hpos
  have hnonneg := Int.emod_nonneg i (Int.ne_of_gt hpos)
  rw [ofSigned, Int.toNat_lt hnonneg, Int.natCast_pow]
  exact hlt

/-- A code and its value agree modulo 2^w. -/
theorem toSigned_emod (w c : Nat) : toSigned w c % 2 ^ w = (c : Int) % 2 ^ w := by
  unfold toSigned
  split
  · rfl
  · exact Int.sub_emod_right _ _

/-- A code that fits is read back from its value. -/
theorem ofSigned_toSigned {w c : Nat} (h : c < 2 ^ w) : ofSigned w (toSigned w c) = c := by
  unfold ofSigned
  rw [toSigned_emod]
  exact_mod_cast Nat.mod_eq_of_lt h

/-- A sum of values, put back into `w` bits, is the sum of the codes modulo 2^w. -/
theorem ofSigned_foldl_add (w : Nat) (cs : List Nat) :
    ofSigned w ((cs.map (toSigned w)).foldl (· + ·) 0) = cs.sum % 2 ^ w := by
  have hsum (l : List Nat) : ∀ a : Int, (l.map (toSigned w)).foldl (· + ·) a % 2 ^ w = (a + (l.sum : Nat)) % 2 ^ w := by
    induction l with
    | nil => simp
    | cons c l ih =>
      intro a
      rw [List.map_cons, List.foldl_cons, ih, List.sum_cons, Int.natCast_add, ← Int.add_assoc]
      exact (Int.emod_add_cancel_right _).mpr (by rw [Int.add_emod, toSigned_emod, ← Int.add_emod])
  unfold ofSigned
  rw [hsum cs 0, Int.zero_add]
  exact_mod_cast Int.toNat_natCast (cs.sum % 2 ^ w)

/-! ### The greatest and the least -/

/-- A fold that always chooses one of two values, and one that is related to both, ends in a value of the list to which all are
related. -/
theorem foldl_chooses {op : Int → Int → Int} {R : Int → Int → Prop} (hone : ∀ a b, op a b = a ∨ op a b = b)
    (hleft : ∀ a b, R a (op a b)) (hright : ∀ a b, R b (op a b)) (htrans : ∀ a b c, R a b → R b c → R a c) (hrefl : ∀ a, R a a)
    (l : List Int) : ∀ a, l.foldl op a ∈ a :: l ∧ ∀ x ∈ a :: l, R x (l.foldl op a) := by
  induction l with
  | nil => simp [hrefl]
  | cons b l ih =>
    intro a
    obtain ⟨hmem, hall⟩ := ih (op a b)
    have hhead := hall _ List.mem_cons_self
    rw [List.foldl_cons]
    refine ⟨?_, fun x hx => ?_⟩
    · rcases List.mem_cons.mp hmem with h | h
      · rcases hone a b with e | e <;> rw [h, e] <;> simp
      · simp [h]
    · rcases List.mem_cons.mp hx with rfl | hx
      · exact htrans _ _ _ (hleft _ b) hhead
      · rcases List.mem_cons.mp hx with rfl | hx
        · exact htrans _ _ _ (hright a _) hhead
        · exact hall x (List.mem_cons_of_mem _ hx)

/-- A choice among the values of codes that fit is the value of one of the codes, to which all are related. -/
theorem chosen_code {op : Int → Int → Int} {R : Int → Int → Prop} (hone : ∀ a b, op a b = a ∨ op a b = b)
    (hleft : ∀ a b, R a (op a b)) (hright : ∀ a b, R b (op a b)) (htrans : ∀ a b c, R a b → R b c → R a c) (hrefl : ∀ a, R a a)
    {w : Nat} {cs : List Nat} (hne : cs ≠ []) (hfit : ∀ c ∈ cs, c < 2 ^ w) :
    ∃ v ∈ cs, ofSigned w ((cs.map (toSigned w)).foldl op ((cs.map (toSigned w)).headD 0)) = v ∧
      ∀ c ∈ cs, R (toSigned w c) (toSigned w v) := by
  obtain ⟨d, ds, rfl⟩ := List.exists_cons_of_ne_nil hne
  obtain ⟨hmem, hall⟩ := foldl_chooses hone hleft hright htrans hrefl ((d :: ds).map (toSigned w)) (toSigned w d)
  have hin : ((d :: ds).map (toSigned w)).foldl op (toSigned w d) ∈ (d :: ds).map (toSigned w) := by
    rcases List.mem_cons.mp hmem with h | h
    · rw [h]; exact List.mem_cons_self
    · exact h
  obtain ⟨v, hv, he⟩ := List.mem_map.mp hin
  refine ⟨v, hv, ?_, fun c hc => ?_⟩
  · rw [List.map_cons, List.headD_cons, ← List.map_cons (f := toSigned w), ← he, ofSigned_toSigned (hfit v hv)]
  · rw [he]
    exact hall _ (List.mem_cons_of_mem _ (List.mem_map_of_mem hc))

/-- Settles O20: a sum of values agrees with the sum of codes modulo 2^w, and MAX and MIN choose a member's value. -/
theorem integerReductionsAreExact : Obligations.IntegerReductionsAreExact := by
  intro f seed i cs hf hne
  have hsum : reduceElem f 0 seed i cs = (ofSigned (fmtBits f) ((cs.map (toSigned (fmtBits f))).foldl (· + ·) 0), false, false) :=
    if_pos hf
  have hmax : reduceElem f 1 seed i cs = (ofSigned (fmtBits f) ((cs.map (toSigned (fmtBits f))).foldl max
      ((cs.map (toSigned (fmtBits f))).headD 0)), false, false) := if_pos hf
  have hmin : reduceElem f 2 seed i cs = (ofSigned (fmtBits f) ((cs.map (toSigned (fmtBits f))).foldl min
      ((cs.map (toSigned (fmtBits f))).headD 0)), false, false) := if_pos hf
  refine ⟨⟨_, hsum, ofSigned_lt _ _, ?_⟩, fun hfit => ⟨?_, ?_⟩⟩
  · rw [ofSigned_foldl_add, Nat.mod_mod]
  · obtain ⟨v, hv, he, hmost⟩ := chosen_code (op := max) (R := (· ≤ ·)) (fun _ _ => by omega) Int.le_max_left Int.le_max_right
      (fun _ _ _ => Int.le_trans) Int.le_refl hne hfit
    exact ⟨v, hv, by rw [hmax, he], hmost⟩
  · obtain ⟨v, hv, he, hleast⟩ := chosen_code (op := min) (R := (· ≥ ·)) (fun _ _ => by omega) Int.min_le_left Int.min_le_right
      (fun _ _ _ hab hbc => Int.le_trans hbc hab) Int.le_refl hne hfit
    exact ⟨v, hv, by rw [hmin, he], hleast⟩

end Sys2Proof.Machine
end

section
/-! SUPPORT and PROOFS. Frames that reach this module without a place here (R316, R320, R325), and what sending leaves of the
dictionary. -/

namespace Sys2Proof.Machine

/-! ### What sending leaves of the dictionary -/

/-- The entries that a frame's departure may change: the frames sent, the bytes that a port has sent, and the performance counters. -/
def SentEntry (i : Nat) : Prop := i = K.fabFramesTx ∨ (∃ p < 16, i = K.portBytesTx p) ∨ CounterEntry i

theorem State.startRekey_reg (s : State) (p i : Nat) : (s.startRekey p).reg i = s.reg i :=
  State.startRekey_keeps (·.reg i) (fun _ _ => rfl) s p

/-- A frame that enters a replay buffer is counted, and changes no other entry. -/
theorem State.portPut_reg (s : State) {p : Nat} (hp : p < 16) (P : Port) (t : TxFrame) (l : List TxFrame) {i : Nat} (hi : ¬ SentEntry i) :
    (s.portPut p P t l).reg i = s.reg i := by
  simp only [SentEntry, not_or, not_exists, not_and] at hi
  obtain ⟨hframes, hbytes, hcounter⟩ := hi
  unfold State.portPut
  dsimp only
  split <;>
    simp only [State.startRekey_reg, State.count_reg _ (by decide : 0x51 < 0x53) _ _ _ hcounter,
      State.reg_bump_ne _ _ _ _ (Ne.symm (hbytes p hp)), State.reg_bump_ne _ _ _ _ (Ne.symm hframes), State.modPort_reg]

theorem State.portSendOne_reg (s : State) {p : Nat} (hp : p < 16) (op : Nat) (x : Frame) {i : Nat} (hi : ¬ SentEntry i) :
    (s.portSendOne p op x).reg i = s.reg i := by
  unfold State.portSendOne
  split
  · rfl
  · dsimp only
    split
    · rfl
    · exact s.portPut_reg hp _ _ _ hi

/-- Sending a request or response on a port changes no entry beside its counts. -/
theorem State.portSend_reg (s : State) {p : Nat} (hp : p < 16) (op : Nat) (x : Frame) {i : Nat} (hi : ¬ SentEntry i) :
    (s.portSend p op x).reg i = s.reg i :=
  foldl_keeps (fun t : State => t.reg i) _ (fun t _ => State.portSendOne_reg t hp _ _ hi) _ _

/-- The port of a request is one of the 16. -/
theorem State.portFor_lt {s : State} {node addr p : Nat} (h : s.portFor node addr = some p) : p < 16 :=
  List.mem_range.mp (List.mem_filter.mp (List.mem_of_getElem? h)).1

theorem State.sendFrame_reg (s : State) (op node key tag flags addr arg status : Nat) (payload : List Byte) {i : Nat} (hi : ¬ SentEntry i) :
    (s.sendFrame op node key tag flags addr arg status payload).reg i = s.reg i := by
  unfold State.sendFrame
  split
  · next hport => exact s.portSend_reg (State.portFor_lt hport) _ _ hi
  · rfl

/-- A frame's departure leaves memory. -/
theorem State.sendFrame_mem (s : State) (op node key tag flags addr arg status : Nat) (payload : List Byte) :
    (s.sendFrame op node key tag flags addr arg status payload).mem = s.mem := by
  unfold State.sendFrame
  split
  · exact State.portSend_keeps (·.mem) (fun _ _ _ => rfl) (fun _ _ => rfl) _ _ _ _
  · rfl

/-! ### Refusals (R316, R325) -/

/-- A refusal other than STASH_QUOTA or TIER_FULL has no event. -/
theorem State.tierFull_of_ne (s : State) {reason : Nat} (detail : Nat) (h : reason ≠ 0x22) : s.tierFull reason detail = s :=
  if_neg fun e => h e.1

/-- A refused request leaves the bytes of memory. -/
theorem State.refuse_bytes (s : State) (op : Nat) (f : Frame) {reason : Nat} (detail : Nat) (h : reason ≠ 0x22) :
    (s.refuse op f reason detail).mem.bytes = s.mem.bytes := by
  unfold State.refuse
  rw [State.tierFull_of_ne _ _ h]
  dsimp only
  split
  · rw [State.reply, State.sendFrame_mem]; rfl
  · rfl

/-- A refused request changes no entry beside the counts of its answer. -/
theorem State.refuse_reg (s : State) (op : Nat) (f : Frame) {reason : Nat} (detail : Nat) (h : reason ≠ 0x22) {i : Nat} (hi : ¬ SentEntry i) :
    (s.refuse op f reason detail).reg i = s.reg i := by
  unfold State.refuse
  rw [State.tierFull_of_ne _ _ h]
  dsimp only
  split
  · exact State.sendFrame_reg _ _ _ _ _ _ _ _ _ _ hi
  · rfl

/-- An arrival counter is no count of frames sent. -/
theorem arrivalCounter_not_sent {j c : Nat} (hj : j < 64) (hc : c < 16) : ¬ SentEntry (K.arrivalCounter j c) := by
  simp only [SentEntry, CounterEntry, K.arrivalCounter, K.fabFramesTx, K.portBytesTx]
  rintro (h | ⟨p, hp, h⟩ | h) <;> omega

/-! ### Frames that are none of this module's (R316, R320) -/

/-- A frame for another node, or on a port that is not UP, does not arrive. -/
theorem State.arrive_stray {s : State} {f : Frame} (h : s.isMe f.dst = false ∨ s.portUp f.port = false) (op : Nat) :
    s.arrive op f = (none, s) := if_pos h

theorem State.inbound_stray {s : State} {f : Frame} (h : s.isMe f.dst = false ∨ s.portUp f.port = false) (op : Nat) :
    s.inbound op f = (none, s) := by
  rw [State.inbound, State.arrive_stray h]

theorem State.inboundAny_stray {s : State} {f : Frame} (h : s.isMe f.dst = false ∨ s.portUp f.port = false) (op : Nat) :
    s.inboundAny op f = (none, s) := by
  rw [State.inboundAny, State.arrive_stray h]

theorem State.response_stray {s : State} {f : Frame} (h : s.isMe f.dst = false ∨ s.portUp f.port = false) (op : Nat) :
    s.response op f = (none, s) := by
  rw [State.response, State.arrive_stray h]

/-- A request whose key is no resident job's ends in its refusal. -/
theorem State.inboundAny_unknown {s u : State} {f g : Frame} {op : Nat} (harrive : s.arrive op f = (some g, u)) (hkey : g.key ≠ 0)
    (hjob : u.jobByKey g.key = none) : s.inboundAny op f = (none, u.refuseIn op g) := by
  simp only [State.inboundAny, harrive, if_neg hkey, hjob]

/-- Settles O21: a stray frame does not arrive, so every meaning leaves the state; an unknown key's request is counted and refused, which
reaches neither memory nor an arrival counter. -/
theorem strayRequestsChangeNothing : Obligations.StrayRequestsChangeNothing := by
  refine ⟨fun s f a hstray => ?_, fun s u f g op harrive hkey hjob => ?_⟩
  · have outcome {t : State} (h : t = s) : finish s t = .next (settle s s) := by rw [h, finish]
    have hin := State.inbound_stray hstray
    have hany := State.inboundAny_stray hstray
    have hresponse := State.response_stray hstray
    have harrive := State.arrive_stray hstray
    simp only [List.forall_mem_cons, List.not_mem_nil, false_imp_iff, implies_true, and_true]
    refine ⟨outcome (t := readFrame f s) ?_, outcome (t := readResp f s) ?_, outcome (t := writeFrame f a s) ?_,
      outcome (t := writeAck f s) ?_, outcome (t := addFrame f a s) ?_, outcome (t := atomicFrame f a s) ?_,
      outcome (t := atomicResp f s) ?_, outcome (t := signalFrame f s) ?_, outcome (t := rowReq f s) ?_, outcome (t := rowResp f s) ?_,
      outcome (t := candidateFrame f s) ?_, outcome (t := collData f s) ?_, outcome (t := agreeContrib f s) ?_,
      outcome (t := agreeResult f s) ?_, outcome (t := releaseFrame f s) ?_, outcome (t := releaseFloor f s) ?_,
      outcome (t := gatherReq f s) ?_, outcome (t := gatherResp f s) ?_, outcome (t := aliasInstall f s) ?_,
      outcome (t := aliasAck f s) ?_, outcome (t := unreachable f s) ?_, outcome (t := agreeQuery f s) ?_⟩
    · rw [readFrame, hany]
    · rw [readResp, hresponse]
    · rw [writeFrame, hany]
    · rw [writeAck, hresponse]
    · rw [addFrame, hany]
    · rw [atomicFrame, hany]
    · rw [atomicResp, hresponse]
    · rw [signalFrame, hany]
    · rw [rowReq, hany]
    · rw [rowResp, hresponse]
    · rw [candidateFrame, hany]
    · rw [collData, hin]
    · rw [agreeContrib, hin]
    · rw [agreeResult, hin]
    · rw [releaseFrame, hin]
    · rw [releaseFloor, hin]
    · rw [gatherReq, hany]
    · rw [gatherResp, hresponse]
    · rw [aliasInstall, if_pos hstray]
    · rw [aliasAck, hresponse]
    · rw [unreachable, harrive]
    · rw [agreeQuery, hin]
  · rw [State.inboundAny_unknown harrive hkey hjob]
    refine ⟨rfl, ?_, fun j hj c hc => ?_⟩
    · rw [State.refuseIn, State.refuse_bytes _ _ _ _ (by decide), State.bump_mem]
    · have hcounter : K.fabRefusedInbound ≠ K.arrivalCounter j c := by
        simp only [K.fabRefusedInbound, K.arrivalCounter]
        omega
      rw [State.refuseIn, State.refuse_reg _ _ _ _ (by decide) (arrivalCounter_not_sent hj hc), State.reg_bump_ne _ _ _ _ hcounter]

end Sys2Proof.Machine
end

section
/-! SUPPORT and PROOFS. The outcomes of a command that may issue (R71, R97); the control commands (R76 to R78, R85 to R87, R106) and the
queues whose head may not issue. -/

namespace Sys2Proof.Machine

/-! ### The outcome of an issued command -/

section Outcomes

variable {s : State} {q : QueueId} {c : QCmd} {cl : Clause} {mine : Nat → Bool} {flt : Option HwFault}
  {body : State → QCmd → Clause → Option HwFault → Run}

/-- A row's command that may issue ends as its body does. -/
theorem finish_issue (h : s.mayIssue q c cl) (hm : mine c.word = true) {r : Run}
    (hr : body (s.started q c cl) c cl (faultOf q.cls flt) = r) : finish s (s.issue q mine flt body) = .next (settle s (s.settleRun q c cl r)) := by
  rw [State.issue_ready h mine hm, hr, finish]

/-- A command whose body completes leaves its queue. -/
theorem finish_issue_done (h : s.mayIssue q c cl) (hm : mine c.word = true) {t : State}
    (hr : body (s.started q c cl) c cl (faultOf q.cls flt) = .done t) : finish s (s.issue q mine flt body) = .next (retired s t q) :=
  finish_issue (r := .done t) h hm hr

/-- A command whose body goes on is in execution. -/
theorem finish_issue_busy (h : s.mayIssue q c cl) (hm : mine c.word = true) {t : State} {f : InFlight}
    (hr : body (s.started q c cl) c cl (faultOf q.cls flt) = .busy t f) : finish s (s.issue q mine flt body) = .next (entered s t q f) :=
  finish_issue (r := .busy t f) h hm hr

/-- A queue whose head may not issue is left as it is. -/
theorem finish_issue_blocked (h : s.headOf q = none) : finish s (s.issue q mine flt body) = .next (settle s s) := by
  rw [State.issue_blocked h, finish]

end Outcomes

/-- Issuing finds no word in error where there was none. -/
theorem State.started_soundWords {s : State} (h : s.soundWords) (q : QueueId) (c : QCmd) (cl : Clause) : (s.started q c cl).svc.badWords = [] := by
  rw [State.started_svc]
  exact h

/-- Checks that all pass let the body run. -/
theorem decoded_of_all_pass (s : State) {l : List (Bool × Nat × Nat)} (k : Run) (h : ∀ x ∈ l, x.1 = false) : decoded s l k = k :=
  decoded_pass s l k (firstFail_none l h)

/-- A resumed command that completes is not told apart. -/
@[simp] theorem Run.resumed_done (c : QCmd) (t : State) : Run.resumed c (.done t) = .done t := rfl
@[simp] theorem Run.resumed_busy (c : QCmd) (t : State) (f : InFlight) : Run.resumed c (.busy t f) = .busy t f := rfl

/-! ### The control commands -/

/-- The commands of the control family that every class has complete where their own checks pass (R76, R77, R85 to R87). -/
theorem commonCommandsComplete {s : State} {q : QueueId} {c : QCmd} {cl : Clause} (h : s.mayIssue q c cl) :
    (isOp 0x00 c.word = true → reservedSet c.word [(0, 8)] = false → exec (.nop q) s = .next (retired s (s.started q c cl) q)) ∧
    (isOp 0x01 c.word = true → c.idx = 0 → exec (.clauseOpen q) s = .next (retired s (s.started q c cl) q)) ∧
    (isOp 0x02 c.word = true → 0 < c.idx → c.idx ≤ cl.declCount → exec (.clauseDecl q) s = .next (retired s (s.started q c cl) q)) ∧
    (isOp 0x03 c.word = true → reservedSet c.word [(0, 8), (32, 1)] = false →
      (bit c.word 32 = true → ∀ e ∈ s.clauses, ¬ (clsOfPhrase e.cls = true ∧ e.unit = cl.unit ∧ e.job = cl.job ∧ e.seq < cl.seq)) →
      exec (.fence q) s = .next (retired s (s.started q c cl) q)) := by
  refine ⟨fun hop hres => ?_, fun hop hidx => ?_, fun hop hpos hle => ?_, fun hop hres hearlier => ?_⟩
  · exact finish_issue_done (body := runNop) h hop (decoded_of_all_pass _ _ (by simpa using hres))
  · exact finish_issue_done (body := runClauseOpen) h hop (decoded_of_all_pass _ _ (by simp [hidx]))
  · refine finish_issue_done (body := runClauseDecl) h hop (decoded_of_all_pass _ _ ?_)
    simp only [List.forall_mem_singleton, Bool.or_eq_false_iff, decide_eq_false_iff_not]
    omega
  · refine finish_issue_done (body := runFence) h hop ((decoded_of_all_pass _ _ (by simpa using hres)).trans (if_neg fun hwait => ?_))
    rw [State.started_clauses, Bool.and_eq_true, List.any_eq_true] at hwait
    obtain ⟨hbit, e, he, hold⟩ := hwait
    simp only [Bool.and_eq_true, beq_iff_eq, decide_eq_true_eq] at hold
    obtain ⟨⟨⟨hcls, hunit⟩, hjob⟩, hseq⟩ := hold
    exact hearlier hbit e he ⟨hcls, hunit, hjob, hseq⟩

/-- REGION_DEFINE and REGION_RELEASE write the regions of the clause's phrase (R76 to R78). -/
theorem regionCommandsComplete {s : State} {q : QueueId} {c : QCmd} {cl : Clause} (h : s.mayIssue q c cl)
    (hdecl : declaresWrite cl (cb c.word 4 1) = true) (hgo : s.mustWait cl cl.unit (cb c.word 4 1) true = false) :
    (isOp 0x04 c.word = true → reservedSet c.word [(0, 8), (32, 8), (64, 11), (80, 12)] = false →
      0 < bits c.word 80 12 → bits c.word 64 11 + bits c.word 80 12 ≤ 2048 →
      (∀ x ∈ (s.ctx cl.unit).regions, x.1 ≠ cb c.word 4 1 → overlap (bits c.word 64 11) (bits c.word 80 12) x.2.1 x.2.2 = false) →
      exec (.regionDefine q) s = .next (retired s ((s.started q c cl).modCtx cl.unit fun x => { x with
        regions := x.regions.filter (·.1 != cb c.word 4 1) ++ [(cb c.word 4 1, bits c.word 64 11, bits c.word 80 12)] }) q)) ∧
    (isOp 0x05 c.word = true → reservedSet c.word [(0, 8), (32, 8)] = false → ((s.ctx cl.unit).region (cb c.word 4 1)).isSome = true →
      exec (.regionRelease q) s = .next (retired s ((s.started q c cl).modCtx cl.unit fun x => { x with
        regions := x.regions.filter (·.1 != cb c.word 4 1) }) q)) := by
  refine ⟨fun hop hres hlen hfit hfree => ?_, fun hop hres hregion => ?_⟩
  · have hplace : ¬ (bits c.word 64 11 + bits c.word 80 12 > 2048 ∨ ((s.ctx cl.unit).regions.any fun x =>
        x.1 != cb c.word 4 1 && overlap (bits c.word 64 11) (bits c.word 80 12) x.2.1 x.2.2) = true) := by
      rintro (hout | hoverlap)
      · omega
      · obtain ⟨x, hx, hbad⟩ := List.any_eq_true.mp hoverlap
        rw [Bool.and_eq_true, bne_iff_ne] at hbad
        exact absurd hbad.2 (by simp [hfree x hx hbad.1])
    refine finish_issue_done (body := runRegionDefine) h hop ((decoded_of_all_pass _ _ ?_).trans ?_)
    · simp [hres, Nat.ne_of_gt hlen]
    · rw [State.started_ctx, State.started_mustWait, hdecl, if_neg (by decide), if_neg hplace, hgo]
      rfl
  · obtain ⟨x, hx⟩ := Option.isSome_iff_exists.mp hregion
    refine finish_issue_done (body := runRegionRelease) h hop ((decoded_of_all_pass _ _ (by simpa using hres)).trans ?_)
    simp only [State.started_ctx, State.started_mustWait, hx, hdecl, hgo, Bool.true_eq_false, Bool.false_eq_true, if_false]

/-- A halt of DEBUG_BREAK is found by its reason. -/
theorem State.breakOf_eq_some {s : State} {q : QueueId} {Q : Queue} {h : Halt} (hq : s.queue q = some Q) (hh : Q.halt = some h)
    (hr : h.reason = 0xF0) : s.breakOf q = some h := by
  simp [State.breakOf, hq, hh, hr]

/-- Settles O1: each command passes its checks and ends as its body says; DEBUG_BREAK's body turns on whether it was resumed. -/
theorem controlCommandsComplete : Obligations.ControlCommandsComplete := by
  refine ⟨fun s q c cl h => commonCommandsComplete h, fun s q c cl h hdecl hgo => regionCommandsComplete h hdecl hgo,
    fun s q c cl h hop hres => ?_, fun s q Q h hopen hcore hq hh hr => ?_⟩
  · have hbody : runDebugBreak (s.started q c cl) c cl none =
        if c.again then .done (s.started q c cl) else .halt (s.started q c cl) 0xF0 (cb c.word 16 8) 0 0 false :=
      decoded_of_all_pass _ _ (by simpa using hres)
    refine ⟨fun hfirst => ?_, fun hagain => ?_⟩
    · exact finish_issue (body := runDebugBreak) (r := .halt (s.started q c cl) 0xF0 (cb c.word 16 8) 0 0 false) h hop
        (hbody.trans (if_neg (by simp [hfirst])))
    · exact finish_issue_done (body := runDebugBreak) h hop (hbody.trans (if_pos hagain))
  · have hserved : s.debugServed = true := by simp [State.debugServed, hopen, hcore]
    have hbreak := State.breakOf_eq_some hq hh hr
    constructor
    · show finish s _ = _
      rw [hbreak]
      exact congrArg (finish s) (if_pos hserved)
    · show finish s _ = _
      rw [hbreak]
      exact congrArg (finish s) (if_pos hserved)

/-- Settles O2: every row of a queue goes through its issue, which is blocked. -/
theorem blockedQueuesIssueNothing : Obligations.BlockedQueuesIssueNothing := by
  have commitBlocked (s : State) (n : Nat) (m : SliceMet) (h : s.headOf ⟨.update, n⟩ = none) :
      exec (.commit n m) s = .next (settle s s.gathersGoOn) := by
    show finish s (State.gathersGoOn (s.issue _ _ _ _)) = _
    rw [State.issue_blocked h, finish]
  refine ⟨fun s q h => ?_, fun s n f a => ⟨fun h => ?_, fun h => ?_, fun h => ?_, fun h => ?_, fun h => ⟨commitBlocked s n _ h, ?_⟩,
    fun h => ?_⟩⟩
  all_goals
    simp only [List.forall_mem_cons, List.not_mem_nil, false_imp_iff, implies_true, and_true]
    and_intros <;> exact finish_issue_blocked h

end Sys2Proof.Machine
end

section
/-! SUPPORT and PROOFS. The MOVE engine: transfers (R82, R239, R240, R282, R303 to R305). -/

namespace Sys2Proof.Machine

/-! ### Bodies behind the scoreboard -/

/-- Where no word holds an error and no fault is given, operands that the scoreboard lets go let the body run; its writes put right the
words that they overwrite. -/
theorem boarded_run {s : State} {cl : Clause} {n : Nat} {l : List Opnd} (h : s.board cl n l = .go) (hb : s.svc.badWords = [])
    (more : List Words) (check : HwFault → Option HwFault) (k : Option HwFault → Run) :
    boarded s cl n l more check none k = (k none).after fun t => t.overwrite ⟨cl.cls, cl.unit⟩ n (boardWords (s.ctx n) true l) := by
  rw [boarded_go _ _ _ _ _ _ _ _ h, State.unitFault_none _ _ _ _ _ hb]

/-- The state in which a command has issued lets its operands go as before. -/
theorem started_board_go {s : State} {cl : Clause} {n : Nat} {l : List Opnd} (h : s.board cl n l = .go) (q : QueueId) (c : QCmd) :
    (s.started q c cl).board cl n l = .go := by
  rw [State.started_board]
  exact h

/-! ### The start of a transfer -/

section Begin

variable {s : State} {c : QCmd} {cl : Clause} {n : Nat}

/-- A MOVE command that issues with its checks passed and its operand free, and no word in error. -/
structure MoveReady (s : State) (c : QCmd) (cl : Clause) (n : Nat) : Prop where
  issue : s.mayIssue ⟨.move, n⟩ c cl
  sound : s.soundWords
  unit : cl.unit = n
  checks : ∀ x ∈ moveChecks c.word, x.1 = false
  go : s.board cl n [moveOpnd (moveGeom c.word)] = .go

/-- The words that a MOVE command's writes put right. -/
def State.movePut (s : State) (c : QCmd) (cl : Clause) (n : Nat) (t : State) : State :=
  t.overwrite ⟨cl.cls, n⟩ n (boardWords (s.ctx n) true [moveOpnd (moveGeom c.word)])

/-- A body of such a command behind its checks and its operand. -/
theorem MoveReady.boarded (h : MoveReady s c cl n) (more : List Words) (k : Option HwFault → Run) :
    decoded (s.started ⟨.move, n⟩ c cl) (moveChecks c.word)
      (boarded (s.started ⟨.move, n⟩ c cl) cl cl.unit [moveOpnd (moveGeom c.word)] more noCheck none k) = (k none).after (s.movePut c cl n) := by
  obtain ⟨hissue, hsound, rfl, hchecks, hgo⟩ := h
  rw [decoded_of_all_pass _ _ hchecks, boarded_run (started_board_go hgo _ _) (State.started_soundWords hsound _ _ _), State.started_ctx]
  rfl

/-- A command that writes memory puts no word right. -/
theorem State.movePut_of_store (s : State) {c : QCmd} (cl : Clause) (n : Nat) (h : moveInto (moveGeom c.word).op = false)
    (htload : (moveGeom c.word).op ≠ 0x42) (t : State) : s.movePut c cl n t = t := by
  have hwords : boardWords (s.ctx n) true [moveOpnd (moveGeom c.word)] = [] := by
    simp [boardWords, moveOpnd, htload, opnd, h]
  rw [State.movePut, hwords, State.overwrite_nil]

/-- The opcode of a MOVE command's fields. -/
theorem moveGeom_op {w op : Nat} (h : isOp op w = true) : (moveGeom w).op = op := beq_iff_eq.mp h

/-- LOAD, TLOAD and STASH_GET enter execution with their first chunks requested. -/
theorem MoveReady.runLoad (h : MoveReady s c cl n)
    (hscale : ¬ (((moveGeom c.word).op = 0x40 ∨ (moveGeom c.word).op = 0x44) ∧
      (s.started ⟨.move, n⟩ c cl).scaleWait cl (moveGeom c.word) = true)) :
    let m := (s.started ⟨.move, n⟩ c cl).moveRequest ⟨.move, n⟩ cl.job (moveGeom c.word) ((moveGeom c.word).op == 0x44) 4097
      { progress := 0, pos := 0, waits := [] }
    Machine.runLoad (s.started ⟨.move, n⟩ c cl) c cl none = .busy (s.movePut c cl n m.1) m.2 := by
  rw [Machine.runLoad, h.boarded, if_neg hscale, h.unit]
  rfl

/-- STORE and STASH_PUT enter execution with their first chunks written. -/
theorem MoveReady.runStore (h : MoveReady s c cl n) {t : State} {f : InFlight}
    (hsent : (s.started ⟨.move, n⟩ c cl).moveWrite n c cl (moveGeom c.word) (moveGeom c.word).rows 4097
      { progress := (moveGeom c.word).doneBytes (if c.again then c.pos else 0), pos := if c.again then c.pos else 0, waits := [] } = .ok t f) :
    Machine.runStore (s.started ⟨.move, n⟩ c cl) c cl none = .busy (s.movePut c cl n t) f := by
  rw [Machine.runStore, h.boarded, h.unit]
  simp only [hsent]
  rfl

end Begin

/-- Settles O8: a load's body is busy with its first requests, a store's with its first writes. -/
theorem moveTransfersBegin : Obligations.MoveTransfersBegin := by
  rintro s q c cl hissue hsound n rfl hunit hchecks hgo g u put asked pos
  have hready : MoveReady s c cl n := ⟨hissue, hsound, hunit, hchecks, hgo⟩
  refine ⟨fun hop hscale => ?_, fun hop => ?_, fun hop hscale => ?_, fun t f hsent => ⟨fun hop => ?_, fun hop => ?_⟩⟩
  · have hg : (moveGeom c.word).op = 0x40 := moveGeom_op hop
    refine finish_issue_busy (body := runLoad) hissue hop ((hready.runLoad fun h => Bool.false_ne_true (hscale.symm.trans h.2)).trans ?_)
    simp only [hg]
    rfl
  · have hg : (moveGeom c.word).op = 0x42 := moveGeom_op hop
    refine finish_issue_busy (body := runLoad) hissue hop ((hready.runLoad fun h => by simp [hg] at h).trans ?_)
    simp only [hg]
    rfl
  · have hg : (moveGeom c.word).op = 0x44 := moveGeom_op hop
    refine finish_issue_busy (body := runLoad) hissue hop ((hready.runLoad fun h => Bool.false_ne_true (hscale.symm.trans h.2)).trans ?_)
    simp only [hg]
    rfl
  · have hg : g.op = 0x41 := moveGeom_op hop
    refine finish_issue_busy (body := runStore) hissue hop ((hready.runStore hsent).trans ?_)
    rw [State.movePut_of_store _ _ _ (by rw [hg]; rfl) (by rw [hg]; decide)]
  · have hg : g.op = 0x43 := moveGeom_op hop
    refine finish_issue_busy (body := runStore) hissue hop ((hready.runStore hsent).trans ?_)
    rw [State.movePut_of_store _ _ _ (by rw [hg]; rfl) (by rw [hg]; decide)]

/-! ### Arrivals and acknowledgements -/

/-- No outstanding request is another module's part of this chunk. -/
theorem State.noRequest_of {s : State} {q : QueueId} {id : Nat} (h : ∀ e ∈ s.fab.reqs, ¬ (e.owner = q ∧ e.xid = id)) :
    (s.fab.reqs.any fun r => r.owner == q && r.xid == id) = false := by
  simpa using h

/-- Settles O9: the command in execution and its chunk are found; what the arrival met then says whether the transfer goes on or halts. -/
theorem moveArrivalsAndAcksGoOn : Obligations.MoveArrivalsAndAcksGoOn := by
  constructor
  · intro s n id a c cl f x
    dsimp only
    intro hmoving hfind hretries
    refine ⟨fun hinto hheld bs hread => congrArg (finish s) ?_, fun hop hbad hreq => congrArg (finish s) ?_⟩
    · simp only [moveSectorArrival, hmoving, hinto, hfind, hheld, hread, if_neg (Nat.not_lt.mpr hretries), Bool.true_eq_false,
        Bool.false_eq_true, if_false]
    · have hmine : ¬ (False ∨ (moveGeom c.word).op ≠ 0x41 ∧ (moveGeom c.word).op ≠ 0x43) := by
        simpa [Classical.or_iff_not_imp_left] using hop
      have hclean : ¬ (a.retries > 3 ∨ a.bad.isSome = true) := by simp [hbad, hretries]
      simp only [memoryWriteAck, hmoving, hfind, ne_eq, not_true_eq_false, if_neg hmine, State.noRequest_of hreq, Bool.false_eq_true, if_false,
        if_neg hclean]
  · intro s n id a c cl f x
    dsimp only
    intro hmoving hfind
    refine ⟨fun hretries hinto hheld => congrArg (finish s) ?_, fun hbad hop hreq p hphys => congrArg (finish s) ?_⟩
    · simp only [moveSectorArrival, hmoving, hinto, hfind, hheld, if_pos hretries, Bool.true_eq_false, Bool.false_eq_true, if_false]
    · have hmine : ¬ (False ∨ (moveGeom c.word).op ≠ 0x41 ∧ (moveGeom c.word).op ≠ 0x43) := by
        simpa [Classical.or_iff_not_imp_left] using hop
      have hfault : a.retries > 3 ∨ a.bad.isSome = true := hbad
      simp only [memoryWriteAck, hmoving, hfind, ne_eq, not_true_eq_false, if_neg hmine, State.noRequest_of hreq, Bool.false_eq_true, if_false,
        if_pos hfault, hphys]

end Sys2Proof.Machine
end

section
/-! SUPPORT and PROOFS. The reduction windows (R62, R244): the commands RB_ADD and RB_READ, and what an add into an on-die run leaves. -/

namespace Sys2Proof.Machine

/-! ### The commands -/

section Window

variable {s : State} {c : QCmd} {cl : Clause} {n : Nat}

/-- A run of a window command at its end completes once nothing that it sent is outstanding, and is in execution until then. -/
theorem rbEnd_done (q : QueueId) (j : Nat) (g : MoveG) (waited : Bool) (t : State) (pos : Nat) :
    rbEnd q j g none waited (.done t pos) =
      if t.asks q then .busy t { progress := g.doneBytes pos, pos := pos, waits := [] } else .done t := rfl

/-- The ends of a window command whose run over its rows is at its end. -/
theorem MoveReady.windowEnds (h : MoveReady s c cl n) {mine : Nat → Bool} (hm : mine c.word = true)
    {body : State → QCmd → Clause → Option HwFault → Run} {t : State} {pos : Nat}
    (hbody : body (s.started ⟨.move, n⟩ c cl) c cl none =
      Run.resumed c ((rbEnd ⟨.move, n⟩ cl.job (moveGeom c.word) none false (.done t pos)).after (s.movePut c cl n))) :
    (t.asks ⟨.move, n⟩ = false →
      finish s (s.issue ⟨.move, n⟩ mine none body) = .next (retired s (s.movePut c cl n t) ⟨.move, n⟩)) ∧
    (t.asks ⟨.move, n⟩ = true → finish s (s.issue ⟨.move, n⟩ mine none body) = .next (entered s (s.movePut c cl n t) ⟨.move, n⟩
      { progress := (moveGeom c.word).doneBytes pos, pos := pos, waits := [] })) := by
  rw [rbEnd_done] at hbody
  refine ⟨fun hasks => finish_issue_done h.issue hm (hbody.trans ?_), fun hasks => finish_issue_busy h.issue hm (hbody.trans ?_)⟩
  · rw [hasks]; rfl
  · rw [hasks]; rfl

/-- RB_ADD runs over its rows where no block that it reaches is DIRTY with an earlier epoch. -/
theorem MoveReady.runRbAdd (h : MoveReady s c cl n) {u : State} (hu : u = s.started ⟨.move, n⟩ c cl)
    (hblocks : ∀ b ∈ u.inWindow cl.job (moveGeom c.word).blocks, ∀ e, u.dirtyOf cl.job b = some e → u.epochOf cl ≤ e) {w : WinRun}
    (hrun : ((if c.again then u.resend ⟨.move, n⟩ else u).markDirty cl.job (u.epochOf cl)
      (u.inWindow cl.job (moveGeom c.word).blocks)).rbAddRun n c cl (moveGeom c.word) (moveGeom c.word).rows
        (2 ^ 20 * ((moveGeom c.word).rows + 1)) (if c.again then c.pos else 0) = w) :
    Machine.runRbAdd u c cl none =
      Run.resumed c ((rbEnd ⟨.move, n⟩ cl.job (moveGeom c.word) none false w).after (s.movePut c cl n)) := by
  subst hu
  rw [Machine.runRbAdd, h.boarded, h.unit]
  simp only [hrun]
  rw [if_neg]
  rw [Bool.not_eq_true, List.any_eq_false]
  intro b hb
  split
  · next e he => simpa using hblocks b hb e he
  · simp

/-- RB_READ runs over its rows. -/
theorem MoveReady.runRbRead (h : MoveReady s c cl n) {w : WinRun}
    (hrun : (s.started ⟨.move, n⟩ c cl).rbReadRun n c cl (moveGeom c.word) (moveGeom c.word).rows (2 ^ 20 * ((moveGeom c.word).rows + 1))
      (if c.again then c.pos else 0) = w) :
    Machine.runRbRead (s.started ⟨.move, n⟩ c cl) c cl none =
      Run.resumed c ((rbEnd ⟨.move, n⟩ cl.job (moveGeom c.word) none false w).after (s.movePut c cl n)) := by
  rw [Machine.runRbRead, h.boarded, h.unit]
  simp only [hrun]

end Window

/-! ### Codes of fp32 -/

/-- A significand of 24 bits, its last bit at most at 2^104, packs into the 32 bits of fp32. -/
theorem packCode_f32_lt (neg : Bool) {m : Nat} {q : Int} (hm : m < 2 ^ 24) (hq : q ≤ 104) : packCode fmF32 neg m q < 2 ^ 32 := by
  have hplace : (q + fmtBias fmF32 + fracBits fmF32).toNat ≤ 254 := by
    simp only [fmtBias, expBits, fracBits]
    omega
  have hsign : (if neg then 2 ^ (fmtBits fmF32 - 1) else 0) ≤ 2 ^ 31 := by cases neg <;> decide
  unfold packCode
  split
  · omega
  · have hprod := Nat.mul_le_mul_right (2 ^ fracBits fmF32) hplace
    simp only [fracBits] at *
    omega

/-- Rounding to nearest even goes to a neighbour. -/
theorem shiftRound_nearest_le (u : Nat) (neg : Bool) (m k : Nat) : shiftRound 0 u neg m k ≤ m / 2 ^ k + 1 := by
  unfold shiftRound
  dsimp only
  split
  · omega
  · change ite _ _ _ ≤ _
    split
    · exact Nat.le_refl _
    · exact Nat.le_succ _

/-- The rounded significand of a value in fp32 takes 24 bits, or is the next power of two. -/
theorem rounded_significand_le (m u : Nat) (s : Bool) (e q : Int) (hq : e + Nat.log2 m - 23 ≤ q) :
    (if q ≤ e then m * 2 ^ (e - q).toNat else shiftRound 0 u s m (q - e).toNat) ≤ 2 ^ 24 := by
  have hlog : m < 2 ^ (Nat.log2 m + 1) := Nat.lt_log2_self
  split
  · have hshift : Nat.log2 m + 1 + (e - q).toNat ≤ 24 := by omega
    calc m * 2 ^ (e - q).toNat ≤ 2 ^ (Nat.log2 m + 1) * 2 ^ (e - q).toNat := Nat.mul_le_mul_right _ (Nat.le_of_lt hlog)
      _ = 2 ^ (Nat.log2 m + 1 + (e - q).toNat) := (Nat.pow_add ..).symm
      _ ≤ 2 ^ 24 := Nat.pow_le_pow_right (by decide) hshift
  · have hshift : Nat.log2 m + 1 ≤ 24 + (q - e).toNat := by omega
    have hquot : m / 2 ^ (q - e).toNat < 2 ^ 24 := by
      rw [Nat.div_lt_iff_lt_mul (Nat.two_pow_pos _), ← Nat.pow_add]
      exact Nat.lt_of_lt_of_le hlog (Nat.pow_le_pow_right (by decide) hshift)
    exact Nat.le_trans (shiftRound_nearest_le u s m _) hquot

/-- Every code that a value is rounded to in fp32 fits its 32 bits. -/
theorem encode_f32_lt (mode : Nat) (sat : Bool) (u : Nat) (x : Num) : (encode fmF32 mode sat u x).code < 2 ^ 32 := by
  have hinf (b : Bool) : infCode fmF32 b < 2 ^ 32 := by cases b <;> decide
  have hmax (b : Bool) : maxCode fmF32 b < 2 ^ 32 := by cases b <;> decide
  cases x with
  | nan => exact (by decide : nanCode fmF32 < 2 ^ 32)
  | inf s => exact hinf s
  | fin s m e =>
    unfold encode
    dsimp -zeta only
    split
    · cases s <;> decide
    · next hm =>
      extract_lets mode' fb top q r r2 q2 mx beyond
      have hq : e + Nat.log2 m - 23 ≤ q := by
        simp only [q, top, fb, fracBits, if_neg (by decide : ¬ fmF32 = fmW48)]
        omega
      have hr : r ≤ 2 ^ 24 := rounded_significand_le m u s e q hq
      have hr2 : r2 < 2 ^ 24 := by
        simp only [r2, fb, fracBits]
        split <;> omega
      split
      · cases sat
        · exact hinf s
        · exact hmax s
      · next hfits =>
        rw [if_neg (by simp)]
        refine packCode_f32_lt s hr2 ?_
        simp only [beyond, not_or] at hfits
        exact Int.not_lt.mp hfits.1.1

/-! ### Packed elements of fp32 -/

/-- An element of fp32 is the number in its four bytes. -/
theorem elemAt_f32 (bs : List Byte) (i : Nat) : elemAt fmF32 bs i = nb bs (4 * i) 4 % 2 ^ 32 := by
  have hplace : i * fmtBits fmF32 / 8 = 4 * i := by
    simp only [fmtBits, List.getD_cons_zero]
    omega
  have hbit : i * fmtBits fmF32 % 8 = 0 := by
    simp only [fmtBits, List.getD_cons_zero]
    omega
  rw [elemAt, hplace, hbit]
  simp [bits, fmtBits]

theorem packElems_f32 (l : List Nat) : packElems fmF32 l = l.flatMap (leBytes 4) := rfl

theorem length_packElems_f32 (l : List Nat) : (packElems fmF32 l).length = 4 * l.length := by
  rw [packElems_f32, List.length_flatMap]
  simp only [length_leBytes, List.map_const', List.sum_replicate_nat, Nat.mul_comm]

/-- Codes that fit fp32 are read back from their packed bytes. -/
theorem elemsOf_packElems_f32 {l : List Nat} (h : ∀ c ∈ l, c < 2 ^ 32) : elemsOf fmF32 (packElems fmF32 l) l.length = l := by
  have hread (l : List Nat) : (∀ c ∈ l, c < 2 ^ 32) → ∀ i (hi : i < l.length), nb (packElems fmF32 l) (4 * i) 4 = l[i] := by
    induction l with
    | nil => intro _ i hi; exact absurd hi (Nat.not_lt_zero i)
    | cons c l ih =>
      intro hfit i hi
      rw [packElems_f32, List.flatMap_cons, ← packElems_f32]
      cases i with
      | zero => exact nb_leBytes_front (n := 4) (hfit c List.mem_cons_self) _
      | succ i =>
        rw [nb_leBytes_behind (by omega), show 4 * (i + 1) - 4 = 4 * i by omega,
          ih (fun x hx => hfit x (List.mem_cons_of_mem _ hx)) i (by simpa using hi), List.getElem_cons_succ]
  refine List.ext_getElem (by simp [elemsOf]) fun i h1 h2 => ?_
  simp only [elemsOf, List.getElem_map, List.getElem_range]
  rw [elemAt_f32, hread l h i h2, Nat.mod_eq_of_lt (h _ (List.getElem_mem h2))]

@[simp] theorem length_elemsOf (f : Nat) (bs : List Byte) (n : Nat) : (elemsOf f bs n).length = n := by simp [elemsOf]

/-! ### Adds into the window -/

/-- The codes of fp32 sums, each rounded once to nearest even. -/
def sumCodes (sat : Bool) (old : List Nat) (xs : List Num) : List Nat :=
  (old.zip xs).map fun p => (encode fmF32 0 sat 0 ((decodeNum fmF32 p.1).add p.2)).code

theorem length_sumCodes (sat : Bool) {old : List Nat} {xs : List Num} (h : old.length = xs.length) :
    (sumCodes sat old xs).length = xs.length := by
  simp [sumCodes, h]

/-- Place by place, a sum's code is that of the two elements there. -/
theorem sumCodes_eq_map_range (sat : Bool) {old : List Nat} {xs : List Num} (h : old.length = xs.length) :
    sumCodes sat old xs = (List.range xs.length).map fun k =>
      (encode fmF32 0 sat 0 ((decodeNum fmF32 (old.getD k 0)).add (xs.getD k zeroNum))).code := by
  refine List.ext_getElem (by simp [sumCodes, h]) fun i h1 h2 => ?_
  have hi : i < xs.length := by simpa using h2
  simp [sumCodes, hi, h]

/-- A run of the window that lies before rb_len is on the die. -/
theorem State.windowAt_onDie {s : State} {j o n : Nat} (hn : 0 < n) (h : o + n ≤ s.reg (K.rbLen j)) :
    s.windowAt j o n = some (.inl (s.reg (K.rbBase j) + o)) := by
  unfold State.windowAt
  dsimp only
  rw [if_neg (by omega), if_pos (by omega)]

/-- An add into a run on the die writes the codes of the sums there. -/
theorem State.windowAdd_onDie {s : State} {j o : Nat} {sat : Bool} {xs : List Num} (hne : xs ≠ [])
    (h : o + 4 * xs.length ≤ s.reg (K.rbLen j)) : ∃ f, s.windowAdd j o sat xs = .ok (s.modMem fun m => { m with
      rb := writeRun m.rb (s.reg (K.rbBase j) + o) (packElems fmF32 (sumCodes sat
        (elemsOf fmF32 (readRun s.mem.rb (s.reg (K.rbBase j) + o) (4 * xs.length)) xs.length) xs)) }, f) := by
  have hpos : 0 < 4 * xs.length := Nat.mul_pos (by decide) (List.length_pos_iff.mpr hne)
  unfold State.windowAdd
  simp only [State.windowAt_onDie hpos h, List.map_map]
  exact ⟨_, rfl⟩

/-- Settles O10: each command ends as its run over the rows does; an add on the die writes the packed codes of the sums, which read back,
and the bytes beside them stay. -/
theorem reductionWindowsRoundOnce : Obligations.ReductionWindowsRoundOnce := by
  constructor
  · rintro s q c cl hissue hsound n rfl hunit hchecks hgo
    have hready : MoveReady s c cl n := ⟨hissue, hsound, hunit, hchecks, hgo⟩
    refine ⟨fun hop hblocks t pos hrun => ?_, fun hop t pos hrun => ?_⟩
    · exact hready.windowEnds hop (body := runRbAdd) (hready.runRbAdd rfl hblocks hrun)
    · exact hready.windowEnds hop (body := runRbRead) (hready.runRbRead hrun)
  · intro s j o sat xs _
    refine ⟨fun hne hin => ?_, fun hout => ?_⟩
    · obtain ⟨f, hadd⟩ := State.windowAdd_onDie (sat := sat) hne hin
      have hold := length_elemsOf fmF32 (readRun s.mem.rb (s.reg (K.rbBase j) + o) (4 * xs.length)) xs.length
      have hfit : ∀ c ∈ sumCodes sat (elemsOf fmF32 (readRun s.mem.rb (s.reg (K.rbBase j) + o) (4 * xs.length)) xs.length) xs, c < 2 ^ 32 := by
        intro c hc
        obtain ⟨p, -, rfl⟩ := List.mem_map.mp hc
        exact encode_f32_lt _ _ _ _
      have hlen := length_sumCodes sat hold
      refine ⟨_, f, hadd, ?_, fun a ha => ?_⟩
      · rw [← sumCodes_eq_map_range sat hold]
        generalize sumCodes sat _ xs = l at *
        show elemsOf fmF32 (readRun (writeRun s.mem.rb _ (packElems fmF32 l)) _ (4 * xs.length)) xs.length = l
        rw [← hlen, ← length_packElems_f32, readRun_writeRun, elemsOf_packElems_f32 hfit]
      · exact byteAt_writeRun_outside _ _ (by rw [length_packElems_f32, hlen]; exact ha)
    · refine ⟨max o (s.reg (K.rbLen j) + s.reg (K.extLen j)), ?_⟩
      have hnone : s.windowAt j o (4 * xs.length) = none := if_pos hout
      simp only [State.windowAdd, hnone]

end Sys2Proof.Machine
end

section
/-! SUPPORT and PROOFS. COMMIT on a slice (R26, R182, R233, R262, R263, R265, R338). -/

namespace Sys2Proof.Machine

@[simp] theorem accBind_ok {α β : Type} (a : α) (f : α → Acc β) : accBind (.ok a) f = f a := rfl

@[simp] theorem onAcc_ok {α : Type} (s : State) (j : Nat) (a : α) (k : α → Run) : onAcc s j (.ok a) k = k a := rfl

/-! ### One row's record -/

/-- A row that a COMMIT finds at its epoch or a later one is read and keeps every byte (R182, R263). -/
theorem State.commitRecord_found {s : State} {G : CommitG} {row : Nat} {b : List Byte}
    (hread : s.unitRead G.j (G.P.recAddr row) (16 + G.P.elems * (4 + G.P.count * G.P.ssize)) = .ok b) (h : G.epoch ≤ nb b 0 8)
    (live : Nat) (grads : List (List Nat)) :
    s.commitRecord G row live grads = .ok
      { state := s.didRead G.j (G.P.recAddr row) (16 + G.P.elems * (4 + G.P.count * G.P.ssize))
        master := (elemsOf fmF32 (b.drop 16) G.P.elems).map (decodeNum fmF32), found := true, ovf := false, nf := false, bad := false } := by
  simp only [State.commitRecord, hread, accBind_ok, ge_iff_le, h, if_true]

/-- The bytes of memory stay in a read. -/
theorem State.didRead_bytes (s : State) (j addr n : Nat) : (s.didRead j addr n).mem.bytes = s.mem.bytes :=
  State.didRead_keeps (·.mem.bytes) (fun _ _ _ => rfl) (fun _ _ _ _ => rfl) (fun _ _ => rfl) s j addr n

/-- An earlier row takes the epoch in one write of its record (R263, R265). -/
theorem State.commitRecord_fresh {s : State} {G : CommitG} {row live : Nat} {grads : List (List Nat)} {b : List Byte} {x : RowOut}
    (hread : s.unitRead G.j (G.P.recAddr row) (16 + G.P.elems * (4 + G.P.count * G.P.ssize)) = .ok b) (h : nb b 0 8 < G.epoch)
    (hx : s.commitRecord G row live grads = .ok x) : x.found = false ∧ ∃ body t,
      (s.didRead G.j (G.P.recAddr row) (16 + G.P.elems * (4 + G.P.count * G.P.ssize))).queueWrite G.q G.j (G.P.recAddr row) body = .ok t ∧
      x.state = t.count (0x30 + G.sl) 0x12 live (some G.j) ∧ body.take 8 = leBytes 8 G.epoch := by
  simp only [State.commitRecord, hread, accBind_ok, ge_iff_le, Nat.not_le.mpr h, if_false] at hx
  generalize hw : State.queueWrite _ _ _ _ _ = w at hx
  cases w with
  | ok t =>
    obtain rfl := Acc.ok.inj hx
    refine ⟨rfl, _, t, hw, rfl, ?_⟩
    simp only [List.append_assoc]
    exact List.take_left' (length_leBytes 8 G.epoch)
  | fail r d => cases hx
  | far n a l => cases hx
  | wait => cases hx

/-! ### The command -/

section Commit

variable {s : State} {sl : Nat} {a : MemAccess} {c : QCmd} {cl : Clause}

/-- The state in which a COMMIT has issued; the requests of a resumed one depart again. -/
def State.commitStart (s : State) (sl : Nat) (c : QCmd) (cl : Clause) : State :=
  if c.again then (s.started ⟨.update, sl⟩ c cl).resend ⟨.update, sl⟩ else s.started ⟨.update, sl⟩ c cl

/-- A COMMIT that may issue ends as its body says, and the gathers that wait for a COMMIT's end are tried again (R338). -/
theorem exec_commit (h : s.mayIssue ⟨.update, sl⟩ c cl) (hop : isOp 0x60 c.word = true) {r : Run}
    (hr : runCommit (s.commitStart sl c cl) c { cl with unit := sl } a none = r) :
    exec (.commit sl ⟨a, none⟩) s = .next (settle s (s.settleRun ⟨.update, sl⟩ c cl r).gathersGoOn) := by
  have hrun : exec (.commit sl ⟨a, none⟩) s = finish s (State.gathersGoOn (s.issue ⟨.update, sl⟩ (isOp 0x60) none fun s c cl f =>
    runCommit (if c.again then s.resend ⟨.update, sl⟩ else s) c { cl with unit := sl } a f)) := rfl
  rw [hrun, State.issue_ready h _ hop, ← hr]
  rfl

/-- What a COMMIT reads before it does anything: its step, its row set, and the recipe in its slot. -/
structure CommitHead (u : State) (c : QCmd) (cl : Clause) (t : Step) (r : RowSet) (prog : List Nat) : Prop where
  fields : reservedSet c.word commitFields = false
  step : u.steps.find? (fun t => t.job == cl.job && t.epoch == cb c.word 8 8) = some t
  rows : u.rowSetOf cl.job (cb c.word 4 1) (cb c.word 24 4) (cb c.word 16 8) = .ok r
  notDue : u.recipesDue cl = false
  recipe : ((u.fillRecipes cl.job cl.unit).slice cl.unit).recipe cl.job (bits c.word 40 4) = some prog
  sound : (u.fillRecipes cl.job cl.unit).soundWords

/-- What a COMMIT's rows share. -/
def commitG (c : QCmd) (cl : Clause) (t : Step) (P : Pset) (prog : List Nat) : CommitG :=
  { j := cl.job, sl := cl.unit, slot := bits c.word 40 4, P := P, prog := prog, ks := commitKs P t, epoch := cb c.word 8 8 }

/-- How a COMMIT goes on as its step stands: it waits for the result, and in an ellipsis it is done. -/
def asStepStands (t : Step) (v : State) (k : Run) : Run := if beforeResult t then .wait else if t.state = .ellipsis then .done v else k

variable {u : State} {t : Step} {r : RowSet} {P : Pset} {prog : List Nat}

/-- A COMMIT of a sparse set whose table is this set's and is written. -/
theorem CommitHead.runSparse (h : CommitHead u c cl t r prog) (hsparse : r.sparse = true) {T : Table} (hT : u.tableOf cl.job r.table = .ok T)
    (hP : u.psetOf cl.job (cb c.word 4 1) T.dim false = .ok P) (hset : T.pset = cb c.word 4 1) (hwrite : T.readOnly = false) :
    let v := u.fillRecipes cl.job cl.unit
    runCommit u c cl a none = Run.resumed c (asStepStands t v
      (onAcc v cl.job (v.pendingLeft cl.job T.num (cb c.word 8 8 % 2 ^ 32)) fun parked =>
        match parked.findSome? fun row => (v.statePage cl.job T row).bind fun h => v.fetchFailed h.job h.va with
        | some x => Run.refuse v x.1 x.2
        | none =>
          if parked ≠ [] then .wait
          else onAcc v cl.job (accBind (v.gradDesc cl.job T.num) fun g => v.gradRows cl.job g T.dim (cb c.word 8 8 % 2 ^ 32)) fun rows =>
            commitOver v cl.unit c cl (commitG c cl t P prog) r (cb c.word 24 4) t.number a none rows fun s cv x =>
              s.commitSparse (commitG c cl t P prog) T cv x.1 x.2)) := by
  obtain ⟨hfields, hstep, hrows, hdue, hrecipe, hsound⟩ := h
  unfold runCommit
  dsimp only
  rw [decoded_of_all_pass _ _ (by simpa using hfields)]
  simp only [hstep, hrows, onAcc_ok, hsparse, if_true, hT, accBind_ok, Bool.not_true, hP, hdue, hrecipe, Option.any_some, hset, hwrite,
    bne_self_eq_false, Bool.false_eq_true, if_false, State.unitFault_none _ _ _ _ _ hsound]
  rfl

/-- A COMMIT of a dense set. -/
theorem CommitHead.runDense (h : CommitHead u c cl t r prog) (hdense : r.sparse = false) (hP : u.psetOf cl.job (cb c.word 4 1) 256 true = .ok P) :
    let v := u.fillRecipes cl.job cl.unit
    runCommit u c cl a none = Run.resumed c (asStepStands t v
      (let xs := v.shardsIn cl.job (cb c.word 4 1) r.first (cb c.word 24 4)
       match xs.find? fun x => x.retain != 0 && !(256 * r.first ≤ x.first && x.first + x.elems ≤ 256 * r.first + r.elems) with
       | some x => Run.refuse v 0x04 x.first
       | none =>
         let held := xs.filter fun x => v.shardHeld x
         if held ≠ [] then
           .stay fun s => held.foldl (fun s x =>
             if x.waiting then s else (s.bump (K.retainWaits cl.job) 1).modShard x fun y => { y with waiting := true }) s
         else
           onAcc v cl.job (State.retainAll ⟨.update, cl.unit⟩ P xs v) fun s =>
           commitOver s cl.unit c cl (commitG c cl t P prog) r (cb c.word 24 4) t.number a none
             ((List.range (cb c.word 24 4)).map fun i => (r.first + i, [])) fun s cv x => s.commitDense (commitG c cl t P prog) r cv x.1)) := by
  obtain ⟨hfields, hstep, hrows, hdue, hrecipe, hsound⟩ := h
  unfold runCommit
  dsimp only
  rw [decoded_of_all_pass _ _ (by simpa using hfields)]
  simp only [hstep, hrows, onAcc_ok, hdense, Bool.false_eq_true, if_false, Bool.not_false, hP, hdue, hrecipe, Option.any_none,
    State.unitFault_none _ _ _ _ _ hsound]
  rfl

/-- The state after a slice's access of its first row. -/
def State.rowsMet (x : State) (G : CommitG) (a : MemAccess) (mine : List (Nat × List Nat)) : State :=
  match mine with
  | [] => x
  | m :: _ => x.accessAt G.j (G.P.recAddr m.1) (16 + G.P.elems * (4 + G.P.count * G.P.ssize)) a

/-- The state in which a slice's rows are done: with the last slice the COMMIT ends. -/
def commitState (sl : Nat) (c : QCmd) (cl : Clause) (G : CommitG) (r : RowSet) (len step : Nat) (o : CommitOut) : State :=
  let z := (commitLeft sl c cl G o).modClause c.seq fun y => { y with rows := y.rows + o.rows }
  if z.lastSlice sl c then z.commitEnd G r len step else z

/-- Rows whose records are placed, in tier 0 and on slices in service are done in turn, where nothing stops them or makes them wait. -/
theorem commitOver_done {w x : State} {sl : Nat} {G : CommitG} {len step : Nat} {rows : List (Nat × List Nat)}
    {f : State → Cv → Nat × List Nat → Acc (State × Cv × Bool)} {o : CommitOut} (hretries : a.retries ≤ 3)
    (hplace : State.placeRecords G.j G.P rows w = .ok x) (hhere : x.awayPages G.j G.P rows = [])
    (hserved : ∀ y ∈ rows, x.stranded G y.1 = false)
    (ho : commitRun (x.rowsMet G a (x.sliceRows sl G rows)) sl G (x.sliceRows sl G rows) (x.sliceRows sl G rows).length f = o)
    (hstop : o.stop = none) (hneed : o.need = none) :
    commitOver w sl c cl G r len step a none rows f =
      sliceDone ⟨.update, sl⟩ (commitState sl c cl G r len step o) o.rows := by
  have hnone : (rows.find? fun y => x.stranded G y.1) = none := by
    rw [List.find?_eq_none]
    intro y hy
    simp [hserved y hy]
  unfold commitOver
  simp only [hplace, onAcc_ok, hhere, hnone]
  generalize x.sliceRows sl G rows = mine at ho ⊢
  cases mine with
  | nil =>
    simp only [State.rowsMet] at ho
    simp only [ho, commitDone, hneed, hstop]
    rfl
  | cons m l =>
    simp only [State.rowsMet] at ho
    simp only [sliceAccess, gt_iff_lt, Nat.not_lt.mpr hretries, if_false, ho, commitDone, hneed, hstop]
    rfl

/-- A slice's command that has done its work completes once nothing that it sent is outstanding. -/
theorem commit_ends {sl : Nat} {cl' : Clause} (h : s.mayIssue ⟨.update, sl⟩ c cl) (hop : isOp 0x60 c.word = true) {e : State} {n : Nat}
    (hcl : { cl with unit := sl } = cl')
    (hr : runCommit (s.commitStart sl c cl) c cl' a none = Run.resumed c (sliceDone ⟨.update, sl⟩ e n)) :
    (e.asks ⟨.update, sl⟩ = false →
      exec (.commit sl ⟨a, none⟩) s = .next (settle s (e.completeCmd ⟨.update, sl⟩ none).gathersGoOn)) ∧
    (e.asks ⟨.update, sl⟩ = true → exec (.commit sl ⟨a, none⟩) s = .next (settle s (e.modQueue ⟨.update, sl⟩ fun Q => { Q with
      infl := some { progress := n, pos := 0, waits := [] } }).gathersGoOn)) := by
  subst hcl
  unfold sliceDone at hr
  refine ⟨fun hasks => ?_, fun hasks => ?_⟩
  · rw [if_neg (by simp [hasks])] at hr
    exact exec_commit (r := .done e) h hop hr
  · rw [if_pos hasks] at hr
    exact exec_commit (r := .busy e _) h hop hr

/-- A COMMIT before its step's result waits, and in an ellipsis it is done. -/
theorem commit_asStepStands {sl : Nat} {v : State} {k : Run} (h : s.mayIssue ⟨.update, sl⟩ c cl) (hop : isOp 0x60 c.word = true)
    (hr : runCommit (s.commitStart sl c cl) c { cl with unit := sl } a none = Run.resumed c (asStepStands t v k)) :
    (beforeResult t = true → exec (.commit sl ⟨a, none⟩) s = .next (settle s s.gathersGoOn)) ∧
    (t.state = .ellipsis → exec (.commit sl ⟨a, none⟩) s = .next (settle s (v.completeCmd ⟨.update, sl⟩ none).gathersGoOn)) := by
  refine ⟨fun hbefore => exec_commit (r := .wait) h hop (hr.trans ?_), fun hellipsis => exec_commit (r := .done v) h hop (hr.trans ?_)⟩
  · rw [asStepStands, if_pos hbefore]
    rfl
  · rw [asStepStands, if_neg (by simp [beforeResult, hellipsis]), if_pos hellipsis]
    rfl

/-- A step that is COMMITTING has its result. -/
theorem asStepStands_committing (h : t.state = .committing) (v : State) (k : Run) : asStepStands t v k = k := by
  rw [asStepStands, if_neg (by simp [beforeResult, h]), if_neg (by simp [h])]

/-- Once its result is here and no gradient of its rows awaits a page, a sparse COMMIT goes over the rows of its epoch. -/
theorem CommitHead.runSparseRows (h : CommitHead u c cl t r prog) (hsparse : r.sparse = true) {T : Table}
    (hT : u.tableOf cl.job r.table = .ok T) (hP : u.psetOf cl.job (cb c.word 4 1) T.dim false = .ok P) (hset : T.pset = cb c.word 4 1)
    (hwrite : T.readOnly = false) (hcommitting : t.state = .committing) {v : State} (hv : u.fillRecipes cl.job cl.unit = v)
    (hparked : v.pendingLeft cl.job T.num (cb c.word 8 8 % 2 ^ 32) = .ok []) {g : GradDesc} (hdesc : v.gradDesc cl.job T.num = .ok g)
    {rows : List (Nat × List Nat)} (hrows : v.gradRows cl.job g T.dim (cb c.word 8 8 % 2 ^ 32) = .ok rows) :
    runCommit u c cl a none = Run.resumed c (commitOver v cl.unit c cl (commitG c cl t P prog) r (cb c.word 24 4) t.number a none rows
      fun s cv x => s.commitSparse (commitG c cl t P prog) T cv x.1 x.2) := by
  subst hv
  have hrun := h.runSparse (a := a) hsparse hT hP hset hwrite
  dsimp only at hrun
  rw [asStepStands_committing hcommitting] at hrun
  simpa only [hparked, onAcc_ok, List.findSome?_nil, ne_eq, not_true_eq_false, if_false, hdesc, accBind_ok, hrows] using hrun

/-- Once its result is here and its shards are retained, a dense COMMIT goes over its rows. -/
theorem CommitHead.runDenseRows (h : CommitHead u c cl t r prog) (hdense : r.sparse = false)
    (hP : u.psetOf cl.job (cb c.word 4 1) 256 true = .ok P) (hcommitting : t.state = .committing) {v : State}
    (hv : u.fillRecipes cl.job cl.unit = v) {xs : List Shard} (hxs : v.shardsIn cl.job (cb c.word 4 1) r.first (cb c.word 24 4) = xs)
    (hwhole : ∀ x ∈ xs, x.retain = 0 ∨ (256 * r.first ≤ x.first ∧ x.first + x.elems ≤ 256 * r.first + r.elems))
    (hfree : ∀ x ∈ xs, v.shardHeld x = false) {w : State} (hretain : State.retainAll ⟨.update, cl.unit⟩ P xs v = .ok w) :
    runCommit u c cl a none = Run.resumed c (commitOver w cl.unit c cl (commitG c cl t P prog) r (cb c.word 24 4) t.number a none
      ((List.range (cb c.word 24 4)).map fun i => (r.first + i, [])) fun s cv x => s.commitDense (commitG c cl t P prog) r cv x.1) := by
  subst hv hxs
  have hrun := h.runDense (a := a) hdense hP
  dsimp only at hrun
  rw [asStepStands_committing hcommitting] at hrun
  have hpart : (State.shardsIn (u.fillRecipes cl.job cl.unit) cl.job (cb c.word 4 1) r.first (cb c.word 24 4)).find? (fun x =>
      x.retain != 0 && !(decide (256 * r.first ≤ x.first) && decide (x.first + x.elems ≤ 256 * r.first + r.elems))) = none := by
    rw [List.find?_eq_none]
    intro x hx
    rcases hwhole x hx with h0 | ⟨hlo, hhi⟩
    · simp [h0]
    · simp [hlo, hhi]
  have hheld : (State.shardsIn (u.fillRecipes cl.job cl.unit) cl.job (cb c.word 4 1) r.first (cb c.word 24 4)).filter (fun x =>
      (u.fillRecipes cl.job cl.unit).shardHeld x) = [] := by
    rw [List.filter_eq_nil_iff]
    intro x hx
    simp [hfree x hx]
  simpa only [hpart, hheld, ne_eq, not_true_eq_false, if_false, hretain, onAcc_ok] using hrun

end Commit

/-- Settles O14: the command's head is read, the step's state says whether it waits, is done or goes over its rows, and a row's record is
kept or written once. -/
theorem commitsUpdateRows : Obligations.CommitsUpdateRows := by
  constructor
  · intro s sl a c cl hissue hop hfields hretries
    dsimp only
    intro t r P prog hstep hset hdue hrecipe hsound
    have hhead : CommitHead (s.commitStart sl c cl) c { cl with unit := sl } t r prog := ⟨hfields, hstep, hset, hdue, hrecipe, hsound⟩
    refine ⟨fun hsparse T hT hP hmine hwrite => ?_, fun hdense hP => ?_⟩
    · obtain ⟨hwaits, hdone⟩ := commit_asStepStands (a := a) hissue hop (hhead.runSparse hsparse hT hP hmine hwrite)
      refine ⟨hwaits, hdone, fun hcommitting hparked g rows hdesc hrows x hplace hhere hserved hstop hneed => ?_⟩
      refine commit_ends hissue hop rfl ((hhead.runSparseRows hsparse hT hP hmine hwrite hcommitting rfl hparked hdesc hrows).trans ?_)
      exact congrArg (Run.resumed c) (commitOver_done hretries hplace hhere hserved rfl hstop hneed)
    · obtain ⟨hwaits, hdone⟩ := commit_asStepStands (a := a) hissue hop (hhead.runDense hdense hP)
      refine ⟨hwaits, hdone, fun hcommitting hwhole hfree w hretain x hplace hhere hserved hstop hneed => ?_⟩
      refine commit_ends hissue hop rfl ((hhead.runDenseRows hdense hP hcommitting rfl rfl hwhole hfree hretain).trans ?_)
      exact congrArg (Run.resumed c) (commitOver_done hretries hplace hhere hserved rfl hstop hneed)
  · intro s G row live grads b
    dsimp only
    intro hread
    exact ⟨fun hfound => ⟨_, State.commitRecord_found hread hfound live grads, rfl, State.didRead_bytes _ _ _ _, rfl, rfl⟩,
      fun hfresh x hx => State.commitRecord_fresh hread hfresh hx⟩

end Sys2Proof.Machine
end

section
/-! SUPPORT and PROOFS. Agreement (R154, R234, R236, R247 to R249, R252, R253). -/

namespace Sys2Proof.Machine

/-! ### The root's decision (R248, R253) -/

/-- A field at the front of a list is its number, cut to its bytes. -/
theorem nb_leBytes_front_mod (n v : Nat) (l : List Byte) : nb (leBytes n v ++ l) 0 n = v % 256 ^ n := by
  simp [nb, leNat_leBytes]

/-- A fold of `|||` is 0 where the start and every term are. -/
theorem foldl_or_eq_zero {α : Type} (f : α → Nat) (l : List α) : ∀ a, l.foldl (fun a x => a ||| f x) a = 0 ↔ a = 0 ∧ ∀ x ∈ l, f x = 0 := by
  induction l with
  | nil => simp
  | cons x l ih =>
    intro a
    rw [List.foldl_cons, ih, Nat.or_eq_zero_iff, List.forall_mem_cons, and_assoc]

/-- What a step's contributions and missing members give as cause of an ellipsis (R248, R249). -/
def State.agreeCause (s : State) (j g n : Nat) (l : List Nat) : Nat :=
  (s.contribsOf j g n).foldl (fun a x => a ||| x.flags % 8) 0 +
    (if l.filter (fun m => !(s.contribsOf j g n).any fun x => x.node == m) ≠ [] then 8 else 0) +
    (if (s.contribsOf j g n).any fun x => x.scale != s.reg (K.lossScale j) || x.clean != s.reg (K.cleanSteps j) then 16 else 0)

/-- There is no cause exactly on whole agreement. -/
theorem State.agreeCause_eq_zero (s : State) (j g n : Nat) (l : List Nat) : s.agreeCause j g n l = 0 ↔
    (∀ m ∈ l, ∃ x ∈ s.contribsOf j g n, x.node = m) ∧
      ∀ x ∈ s.contribsOf j g n, x.flags % 8 = 0 ∧ x.scale = s.reg (K.lossScale j) ∧ x.clean = s.reg (K.cleanSteps j) := by
  have hmissing : (if l.filter (fun m => !(s.contribsOf j g n).any fun x => x.node == m) ≠ [] then 8 else 0) = 0 ↔
      ∀ m ∈ l, ∃ x ∈ s.contribsOf j g n, x.node = m := by
    simp [List.filter_eq_nil_iff]
  have hmism : (if (s.contribsOf j g n).any fun x => x.scale != s.reg (K.lossScale j) || x.clean != s.reg (K.cleanSteps j) then 16 else 0) = 0 ↔
      ∀ x ∈ s.contribsOf j g n, x.scale = s.reg (K.lossScale j) ∧ x.clean = s.reg (K.cleanSteps j) := by
    simp
  rw [State.agreeCause, Nat.add_eq_zero_iff, Nat.add_eq_zero_iff, foldl_or_eq_zero, hmissing, hmism]
  constructor
  · rintro ⟨⟨⟨-, hflags⟩, hall⟩, hsame⟩
    exact ⟨hall, fun x hx => ⟨hflags x hx, hsame x hx⟩⟩
  · rintro ⟨hall, hclean⟩
    exact ⟨⟨⟨rfl, fun x hx => (hclean x hx).1⟩, hall⟩, fun x hx => (hclean x hx).2⟩

/-- The record that the root decides: the step in front, and the result behind the epoch (R249). -/
theorem State.decision_eq (s : State) (j g n : Nat) (l : List Nat) : ∃ epoch rest, s.decision j g n l =
    leBytes 8 n ++ (leBytes 8 epoch ++ (leBytes 1 (if s.agreeCause j g n l = 0 then 0 else 1) ++ rest)) := by
  simp only [State.decision, resultRecord, List.append_assoc]
  exact ⟨_, _, rfl⟩

/-- The decided record names the step, and commits exactly on whole agreement. -/
theorem State.decision_fields (s : State) (j g n : Nat) (l : List Nat) :
    (nb (s.decision j g n l) 16 1 = 0 ↔ s.agreeCause j g n l = 0) ∧ nb (s.decision j g n l) 0 8 = n % 2 ^ 64 := by
  obtain ⟨epoch, rest, h⟩ := s.decision_eq j g n l
  rw [h, nb_leBytes_front_mod, nb_leBytes_behind (by decide), nb_leBytes_behind (by decide), nb_leBytes_front (by split <;> decide)]
  refine ⟨?_, rfl⟩
  split <;> simp [*]

/-! ### AGREE (R154, R234, R247, R252) -/

/-- What an AGREE that may issue finds: its step open, its earlier clauses ended, and its group's list. -/
structure AgreeReady (s : State) (n : Nat) (c : QCmd) (cl : Clause) (t : Step) (l : List Nat) : Prop where
  issue : s.mayIssue ⟨.fabric, n⟩ c cl
  unit : cl.unit = n
  op : isFab 0x71 0 c.word = true
  fields : reservedSet c.word [(0, 8), (32, 8), (48, 16), (192, 64)] = false
  step : (s.started ⟨.fabric, n⟩ c cl).stepOf cl.job (fabArg c.word) = some t
  ended : (s.started ⟨.fabric, n⟩ c cl).earlierOpen cl (fabArg c.word) = false
  group : (s.started ⟨.fabric, n⟩ c cl).groupOf cl.job (fabGroup c.word) = .ok l
  flushed : t.state = .flushing ∧ (s.started ⟨.fabric, n⟩ c cl).flushOver t = true ∨ t.state = .abandoned

section Agree

variable {s : State} {n : Nat} {c : QCmd} {cl : Clause} {t : Step} {l : List Nat}

/-- The body of such an AGREE sends the module's contribution. -/
theorem AgreeReady.runAgree (h : AgreeReady s n c cl t l) : Machine.runAgree (s.started ⟨.fabric, n⟩ c cl) c cl none =
    .busy ((s.started ⟨.fabric, n⟩ c cl).contribute n c cl t l) { progress := 0, pos := 2 * rootOf l, waits := [] } := by
  obtain ⟨_, hunit, _, hfields, hstep, hended, hgroup, hover⟩ := h
  unfold Machine.runAgree
  dsimp only
  rw [decoded_of_all_pass _ _ (by simpa [stepChecks] using hfields)]
  simp only [hstep, hended, Bool.false_eq_true, if_false, hgroup, onAcc_ok, hunit]
  rcases hover with ⟨hstate, hflush⟩ | hstate
  · simp only [hstate, hflush, if_true]
  · simp only [hstate]

/-- Its issue leaves it in execution. -/
theorem AgreeReady.issued (h : AgreeReady s n c cl t l) : s.issue ⟨.fabric, n⟩ (isFab 0x71 0) none Machine.runAgree =
    ((s.started ⟨.fabric, n⟩ c cl).contribute n c cl t l).modQueue ⟨.fabric, n⟩ fun Q => { Q with
      infl := some { progress := 0, pos := 2 * rootOf l, waits := [] } } := by
  rw [State.issue_ready h.issue _ h.op]
  simp only [faultOf_none, h.runAgree]
  rfl

end Agree

/-- A result that no AGREEING step waits for is left (R236, R248). -/
theorem State.applyResult_of_not_agreeing {s : State} {j : Nat} {body : List Byte}
    (h : ∀ t, s.stepOf j (nb body 0 8) = some t → t.state ≠ .agreeing) : s.applyResult j body = s := by
  unfold State.applyResult
  split
  · rfl
  · next t ht => exact if_pos (h t ht)

/-- Settles O17: the flush is inserted where the AGREE stands ahead with its step OPEN; where it issues, its contribution departs; the
decision's cause is 0 exactly on whole agreement; and a result finds no AGREEING step a second time. -/
theorem stepsAgree : Obligations.StepsAgree := by
  refine ⟨⟨fun s n cl t hahead hopened => congrArg (finish s) ?_, ?_⟩, fun s j g n l => ?_,
    fun s j body h => State.applyResult_of_not_agreeing h⟩
  · simp only [insertedFlush, hahead, hopened, ne_eq, not_true_eq_false, if_false]
  · intro s n c cl t l hissue hunit hop hfields
    dsimp only
    intro hstep hended hgroup hover
    have hready : AgreeReady s n c cl t l := ⟨hissue, hunit, hop, hfields, hstep, hended, hgroup, hover⟩
    refine ⟨congrArg (finish s) (by rw [hready.issued]), fun hahead hflushing hflush => congrArg (finish s) ?_⟩
    simp only [insertedFlushDone, hahead, hflushing, hflush, and_self, if_true, hready.issued]
  · obtain ⟨hresult, hnumber⟩ := s.decision_fields j g n l
    exact ⟨hresult.trans (s.agreeCause_eq_zero j g n l), hnumber⟩

end Sys2Proof.Machine
end

section
/-! SUPPORT and PROOFS. Entries that act when written, and snapshots (R312, R346, R400, R408, R460, R464 to R466, R469). -/

namespace Sys2Proof.Machine

/-! ### Writes of the dictionary -/

/-- A served item whose value passes the checks and which its entry's rules allow is what the entry does. -/
theorem State.odRow_of_entry {s t : State} {idx sub : Nat} {v : OdVal} (hserved : s.dictServed v.path = true)
    (hok : (s.wake (.core 3)).writeChecks v.path idx sub v.ty v.bytes = .ok)
    (hentry : (s.wake (.core 3)).writeEntry idx sub (leNat v.bytes) v.bytes = some t) : s.odRow idx sub v = t := by
  rw [State.odRow_of_checks_ok hserved hok, hentry]; rfl

/-- Subindices 10 to 17 of a counted unit's index are its selects. -/
theorem State.writeEntry_select (s : State) {u c : Nat} (hu : u < 0x53) (n : Nat) (b : List Byte) :
    s.writeEntry (0x2880 + u) (0x0A + c) n b = s.writeSelect u c n := by
  have harea : (0x2880 + u) / 256 = 0x28 := by omega
  have hselect : s.writeCounters (0x2880 + u) (0x0A + c) n = s.writeSelect u c n := by
    unfold State.writeCounters
    rw [if_pos (by omega), if_neg (by omega), Nat.add_sub_cancel_left, Nat.add_sub_cancel_left]
  simp only [State.writeEntry, harea, hselect]

/-- Neither above what was produced nor back, a consumed count is taken. -/
theorem State.writeConsumed_some {s : State} {n : Nat} (hlo : s.reg K.smpConsumed ≤ n) (hhi : n ≤ s.reg K.smpProduced) :
    s.writeConsumed n = some (s.setReg K.smpConsumed n) := if_neg (by omega)

/-- The node ID is written where no job is resident. -/
theorem State.writeEntry_nodeId {s : State} {n : Nat} (hfree : s.anyResident = false) (hn : n < 16384) (b : List Byte) :
    s.writeEntry 0x2700 1 n b = some (s.setReg K.nodeId n) := by
  have hallowed : (!s.anyResident && decide (n < 16384)) = true := by simp [hfree, hn]
  exact if_pos hallowed

/-- Deep idle begins where no job is resident and no port is UP. -/
theorem State.writeDeepIdle_some {s : State} {n : Nat} (hn : n ≠ 0) (hfree : s.anyResident = false)
    (hports : ∀ p < 16, s.reg (K.portState p) ≠ psUp) : s.writeDeepIdle n = some ((s.setReg K.deepIdle 1).restIfAllNap) := by
  have hup : ((List.range 16).any fun p => s.reg (K.portState p) == psUp) = false :=
    List.any_eq_false.2 fun p hp => by simpa using hports p (List.mem_range.1 hp)
  rw [State.writeDeepIdle, if_neg hn, if_neg (by simp [hfree, hup])]

/-! ### A snapshot (R464) -/

/-- What every step of a fold establishes at one element, under a relation every step keeps, the fold establishes. -/
theorem foldl_establishes {α β : Type} {f : α → β → α} {Q P : α → Prop} {x : β} :
    ∀ (l : List β), (∀ t, ∀ y ∈ l, Q t → Q (f t y)) → (∀ t, ∀ y ∈ l, Q t → y = x ∨ P t → P (f t y)) →
      ∀ t, Q t → x ∈ l ∨ P t → P (l.foldl f t) := by
  intro l
  induction l with
  | nil => exact fun _ _ t _ hor => hor.resolve_left List.not_mem_nil
  | cons y l ih =>
    intro hkeep hstep t hQ hor
    refine ih (fun t z hz => hkeep t z (List.mem_cons_of_mem _ hz)) (fun t z hz => hstep t z (List.mem_cons_of_mem _ hz)) _
      (hkeep t y List.mem_cons_self hQ) ?_
    have hhead : y = x ∨ P t → P (f t y) := hstep t y List.mem_cons_self hQ
    rcases hor with hmem | hP
    · rcases List.mem_cons.1 hmem with rfl | hmem
      · exact .inr (hhead (.inl rfl))
      · exact .inl hmem
    · exact .inr (hhead (.inr hP))

/-- Every entry that is no counter's shadow has its value in both states. -/
def SameButShadows (s t : State) : Prop := ∀ k, (∀ u c, c < 8 → k ≠ K.ctrCountShadow u c) → t.reg k = s.reg k

/-- A shadow's entry is one counter's alone. -/
theorem ctrCountShadow_inj {u c u' c' : Nat} (hc : c < 8) (hc' : c' < 8) (h : K.ctrCountShadow u c = K.ctrCountShadow u' c') :
    u = u' ∧ c = c' := by
  simp only [K.ctrCountShadow] at h; omega

/-- A live count is no shadow. -/
theorem ctrCount_ne_shadow {u c : Nat} (hc : c < 8) (u' c' : Nat) (hc' : c' < 8) : K.ctrCount u c ≠ K.ctrCountShadow u' c' := by
  simp only [K.ctrCount, K.ctrCountShadow]; omega

/-- A select is no shadow. -/
theorem ctrSelect_ne_shadow {u c : Nat} (hc : c < 8) (u' c' : Nat) (hc' : c' < 8) : K.ctrSelect u c ≠ K.ctrCountShadow u' c' := by
  simp only [K.ctrSelect, K.ctrCountShadow]; omega

/-- Whether a counter counts cycles does not depend on the shadows. -/
theorem SameButShadows.countsCycles {s t : State} (h : SameButShadows s t) (u c : Nat) (hc : c < 8) :
    t.countsCycles u c = s.countsCycles u c := by
  simp only [State.countsCycles, h _ (ctrSelect_ne_shadow hc)]

/-- What a shadow takes does not depend on the shadows. -/
theorem SameButShadows.shadowOf {s t : State} (h : SameButShadows s t) (u c : Nat) (hc : c < 8) : t.shadowOf u c = s.shadowOf u c := by
  rw [State.shadowOf, State.shadowOf, h.countsCycles u c hc, h _ (ctrCount_ne_shadow hc)]

/-- Setting a shadow changes no other entry. -/
theorem SameButShadows.setShadow {s t : State} (h : SameButShadows s t) {u c : Nat} (hc : c < 8) (v : Nat) :
    SameButShadows s (t.setReg (K.ctrCountShadow u c) v) := fun k hk => by
  rw [State.reg_setReg_ne _ _ _ _ (hk u c hc).symm, h k hk]

/-- Copying a unit changes shadows alone. -/
theorem SameButShadows.copyUnit {s t : State} (h : SameButShadows s t) (u : Nat) : SameButShadows s (t.copyUnit u) := by
  refine List.foldlRecOn (motive := SameButShadows s) _ _ h fun t ht c hc => ?_
  exact ht.setShadow (List.mem_range.1 hc) _

/-- Copying units changes shadows alone. -/
theorem sameButShadows_copyUnits (s : State) (l : List Nat) : SameButShadows s (l.foldl State.copyUnit s) :=
  List.foldlRecOn (motive := SameButShadows s) _ _ (fun _ _ => rfl) fun _ ht u _ => ht.copyUnit u

/-- A shadow set to its counter's value: that counter's shadow has it, and one that held its value still does. -/
theorem SameButShadows.setShadow_reg {s t : State} (h : SameButShadows s t) {u c u' c' : Nat} (hc : c < 8) (hc' : c' < 8)
    (hor : (u' = u ∧ c' = c) ∨ t.reg (K.ctrCountShadow u c) = s.shadowOf u c) :
    (t.setReg (K.ctrCountShadow u' c') (t.shadowOf u' c')).reg (K.ctrCountShadow u c) = s.shadowOf u c := by
  by_cases hsame : K.ctrCountShadow u' c' = K.ctrCountShadow u c
  · obtain ⟨rfl, rfl⟩ := ctrCountShadow_inj hc' hc hsame
    rw [State.reg_setReg, h.shadowOf _ _ hc']
  · rw [State.reg_setReg_ne _ _ _ _ hsame]
    exact hor.resolve_left fun ⟨hu, hcc⟩ => hsame (by rw [hu, hcc])

/-- A unit copied: the shadows of its counters have their values, and one that held its value still does. -/
theorem SameButShadows.copyUnit_reg {s t : State} (h : SameButShadows s t) {u c u' : Nat} (hc : c < 8)
    (hor : u' = u ∨ t.reg (K.ctrCountShadow u c) = s.shadowOf u c) :
    (t.copyUnit u').reg (K.ctrCountShadow u c) = s.shadowOf u c := by
  have hset : ∀ t, ∀ c' ∈ List.range 8, SameButShadows s t →
      SameButShadows s (t.setReg (K.ctrCountShadow u' c') (t.shadowOf u' c')) :=
    fun t c' hc' ht => ht.setShadow (List.mem_range.1 hc') _
  rcases hor with rfl | hheld
  · exact foldl_establishes (List.range 8) hset
      (fun t c' hc' ht hor => ht.setShadow_reg hc (List.mem_range.1 hc') (hor.imp_left fun h => ⟨rfl, h⟩)) t h
      (.inl (List.mem_range.2 hc))
  · exact (List.foldlRecOn (motive := fun t => SameButShadows s t ∧ t.reg (K.ctrCountShadow u c) = s.shadowOf u c) _ _ ⟨h, hheld⟩
      fun t ht c' hc' => ⟨hset t c' hc' ht.1, ht.1.setShadow_reg hc (List.mem_range.1 hc') (.inr ht.2)⟩).2

/-- Units copied: the shadows of each one's counters have their values. -/
theorem copyUnits_reg (s : State) {l : List Nat} {u c : Nat} (hu : u ∈ l) (hc : c < 8) :
    (l.foldl State.copyUnit s).reg (K.ctrCountShadow u c) = s.shadowOf u c :=
  foldl_establishes (Q := SameButShadows s) (x := u) l (fun _ _ _ ht => ht.copyUnit _) (fun _ _ _ ht hor => ht.copyUnit_reg hc hor) s
    (fun _ _ => rfl) (.inl hu)

/-- A snapshot of a tick that had none before: the units copied, then the snapshot's own entries. -/
theorem State.takeSnapshot_eq {s : State} (hnew : s.reg K.snapshotACycles = 0 ∨ s.reg K.snapshotTick ≠ s.tick + 1) :
    let t := (countedUnits.filter fun u => s.countedPresent u).foldl State.copyUnit s
    s.takeSnapshot = ((t.setReg K.snapshotTick (s.tick + 1)).setReg K.snapshotACycles (t.free + 1)).bump32 K.snapshotSeq 1 :=
  if_neg fun ⟨hcycles, htick⟩ => hnew.elim hcycles (fun h => h htick)

/-- The snapshot's own entries are no shadows. -/
theorem snapshotEntry_ne_shadow {k : Nat} (hk : k ≤ K.snapshotSeq) (u c : Nat) : k ≠ K.ctrCountShadow u c := by
  simp only [K.snapshotSeq, K.ctrCountShadow] at *; omega

/-- Settles O35: each write goes through the checks to its entry's own rule; copying a unit changes shadows alone, so every shadow takes
what its counter held before the snapshot. -/
theorem entriesAndSnapshotsAct : Obligations.EntriesAndSnapshotsAct := by
  unfold Obligations.EntriesAndSnapshotsAct
  refine ⟨fun s v hserved => ?_, fun s hpow hperiod => ?_, fun s hnew => ?_, fun s u c hnew hu hc hpresent hcycles => ?_⟩
  · dsimp only
    have hrow : ∀ {idx sub : Nat} {t : State}, (s.wake (.core 3)).writeChecks v.path idx sub v.ty v.bytes = .ok →
        (s.wake (.core 3)).writeEntry idx sub (leNat v.bytes) v.bytes = some t → finish s (s.odRow idx sub v) = .next (settle s t) :=
      fun hok hentry => congrArg (finish s) (State.odRow_of_entry hserved hok hentry)
    refine ⟨fun k c hk _ hok hdef => ?_, fun hok => ?_, fun hok hlo hhi => ?_, fun hok => ?_, fun hok hone => ?_, fun hok hfree hn => ?_,
      fun hok => ?_, fun hok => ⟨fun hzero => ?_, fun hn hfree hports => ?_⟩⟩
    · exact hrow hok ((State.writeEntry_select _ hk _ _).trans (if_pos hdef))
    · exact hrow hok rfl
    · exact hrow hok (State.writeConsumed_some hlo hhi)
    · exact hrow hok rfl
    · exact hrow hok (congrArg some (if_pos hone))
    · exact hrow hok (State.writeEntry_nodeId hfree hn _)
    · exact hrow hok rfl
    · exact hrow hok (if_pos hzero)
    · exact hrow hok (State.writeDeepIdle_some hn hfree hports)
  · have hon : s.powered = true ∧ s.reg K.snapshotPeriod ≠ 0 := ⟨hpow, hperiod⟩
    exact congrArg (finish s) (if_pos hon)
  · rw [State.takeSnapshot_eq hnew]
    constructor
    · rw [State.reg_bump32_ne _ _ _ _ (by decide), State.reg_setReg_ne _ _ _ _ (by decide), State.reg_setReg]
    · rw [State.reg_bump32, State.reg_setReg_ne _ _ _ _ (by decide), State.reg_setReg_ne _ _ _ _ (by decide),
        sameButShadows_copyUnits s _ _ fun u c _ => snapshotEntry_ne_shadow (Nat.le_refl _) u c]
  · have hlisted : u ∈ countedUnits.filter fun u => s.countedPresent u := List.mem_filter.2 ⟨hu, hpresent⟩
    rw [State.takeSnapshot_eq hnew, State.reg_bump32_ne _ _ _ _ (snapshotEntry_ne_shadow (Nat.le_refl _) u c),
      State.reg_setReg_ne _ _ _ _ (snapshotEntry_ne_shadow (by decide) u c),
      State.reg_setReg_ne _ _ _ _ (snapshotEntry_ne_shadow (by decide) u c), copyUnits_reg s hlisted hc, State.shadowOf, hcycles]
    rfl

end Sys2Proof.Machine
end

section
/-! SUPPORT and PROOFS. Map requests (R278). -/

namespace Sys2Proof.Machine

/-! ### A request that breaks a rule leaves every mapping (R278) -/

/-- A map either is done or leaves the state. -/
theorem State.mapRange_refused {s : State} {j : Nat} {r : MapReq} (h : (s.mapRange j r).1 ≠ 0) : (s.mapRange j r).2 = s := by
  revert h
  unfold State.mapRange
  dsimp only
  split
  · exact fun _ => rfl
  · split
    · split
      · exact fun _ => rfl
      · split
        · exact fun h => absurd rfl h
        · exact fun _ => rfl
    · exact fun h => absurd rfl h

/-- An unmap either is done or leaves the state. -/
theorem State.unmapRange_refused {s : State} {j : Nat} {r : MapReq} (h : (s.unmapRange j r).1 ≠ 0) : (s.unmapRange j r).2 = s := by
  revert h
  unfold State.unmapRange
  dsimp only
  split
  · exact fun _ => rfl
  split
  · exact fun _ => rfl
  split
  · exact fun _ => rfl
  split
  · exact fun _ => rfl
  · exact fun h => absurd rfl h

/-- A view either is made or leaves the state. -/
theorem State.aliasRange_refused {s : State} {j : Nat} {r : MapReq} (h : (s.aliasRange j r).1 ≠ 0) : (s.aliasRange j r).2 = s := by
  revert h
  unfold State.aliasRange
  extract_lets span homes
  split
  · exact fun _ => rfl
  split
  · exact fun _ => rfl
  split
  · exact fun _ => rfl
  · exact fun h => absurd rfl h

/-- A retarget either is done or leaves the state. -/
theorem State.retargetRange_refused {s : State} {j : Nat} {r : MapReq} (h : (s.retargetRange j r).1 ≠ 0) :
    (s.retargetRange j r).2 = s := by
  revert h
  unfold State.retargetRange
  dsimp only
  split
  · exact fun _ => rfl
  · exact fun h => absurd rfl h

/-- A request with a status other than done leaves the state. -/
theorem State.mapRequest_refused {s : State} {op j : Nat} {r : MapReq} (h : (s.mapRequest op j r).1 ≠ 0) :
    (s.mapRequest op j r).2 = s := by
  revert h
  unfold State.mapRequest
  dsimp only
  split
  · exact fun _ => rfl
  split
  · exact fun _ => rfl
  split
  · exact fun _ => rfl
  split
  · exact State.mapRange_refused
  · exact State.unmapRange_refused
  · exact State.aliasRange_refused
  · exact State.retargetRange_refused

/-! ### A sound request -/

/-- The fields of a map request that R278 asks of every operation. -/
structure SoundRequest (r : MapReq) : Prop where
  reserved : r.reserved = 0
  size : r.size ≤ 2
  tier : r.tier ≠ 3
  pin : ¬ (r.pin = true ∧ r.size ≠ 0)
  srcJob : r.srcJob ≤ 63
  place : r.va % mapSpan r.size = 0
  some : 0 < r.length
  whole : r.length % mapSpan r.size = 0
  inside : r.va + r.length ≤ 2 ^ 48

/-- What R278 asks of the source of a view. -/
structure SoundView (r : MapReq) : Prop where
  readOnly : r.write = false
  place : r.srcVa % mapSpan r.size = 0
  inside : r.srcVa + r.length ≤ 2 ^ 48

/-- The operation of a map request, without the checks common to all. -/
def State.mapWork (s : State) (op j : Nat) (r : MapReq) : Nat × State :=
  match op with
  | 1 => s.mapRange j r
  | 2 => s.unmapRange j r
  | 3 => s.aliasRange j r
  | _ => s.retargetRange j r

/-- A sound request passes the checks of R278, and its operation does the rest. -/
theorem State.mapRequest_sound (s : State) (j : Nat) {op : Nat} {r : MapReq} (h : SoundRequest r) (hop : 1 ≤ op ∧ op ≤ 4)
    (hview : op = 3 → SoundView r) : s.mapRequest op j r = s.mapWork op j r := by
  obtain ⟨hreserved, hsize, htier, hpin, hsrc, hplace, hsome, hwhole, hinside⟩ := h
  have hwrite : op = 3 → r.write = false := fun h => (hview h).readOnly
  have hsource : op = 3 → r.srcVa % mapSpan r.size = 0 ∧ r.srcVa + r.length ≤ 2 ^ 48 := fun h => ⟨(hview h).place, (hview h).inside⟩
  unfold State.mapRequest
  dsimp only
  rw [if_neg (not_not_intro hreserved), if_neg, if_neg]
  · rfl
  · simp [hplace, hwhole, Nat.ne_of_gt hsome]
    omega
  · simp [hop, hsize, htier, hsrc]
    grind

/-- A sound request that core 3 serves while none is in progress does its work and leaves its status. -/
theorem State.mapRow_sound {s : State} {j op : Nat} {p : Path} {r : MapReq} {x : Nat × State} (hserved : s.dictServed p = true)
    (hidle : (s.wake (.core 3)).reg (K.mapStatus j) ≠ 1) (hwork : (s.wake (.core 3)).mapRequest op j r = x) :
    s.mapRow op j p r = x.2.setReg (K.mapStatus j) x.1 := by
  have hwrite : (s.wake (.core 3)).writeMap j op r = some ((s.wake (.core 3)).doMap op j r) := if_neg hidle
  rw [State.mapRow, if_neg (by simp [hserved])]
  dsimp only
  rw [hwrite]
  dsimp only
  rw [State.doMap, hwork]

/-! ### An ordinary map -/

/-- Leaves added stand behind those that were there, in their order. -/
theorem foldl_addLeaf_leaves {α : Type} (f : α → Leaf) (l : List α) (s : State) :
    (l.foldl (fun s a => s.addLeaf (f a)) s).mem.leaves = s.mem.leaves ++ l.map f := by
  induction l generalizing s with
  | nil => simp
  | cons a l ih => rw [List.foldl_cons, ih, State.addLeaf, State.modMem, List.map_cons, List.append_assoc]; rfl

/-- Settles O38: a sound request passes every check of R278 to its operation; each operation that is not done answers the state as it
was. -/
theorem mapRequestsTakeEffect : Obligations.MapRequestsTakeEffect := by
  unfold Obligations.MapRequestsTakeEffect
  refine ⟨fun s j p r hserved => ?_, fun s j op r _ _ h => State.mapRequest_refused h, fun s j r hsize hpin hfree => ?_⟩
  · dsimp only
    intro hidle hreserved hsize htier hpin hsrc hplace hsome hwhole hinside
    have hsound : SoundRequest r := ⟨hreserved, hsize, htier, hpin, hsrc, hplace, hsome, hwhole, hinside⟩
    have hdone : ∀ {op : Nat} {x : Nat × State}, (s.wake (.core 3)).mapRequest op j r = x →
        finish s (s.mapRow op j p r) = .next (settle s (x.2.setReg (K.mapStatus j) x.1)) :=
      fun hwork => congrArg (finish s) (State.mapRow_sound hserved hidle hwork)
    refine ⟨hdone ?_, hdone ?_, fun hwrite hplace hinside => hdone ?_, hdone ?_⟩
    · exact State.mapRequest_sound _ j hsound (by decide) (fun h => absurd h (by decide))
    · exact State.mapRequest_sound _ j hsound (by decide) (fun h => absurd h (by decide))
    · exact State.mapRequest_sound _ j hsound (by decide) fun _ => ⟨hwrite, hplace, hinside⟩
    · exact State.mapRequest_sound _ j hsound (by decide) (fun h => absurd h (by decide))
  · have hspan : mapSpan r.size = 65536 := by rw [hsize]; rfl
    rw [State.mapRange]
    rw [if_neg (by simp [hfree]), if_neg (by simp [hsize, hpin]), hspan]
    exact ⟨rfl, by rw [foldl_addLeaf_leaves, List.map_map]; rfl⟩

end Sys2Proof.Machine
end

section
/-! SUPPORT and PROOFS. Job commands, checkpoints, the scrub and the restore (R271, R364, R383, R493). -/

namespace Sys2Proof.Machine

/-! ### Requests and the entries of sending (R315, R344) -/

/-- A request's frame changes no entry but those that sending counts. -/
theorem State.sendReqFrame_reg (s : State) (r : Req) {i : Nat} (hi : ¬ SentEntry i) : (s.sendReqFrame r).reg i = s.reg i := by
  have hnow (t : State) : (t.sendReqNow r).reg i = t.reg i := by
    unfold State.sendReqNow
    dsimp only
    split
    · rfl
    · next hport => exact State.portSend_reg _ (State.portFor_lt hport) _ _ hi
  unfold State.sendReqFrame
  dsimp only
  split
  · rfl
  split
  · rfl
  · exact hnow _

/-- A request changes no entry but those that sending counts. -/
theorem State.request_reg (s : State) (what job : Nat) (owner : QueueId) (xid node addr arg dst : Nat) (data : List Byte) {i : Nat}
    (hi : ¬ SentEntry i) : (s.request what job owner xid node addr arg dst data).reg i = s.reg i := by
  unfold State.request
  dsimp only
  rw [State.sendReqFrame_reg _ _ hi]
  split
  · exact State.dropFar_keeps (·.reg i) (fun _ _ => rfl) _ _ _ _
  · rfl

/-- Bytes written far change no entry but those that sending counts. -/
theorem State.putFar_reg (s : State) (j node addr : Nat) (bs : List Byte) {i : Nat} (hi : ¬ SentEntry i) :
    (s.putFar j node addr bs).reg i = s.reg i :=
  foldl_keeps (fun t : State => t.reg i) _ (fun t _ => State.request_reg t _ _ _ _ _ _ _ _ _ hi) _ _

/-! ### The scrub (R383) -/

/-- The session's state is none of the entries of sending. -/
theorem sessionState_not_sent : ¬ SentEntry K.sessionState := by
  simp only [SentEntry, CounterEntry, K.sessionState, K.fabFramesTx, K.portBytesTx]
  rintro (h | ⟨p, hp, h⟩ | h) <;> omega

/-- A data quota's use is not the session's state. -/
theorem dataUsed_ne_sessionState (tier j : Nat) : dataUsed tier j ≠ K.sessionState := by
  unfold dataUsed
  split <;> simp only [K.t0DataUsed, K.t1DataUsed, K.t2DataUsed, K.sessionState] <;> omega

/-- A place given back changes no entry. -/
theorem State.freeTierPlace_reg (s : State) (tier place i : Nat) : (s.freeTierPlace tier place).reg i = s.reg i := by
  unfold State.freeTierPlace
  split <;> rfl

theorem State.freePlace_reg (s : State) (l : Leaf) (i : Nat) : (s.freePlace l).reg i = s.reg i := by
  unfold State.freePlace
  split
  · rfl
  · split <;> rfl

/-- A page move given up leaves the session. -/
theorem State.abandonMove_session (s : State) (m : PageMove) : (s.abandonMove m).reg K.sessionState = s.reg K.sessionState := by
  have hplace : ((s.dropMove m).freeTierPlace m.dstTier m.dst).reg K.sessionState = s.reg K.sessionState :=
    State.freeTierPlace_reg _ _ _ _
  have hleaf (t : State) (f : Leaf → Leaf) : (t.modLeaf m.job m.va f).reg K.sessionState = t.reg K.sessionState := rfl
  unfold State.abandonMove
  rw [hleaf]
  split
  · exact hplace
  · exact (State.reg_setReg_ne _ _ _ _ (dataUsed_ne_sessionState _ _)).trans hplace

theorem State.zeroFrames_reg (s : State) (f n i : Nat) : (s.zeroFrames f n).reg i = s.reg i := by
  unfold State.zeroFrames
  refine foldl_keeps (fun t : State => t.reg i) _ (fun _ _ => ?_) _ _
  rfl

theorem State.dropListSlots_reg (s : State) (j i : Nat) : (s.dropListSlots j).reg i = s.reg i := by
  unfold State.dropListSlots
  refine foldl_keeps (fun t : State => t.reg i) _ (fun _ _ => ?_) _ _
  rfl

/-- A page move of a job scrubbed leaves the session. -/
theorem State.scrubMove_session (s : State) (m : PageMove) : (s.scrubMove m).reg K.sessionState = s.reg K.sessionState := by
  unfold State.scrubMove
  dsimp only
  split
  · exact s.abandonMove_session m
  · split
    · exact State.freeTierPlace_reg _ _ _ _
    · exact State.freeTierPlace_reg _ _ _ _

/-- A page of a job scrubbed leaves the session. -/
theorem State.scrubLeaf_session (s : State) (l : Leaf) : (s.scrubLeaf l).reg K.sessionState = s.reg K.sessionState := by
  unfold State.scrubLeaf
  split
  · rfl
  split
  · exact State.zeroFrames_reg _ _ _ _
  · rfl
  · exact State.putFar_reg _ _ _ _ _ sessionState_not_sent

/-- The pages of a job scrubbed leave the session. -/
theorem State.scrubMemory_session (s : State) (j : Nat) : (s.scrubMemory j).reg K.sessionState = s.reg K.sessionState := by
  unfold State.scrubMemory
  dsimp only
  refine (foldl_keeps (fun t : State => t.reg K.sessionState) _ (fun t l => ?_) _ _).trans
    ((State.dropListSlots_reg _ _ _).trans
      (foldl_keeps (fun t : State => t.reg K.sessionState) _ (fun t m => t.scrubMove_session m) _ _))
  refine (State.freePlace_reg _ _ _).trans ((State.scrubLeaf_session _ _).trans ?_)
  split <;> rfl

/-- The tables of a job evicted change no entry. -/
theorem State.evictList_reg (s : State) (j i : Nat) : (s.evictList j).reg i = s.reg i := by
  unfold State.evictList
  refine foldl_keeps (fun t : State => t.reg i) _ (fun t k => ?_) _ _
  split <;> rfl

/-- What a job's scrub clears: all it has in memory, in the units and in the fabric, and its entries. -/
def State.scrubbed (s : State) (j : Nat) : State :=
  let t := (((s.evictList j).scrubMemory j).scrubUnits j).scrubFabric j
  { t with regs := t.regs.filter fun r => !jobIndex j (r.1 / 256) }

/-- Entries of a list that are filtered out read their default. -/
theorem cellGet_filter_of_not (d k : Nat) (p : Nat × Nat → Bool) (hk : ∀ v, p (k, v) = false) (l : List (Nat × Nat)) :
    cellGet d k (l.filter p) = d := by
  induction l with
  | nil => rfl
  | cons c l ih =>
    obtain ⟨i, v⟩ := c
    rw [List.filter_cons]
    split
    · next hp =>
      have hne : i ≠ k := fun h => by rw [h, hk] at hp; exact absurd hp (by decide)
      exact (if_neg hne).trans ih
    · exact ih

/-- Entries that a filter keeps read as before. -/
theorem cellGet_filter_of (d k : Nat) (p : Nat × Nat → Bool) (hk : ∀ v, p (k, v) = true) (l : List (Nat × Nat)) :
    cellGet d k (l.filter p) = cellGet d k l := by
  induction l with
  | nil => rfl
  | cons c l ih =>
    obtain ⟨i, v⟩ := c
    rw [List.filter_cons]
    split
    · simp only [cellGet, ih]
    · next hp =>
      have hne : i ≠ k := fun h => hp (by rw [h]; exact hk v)
      exact ih.trans (if_neg hne).symm

/-- Every entry of a scrubbed job reads its reset value. -/
theorem State.scrubbed_reg (s : State) {j k : Nat} (hk : jobIndex j (k / 256) = true) : (s.scrubbed j).reg k = Dict.reset k :=
  cellGet_filter_of_not _ _ _ (fun _ => by simp [hk]) _

/-- A scrub leaves the session. -/
theorem State.scrubbed_session (s : State) {j : Nat} (hj : j < 64) : (s.scrubbed j).reg K.sessionState = s.reg K.sessionState := by
  have hother : jobIndex j (K.sessionState / 256) = false := by
    simp [jobIndex, K.sessionState]; omega
  have hunits (t : State) : ((t.scrubUnits j).scrubFabric j).regs = t.regs := rfl
  have hregs : (s.scrubbed j).regs = ((s.evictList j).scrubMemory j).regs.filter fun r => !jobIndex j (r.1 / 256) := by
    unfold State.scrubbed
    dsimp only
    rw [hunits]
  have hmemory : ((s.evictList j).scrubMemory j).reg K.sessionState = s.reg K.sessionState :=
    (State.scrubMemory_session _ _).trans (State.evictList_reg _ _ _)
  rw [State.reg, hregs, cellGet_filter_of _ _ _ (fun _ => by simp [hother])]
  exact hmemory

/-- No page of a job is left when its pages are scrubbed. -/
theorem State.scrubMemory_leaves (s : State) (j : Nat) : ∀ l ∈ (s.scrubMemory j).mem.leaves, l.job ≠ j := by
  unfold State.scrubMemory
  dsimp only
  generalize List.foldl _ _ _ = t
  intro l hl
  have hkept := (List.mem_filter.1 hl).2
  simp only [Bool.not_eq_true', Bool.or_eq_false_iff, beq_eq_false_iff_ne] at hkept
  exact hkept.1

/-- No page of a scrubbed job is left. -/
theorem State.scrubbed_leaves (s : State) (j : Nat) : ∀ l ∈ (s.scrubbed j).mem.leaves, l.job ≠ j :=
  State.scrubMemory_leaves (s.evictList j) j

/-- No record of a scrubbed job is left. -/
theorem State.scrubbed_jobs (s : State) (j : Nat) : ∀ c ∈ (s.scrubbed j).jobs, c.job ≠ j := by
  intro c hc
  have hkept := (List.mem_filter.1 hc).2
  simpa using hkept

/-- The end of a scrub outside the end of a session: the job's scrub alone. -/
theorem jobScrubDone_eq {s : State} {j : Nat} (hj : j < 64) (hpow : s.powered = true) (hstate : s.reg (K.jobState j) = jsReleasing)
    (hscrub : (s.job j).scrubbing = true) (hsession : s.reg K.sessionState ≠ ssReleasing) : jobScrubDone j s = s.scrubbed j := by
  have hrun : jobScrubDone j s = (s.scrubbed j).releaseOver := if_neg (by simp [hpow, hstate, hscrub])
  rw [hrun, State.releaseOver, if_pos (.inl (by rwa [State.scrubbed_session s hj]))]

/-- A job's entries are no derived ones. -/
theorem not_derived_of_jobIndex {j k : Nat} (hk : jobIndex j (k / 256) = true) : ¬ Derived k := by
  simp only [jobIndex, Bool.or_eq_true, Bool.and_eq_true, decide_eq_true_eq, beq_iff_eq] at hk
  simp only [Derived, K.alertStatus]
  omega

/-- The state of a job is one of its entries. -/
theorem jobIndex_jobState (j : Nat) : jobIndex j (K.jobState j / 256) = true := by
  simp only [jobIndex, K.jobState, Bool.or_eq_true, Bool.and_eq_true, decide_eq_true_eq]
  omega

/-- After reset every job is FREE. -/
theorem reset_jobState : ∀ j < 64, Dict.reset (K.jobState j) = jsFree := by decide +kernel

/-! ### The commands of a job (R364) -/

/-- The row of job_command in the dictionary. -/
def jobCommandEntry : Entry := ⟨0x3000, 16, 64, 0x2, 1, .u8, 1, .wo, 0, 0, 255, 1, 0xFF⟩

/-- Every job has its job_command. -/
theorem find_jobCommand : ∀ j < 64, Dict.find (0x3000 + 16 * j) 2 = some jobCommandEntry ∧ Dict.index (0x3000 + 16 * j) ≠ [] := by
  decide +kernel

/-- A write of job_command whose value is a command passes the checks of R475. -/
theorem State.writeChecks_jobCommand (s : State) (p : Path) {j v : Nat} (hj : j < 64) (hv : v ≤ 6) :
    s.writeChecks p (0x3000 + 16 * j) 2 2 (leBytes 1 v) = .ok := by
  obtain ⟨hfind, hindex⟩ := find_jobCommand j hj
  have hvalue : ∀ v ≤ 6, encodingOk jobCommandEntry 2 (leBytes 1 v) = true ∧ setsReserved jobCommandEntry 0 2 (leBytes 1 v) = false ∧
      inRange jobCommandEntry (leNat (leBytes 1 v)) = true := by decide +kernel
  obtain ⟨henc, hres, hrange⟩ := hvalue v hv
  have hpresent : s.indexAbsent (0x3000 + 16 * j) = false := by
    rw [State.indexAbsent, if_neg (by omega), if_neg (by omega), if_neg (by omega)]
  have hrole : ¬ s.roleOf p < jobCommandEntry.role := Nat.not_lt_zero _
  unfold State.writeChecks
  rw [if_neg hindex, hfind]
  dsimp only
  rw [if_neg hrole, if_neg (by decide), if_neg (by rw [henc]; decide), if_neg, if_neg (by rw [hpresent]; decide),
    if_pos hrange]
  exact fun h => absurd (hres.symm.trans h) (by decide)

/-- A command written to job_command is given to the job. -/
theorem State.writeEntry_jobCommand (s : State) {j v : Nat} (hj : j < 64) (hv : 1 ≤ v ∧ v ≤ 6) (b : List Byte) :
    s.writeEntry (0x3000 + 16 * j) 2 v b = some (s.jobCommand j v) := by
  have hjob : s.writeJob (0x3000 + 16 * j) 2 v = some (s.jobCommand j v) := by
    have hslot : (0x3000 + 16 * j) % 16 = 0 := by omega
    have hindex : (0x3000 + 16 * j - 0x3000) / 16 = j := by omega
    simp only [State.writeJob, State.writeControl, hslot, hindex, if_pos hv]
  have harea : (0x3000 + 16 * j) / 256 = 0x30 ∨ (0x3000 + 16 * j) / 256 = 0x31 ∨ (0x3000 + 16 * j) / 256 = 0x32 ∨
      (0x3000 + 16 * j) / 256 = 0x33 := by omega
  unfold State.writeEntry
  rcases harea with h | h | h | h <;> rw [h] <;> exact hjob

/-- A job command that core 3 serves is given to the job. -/
theorem State.jobRow_eq {s : State} {j v : Nat} {p : Path} (hj : j < 64) (hv : 1 ≤ v ∧ v ≤ 6) (hserved : s.dictServed p = true) :
    s.jobRow j v p = (s.wake (.core 3)).jobCommand j v := by
  have hvalue : leNat (leBytes 1 v) = v := by rw [leNat_leBytes]; exact Nat.mod_eq_of_lt (by omega)
  refine State.odRow_of_entry (v := ⟨p, 2, leBytes 1 v⟩) hserved (State.writeChecks_jobCommand _ _ hj hv.2) ?_
  dsimp only
  rw [hvalue, State.writeEntry_jobCommand _ hj hv]

/-- A command that the session and the job's state allow is done, and job_error says how it ended. -/
theorem State.jobCommand_allowed {s t : State} {j v e : Nat} (hopen : s.reg K.sessionState = ssOpen)
    (hfrom : s.reg (K.jobState j) ∈ commandFrom v) (hdo : (s.setReg (K.jobError j) 0).doCommand j v = (e, t)) :
    s.jobCommand j v = t.setReg (K.jobError j) e := by
  unfold State.jobCommand
  rw [if_neg (not_not_intro hopen), if_neg (by simpa using hfrom), hdo]

/-! ### The end of a checkpoint and a restore (R271, R383) -/

/-- A checkpoint under way all of whose writes are answered, and none refused, is over. -/
theorem checkpointDone_eq {s : State} {j : Nat} (hpow : s.powered = true) (hckpt : (s.job j).ckpt = true) (hend : (s.job j).ckptEnd ≠ 0)
    (hreqs : ∀ r ∈ s.fab.reqs, ¬ (r.what = 0x03 ∧ r.owner = coreOwner ∧ s.inCkpt j r.node r.addr = true))
    (hfail : ∀ x ∈ s.fab.farFail, s.inCkpt j x.1 x.2.1 = false) : checkpointDone j s = s.endCkpt j 0 := by
  have hout : (s.fab.reqs.any fun r => r.what == 0x03 && r.owner == coreOwner && s.inCkpt j r.node r.addr) = false :=
    List.any_eq_false.2 fun r hr => by simpa [and_assoc] using hreqs r hr
  have hnone : (s.fab.farFail.any fun x => s.inCkpt j x.1 x.2.1) = false :=
    List.any_eq_false.2 fun x hx => by rw [hfail x hx]; exact Bool.false_ne_true
  unfold checkpointDone
  rw [if_neg (by simp [hpow, hckpt]), if_neg hend, if_neg (by rw [hout]; exact Bool.false_ne_true), hnone]
  rfl

/-- Settles O40: a job command passes the checks of its entry and does its work from the states that allow it; a scrub filters out all
that is the job's and leaves the session's state. -/
theorem jobCommandsTakeEffect : Obligations.JobCommandsTakeEffect := by
  unfold Obligations.JobCommandsTakeEffect
  refine ⟨fun s j p hj hserved => ?_, fun s j hpow hckpt hend hreqs hfail => ?_, fun s j hj hpow hstate hscrub hsession => ?_,
    fun s t u j c l hpow hjob hread hrestore hderive => ?_⟩
  · dsimp only
    intro hopen
    have hdone : ∀ {v e : Nat} {t : State}, 1 ≤ v ∧ v ≤ 6 → (s.wake (.core 3)).reg (K.jobState j) ∈ commandFrom v →
        ((s.wake (.core 3)).setReg (K.jobError j) 0).doCommand j v = (e, t) →
        finish s (s.jobRow j v p) = .next (settle s (t.setReg (K.jobError j) e)) := fun hv hfrom hdo =>
      congrArg (finish s) ((State.jobRow_eq hj hv hserved).trans (State.jobCommand_allowed hopen hfrom hdo))
    refine ⟨fun hst => ?_, fun hst => ?_, fun hst => ?_, fun hst => ?_, fun hst hckpt hdest => ?_, fun hst => ?_⟩
    · have hfrom : (s.wake (.core 3)).reg (K.jobState j) ∈ commandFrom 1 := by rw [hst]; exact List.mem_cons_self
      split
      · next he => exact hdone (v := 1) (by decide) hfrom (by rw [State.doCommand, he, if_pos rfl])
      · next he => exact hdone (v := 1) (by decide) hfrom (by rw [State.doCommand, if_neg he])
    · have hfrom : (s.wake (.core 3)).reg (K.jobState j) ∈ commandFrom 2 := by rw [hst]; exact List.mem_cons_self
      split
      · next hok => exact hdone (v := 2) (by decide) hfrom (if_pos hok)
      · next hok => exact hdone (v := 2) (by decide) hfrom (if_neg hok)
    · exact hdone (v := 3) (by decide) (by rw [hst]; exact List.mem_cons_self) rfl
    · exact hdone (v := 4) (by decide) (by rw [hst]; exact List.mem_cons_self) rfl
    · exact hdone (v := 5) (by decide) (by simpa [commandFrom] using hst)
        (by rw [State.doCommand, hckpt, if_neg Bool.false_ne_true, if_neg hdest])
    · exact hdone (v := 6) (by decide) (by simpa [commandFrom] using hst) rfl
  · exact congrArg (finish s) (checkpointDone_eq hpow hckpt hend hreqs hfail)
  · refine ⟨settle s (s.scrubbed j), congrArg (finish s) (jobScrubDone_eq hj hpow hstate hscrub hsession), ?_, ?_, ?_, fun k hk => ?_⟩
    · rw [settle_reg _ _ _ (not_derived_of_jobIndex (jobIndex_jobState j)), State.scrubbed_reg _ (jobIndex_jobState j), reset_jobState j hj]
    · rw [settle_mem]; exact State.scrubbed_leaves s j
    · rw [settle_jobs]; exact State.scrubbed_jobs s j
    · rw [settle_reg _ _ _ (not_derived_of_jobIndex hk), State.scrubbed_reg _ hk]
  · refine congrArg (finish s) ?_
    unfold restore
    rw [if_neg (by simp [hpow, hjob]), hread]
    dsimp only
    rw [hrestore, accBind_ok, hderive]

end Sys2Proof.Machine
end

section
/-! SUPPORT and PROOFS. The checks of a dictionary item (R475, R476, R490). -/

namespace Sys2Proof.Machine

/-- An entry other than the debug token leaves no mark of its refusal. -/
theorem State.afterRefusal_of_ne {s : State} {idx sub : Nat} (h : 256 * idx + sub ≠ K.debugToken) : s.afterRefusal idx sub = s := if_neg h

/-- A served item that a check of R475 refuses is refused, remembered and counted. -/
theorem State.odRow_of_check_failed {s : State} {idx sub : Nat} {v : OdVal} {r : OdResult} (hserved : s.dictServed v.path = true)
    (hr : (s.wake (.core 3)).writeChecks v.path idx sub v.ty v.bytes = r) (hne : r ≠ .ok) :
    s.odRow idx sub v = ((s.wake (.core 3)).refuseItem r idx sub).afterRefusal idx sub := by
  rw [State.odRow, if_pos hserved, State.odWrite, hr]
  cases r
  case ok => exact absurd rfl hne
  all_goals rfl

/-- The checks after an index and a row were found, in their order (R475). -/
theorem State.writeChecks_of_find (s : State) (p : Path) {idx sub : Nat} (ty : Nat) (b : List Byte) {e : Entry}
    (hindex : Dict.index idx ≠ []) (hfind : Dict.find idx sub = some e) : s.writeChecks p idx sub ty b =
      if s.roleOf p < e.role then .role
      else if e.access = .ro ∨ e.access = .const then .access
      else if encodingOk e ty b = false then .typeMismatch
      else if setsReserved e idx sub b then .reservedNonzero
      else if s.indexAbsent idx then .unitAbsent
      else if inRange e (leNat b) then .ok
      else .refused := by
  rw [State.writeChecks, if_neg hindex, hfind]

/-- Settles O34: a write whose checks pass is its entry's work or a refusal, one that fails a check is refused, and each check stands
before the next in `writeChecks`. -/
theorem itemsAreCheckedAndApplied : Obligations.ItemsAreCheckedAndApplied := by
  unfold Obligations.ItemsAreCheckedAndApplied
  refine ⟨fun s idx sub v hserved hne => ?_, fun s p idx sub ty b => ⟨fun hindex => ?_, fun hindex hfind hsub => ?_, fun e hindex hfind => ?_⟩⟩
  · refine ⟨fun t hok hentry => ?_, fun hok hentry => ?_, fun r hr hrne => ?_⟩
    · exact congrArg (finish s) (State.odRow_of_entry hserved hok hentry)
    · refine congrArg (finish s) ((State.odRow_of_checks_ok hserved hok).trans ?_)
      rw [hentry]
      exact State.afterRefusal_of_ne hne
    · exact congrArg (finish s) ((State.odRow_of_check_failed hserved hr hrne).trans (State.afterRefusal_of_ne hne))
  · exact if_pos hindex
  · rw [State.writeChecks, if_neg hindex, hfind]
    exact if_neg hsub
  · rw [State.writeChecks_of_find s p ty b hindex hfind]
    refine ⟨fun hrole => if_pos hrole, fun hrole => ?_⟩
    rw [if_neg (Nat.not_lt.mpr hrole)]
    refine ⟨fun haccess => if_pos haccess, fun hro hconst => ?_⟩
    rw [if_neg (not_or.2 ⟨hro, hconst⟩)]
    refine ⟨fun henc => if_pos henc, fun henc => ?_⟩
    rw [if_neg (by simp [henc])]
    refine ⟨fun hres => if_pos hres, fun hres => ?_⟩
    rw [if_neg (by simp [hres])]
    exact ⟨fun habsent => if_pos habsent, fun hpresent hrange => by rw [if_neg (by simp [hpresent]), if_pos hrange]⟩

end Sys2Proof.Machine
end

section
/-! SUPPORT and PROOFS. The governor, the samples of the input and the die sensors (R376, R389, R393, R394, R401, R403). -/

namespace Sys2Proof.Machine

/-! ### What a module event leaves (R369) -/

/-- Frames that depart on the Ryeve link change the session's record alone. -/
theorem State.ryDrain_keeps {α : Type} (f : State → α) (hs : ∀ (s : State) (e : Sess), f { s with sess := e } = f s) (s : State) (fuel : Nat) :
    f (s.ryDrain fuel) = f s := by
  induction fuel generalizing s with
  | zero => rfl
  | succ fuel ih =>
    unfold State.ryDrain
    split
    · rfl
    · split
      · rfl
      · exact (ih _).trans (hs _ _)

/-- A data frame on the Ryeve link changes the session's record alone. -/
theorem State.rySend_keeps {α : Type} (f : State → α) (hs : ∀ (s : State) (e : Sess), f { s with sess := e } = f s) (s : State)
    (vc op status job tag : Nat) (payload : List Byte) : f (s.rySend vc op status job tag payload) = f s :=
  (State.ryDrain_keeps f hs _ _).trans (hs _ _)

/-- What the session window's bytes leave: unchanged when the window changes. -/
abbrev KeepsWindow {α : Type} (f : State → α) : Prop :=
  ∀ (s : State) (g : Mem → Mem), (∀ m, ∃ w, g m = { m with window := w }) → f (s.modMem g) = f s

/-- A module event changes the session's record, the session window and the count of lost events alone. -/
theorem State.postSession_keeps {α : Type} (f : State → α) (hr : ∀ s k v, f (State.setReg s k v) = f s)
    (hs : ∀ (s : State) (e : Sess), f { s with sess := e } = f s) (hw : KeepsWindow f) (s : State) (code job : Nat) (payload : List Byte) :
    f (s.postSession code job payload) = f s := by
  have hnotify (t : State) : f t.notifySession = f t := by
    unfold State.notifySession
    split
    · exact hs _ _
    · exact (State.rySend_keeps f hs _ _ _ _ _ _ _).trans (hs _ _)
  have hput (t : State) (code job : Nat) (payload : List Byte) : f (t.putSession code job payload) = f t := by
    unfold State.putSession
    exact (hnotify _).trans ((hs _ _).trans (hw _ _ fun _ => ⟨_, rfl⟩))
  have howed (t : State) : f t.owedSession = f t := by
    unfold State.owedSession
    split
    · exact (hs _ _).trans (hput _ _ _ _)
    · rfl
  unfold State.postSession
  dsimp only
  split
  · exact (hput _ _ _ _).trans (howed _)
  · exact (hs _ _).trans ((State.bump_keeps f hr _ _ _).trans (howed _))

@[simp] theorem State.postSession_gov (s : State) (code job : Nat) (payload : List Byte) : (s.postSession code job payload).gov = s.gov :=
  State.postSession_keeps (·.gov) (fun _ _ _ => rfl) (fun _ _ => rfl) (fun _ _ _ => rfl) s code job payload

/-! ### Samples of the input (R389, R394) -/

/-- A sample that the limiter counts changes no sample and no gate. -/
theorem State.limitSample_gov (s : State) : s.limitSample.gov.samples = s.gov.samples ∧ s.limitSample.gov.gateLimiter = s.gov.gateLimiter := by
  have hpost (t : State) : t.postLimit.gov.samples = t.gov.samples ∧ t.postLimit.gov.gateLimiter = t.gov.gateLimiter := by
    unfold State.postLimit
    split
    · exact ⟨rfl, rfl⟩
    · dsimp only
      rw [State.postSession_gov]
      exact ⟨rfl, rfl⟩
  unfold State.limitSample
  dsimp only
  split
  · exact hpost _
  · exact ⟨rfl, rfl⟩

/-- A sample that the limiter counts changes the counts of limited samples and of lost events alone. -/
theorem State.limitSample_reg (s : State) {i : Nat} (hlimiter : i ≠ K.limiterSamples) (hlost : i ≠ K.sessionEventsLost) :
    s.limitSample.reg i = s.reg i := by
  have hpost (t : State) : t.postLimit.reg i = t.reg i := by
    unfold State.postLimit
    split
    · rfl
    · exact State.postSession_reg _ _ _ _ hlost
  unfold State.limitSample
  dsimp only
  split
  · exact (hpost _).trans (State.reg_bump_ne _ _ _ _ hlimiter.symm)
  · rfl

/-- The sample's own entries and the limiter's gate before the limiter counts it. -/
def State.sampled (s : State) (mv ma : Nat) : State :=
  let l := ((mv, ma) :: s.gov.samples).take 25
  let pj := s.gov.energyRest + mv * ma * 40
  let cap := s.reg K.powerCap * 1000
  let gate := if meanMw l * 100 > cap * 102 then true else if meanMw l ≤ cap then false else s.gov.gateLimiter
  let t := (((s.setReg K.inputMv mv).setReg K.inputMa ma).setReg K.inputMw (meanMw l)).bump K.inputEnergy (pj / 10 ^ 9)
  { t with gov := { t.gov with samples := l, energyRest := pj % 10 ^ 9, gateLimiter := gate && s.powered } }

/-- With standby power a sample is taken, then the limiter counts it. -/
theorem powerSample_eq {s : State} (hstandby : s.pow.standby = true) (mv ma : Nat) : powerSample mv ma s = (s.sampled mv ma).limitSample := by
  rw [powerSample, if_neg (by simp [hstandby])]
  rfl

/-- What a sample leaves in its entries. -/
theorem State.sampled_reg (s : State) (mv ma : Nat) : (s.sampled mv ma).reg K.inputMv = mv ∧ (s.sampled mv ma).reg K.inputMa = ma ∧
    (s.sampled mv ma).reg K.inputMw = meanMw (((mv, ma) :: s.gov.samples).take 25) := by
  have hregs (i : Nat) : (s.sampled mv ma).reg i = ((((s.setReg K.inputMv mv).setReg K.inputMa ma).setReg K.inputMw
      (meanMw (((mv, ma) :: s.gov.samples).take 25))).bump K.inputEnergy ((s.gov.energyRest + mv * ma * 40) / 10 ^ 9)).reg i := rfl
  simp only [hregs]
  refine ⟨?_, ?_, ?_⟩
  · exact (State.reg_bump_ne _ _ _ _ (by decide)).trans ((State.reg_setReg_ne _ _ _ _ (by decide)).trans
      ((State.reg_setReg_ne _ _ _ _ (by decide)).trans (State.reg_setReg _ _ _)))
  · exact (State.reg_bump_ne _ _ _ _ (by decide)).trans ((State.reg_setReg_ne _ _ _ _ (by decide)).trans (State.reg_setReg _ _ _))
  · exact (State.reg_bump_ne _ _ _ _ (by decide)).trans (State.reg_setReg _ _ _)

/-- The limiter closes the gate above 102 % of the cap and opens it at the cap (R394). -/
theorem State.sampled_gate {s : State} (hpow : s.powered = true) (mv ma : Nat) :
    let mean := meanMw (((mv, ma) :: s.gov.samples).take 25)
    (mean * 100 > s.reg K.powerCap * 1000 * 102 → (s.sampled mv ma).gov.gateLimiter = true) ∧
    (mean ≤ s.reg K.powerCap * 1000 → (s.sampled mv ma).gov.gateLimiter = false) := by
  simp only [State.sampled, hpow, Bool.and_true]
  refine ⟨fun h => if_pos h, fun h => ?_⟩
  rw [if_neg (by omega), if_pos h]

/-! ### The window's credits (R376, R393) -/

/-- The governor's record set. -/
def State.withGov (s : State) (g : Gov) : State := { s with gov := g }

@[simp] theorem State.withGov_clauses (s : State) (g : Gov) : (s.withGov g).clauses = s.clauses := rfl

/-- The charges of the resident clauses at a window's start, after the governor's record is set. -/
def State.chargeWindow (s : State) : State :=
  let s := s.clauses.foldl State.windowCharge s
  let s := if s.clauses.any (·.held) then s.bump K.holdWindows 1 else s
  { s with waiting := s.waiting.map fun w => { w with windows := w.windows + 1 } }

/-- With no clause resident a window charges none. -/
theorem State.chargeWindow_gov {s : State} (hnone : s.clauses = []) : s.chargeWindow.gov = s.gov := by
  simp only [State.chargeWindow, hnone, List.foldl_nil, List.any_nil, Bool.false_eq_true, if_false]

/-- With no clause resident a window's credits are the cap less the baseline, scaled, less the excess, and none is charged. -/
theorem State.windowStart_gov {s : State} (hnone : s.clauses = []) (mj : Nat) :
    let excess := mj * 1000000 - s.gov.charged
    let base := basePrev ((excess :: s.gov.baselines).take 16)
    (s.windowStart mj).gov.credit = (((s.reg K.powerCap * 1000000 - base) * s.thermalH / 10000 - (excess - base) : Nat) : Int) ∧
      (s.windowStart mj).gov.charged = 0 := by
  intro measured base
  obtain ⟨t, g, hclauses, hcredit, hcharged, hstart⟩ : ∃ (t : State) (g : Gov), t.clauses = [] ∧
      g.credit = (((s.reg K.powerCap * 1000000 - base) * s.thermalH / 10000 - (measured - base) : Nat) : Int) ∧ g.charged = 0 ∧
      s.windowStart mj = (t.withGov g).chargeWindow := by
    refine ⟨_, _, ?_, ?_, ?_, rfl⟩
    · rw [State.setReg_clauses, State.setReg_clauses, State.windowReport, State.setReg_clauses, State.setReg_clauses,
        State.setReg_clauses, hnone]
    · rfl
    · rfl
  rw [hstart, State.chargeWindow_gov ((State.withGov_clauses t g).trans hclauses)]
  exact ⟨hcredit, hcharged⟩

/-- Settles O41: each command is its function on the branch that its conditions choose. -/
theorem governorSamplesAndSensors : Obligations.GovernorSamplesAndSensors := by
  unfold Obligations.GovernorSamplesAndSensors
  refine ⟨fun s mj hboot hcore hupdate hpll => ?_, fun s mj hnone => State.windowStart_gov hnone mj, fun s mv ma hstandby => ?_,
    fun s l hpow hlen => ?_⟩
  · refine congrArg (finish s) (if_neg ?_)
    rw [hboot, hcore, hupdate, hpll]
    decide
  · obtain ⟨hmv, hma, hmw⟩ := s.sampled_reg mv ma
    obtain ⟨hsamples, hgate⟩ := (s.sampled mv ma).limitSample_gov
    have hentry {i : Nat} (hi : K.inputMv ≤ i ∧ i ≤ K.inputMw) :
        (settle s (s.sampled mv ma).limitSample).reg i = (s.sampled mv ma).reg i := by
      simp only [K.inputMv, K.inputMw] at hi
      rw [settle_reg _ _ _ (by simp only [Derived, K.alertStatus]; omega),
        State.limitSample_reg _ (by simp only [K.limiterSamples]; omega) (by simp only [K.sessionEventsLost]; omega)]
    refine ⟨settle s (s.sampled mv ma).limitSample, congrArg (finish s) (powerSample_eq hstandby mv ma), ?_⟩
    rw [hentry (by decide), hentry (by decide), hentry (by decide), hmv, hma, hmw, settle_gov, hsamples, hgate]
    exact ⟨rfl, rfl, rfl, rfl, fun hpow => State.sampled_gate hpow mv ma⟩
  · have hon : ¬ (s.powered = false ∨ l.length ≠ 32) := by simp [hpow, hlen]
    dsimp only
    refine ⟨fun htrip => congrArg (finish s) ?_, fun hcool hopen hhot => congrArg (finish s) ?_,
      fun hcool hclosed hlow => congrArg (finish s) ?_, fun hcool hstay => congrArg (finish s) ?_⟩ <;> rw [dieSensorRead, if_neg hon]
    · exact if_pos htrip
    · exact (if_neg (Int.not_le.2 hcool)).trans (if_pos ⟨hopen, hhot⟩)
    · exact (if_neg (Int.not_le.2 hcool)).trans ((if_neg fun h => absurd (hclosed.symm.trans h.1) (by decide)).trans (if_pos ⟨hclosed, hlow⟩))
    · refine (if_neg (Int.not_le.2 hcool)).trans ((if_neg ?_).trans (if_neg ?_))
      · grind
      · grind

end Sys2Proof.Machine
end

section
/-! SUPPORT and PROOFS. The 48 V input and the rails (R386 to R388, R390). -/

namespace Sys2Proof.Machine

/-! ### The record of power after settling -/

/-- What the alert output does not hold of the power record is as the command left it. -/
theorem settle_pow {α : Type} (f : Pow → α) (hf : ∀ (p : Pow) (b : Bool), f { p with alertN := b } = f p) (s t : State) :
    f (settle s t).pow = f t.pow :=
  settle_keeps (fun u => f u.pow) (fun _ _ _ => by rw [State.releaseHold, State.modQueue_pow]) (fun _ _ _ => rfl) (fun _ _ _ _ => hf _ _) (fun _ _ => rfl) s t

/-! ### The input -/

/-- What standby power's start leaves. -/
theorem standbyStart_pow {s : State} (hoff : s.pow.standby = false) {mv : Nat} (hmv : 38000 ≤ mv) (slot : Nat) :
    (standbyStart mv slot s).pow.standby = true ∧ (standbyStart mv slot s).pow.inrushDone = false ∧
      (standbyStart mv slot s).pow.railsUp = 0 ∧ (standbyStart mv slot s).part = s.part := by
  have hstart : ¬ (s.pow.standby = true ∨ mv < 38000) := by simp [hoff]; omega
  unfold standbyStart
  rw [if_neg hstart]
  exact ⟨rfl, rfl, rfl, rfl⟩

/-- The slot is sampled, and no PLL is locked, at standby power's start. -/
theorem standbyStart_reg {s : State} (hoff : s.pow.standby = false) {mv : Nat} (hmv : 38000 ≤ mv) (slot : Nat) :
    (standbyStart mv slot s).reg K.slotId = slot % 8 ∧ (standbyStart mv slot s).reg K.pllLocked = 0 := by
  have hstart : ¬ (s.pow.standby = true ∨ mv < 38000) := by simp [hoff]; omega
  unfold standbyStart
  rw [if_neg hstart]
  dsimp only
  rw [State.reg_setReg, State.reg_setReg_ne _ _ _ _ (by decide), State.reg_setReg_ne _ _ _ _ (by decide), State.reg_setReg]
  exact ⟨rfl, rfl⟩

/-- Service states settled are entries alone. -/
theorem State.settleService_mem (s : State) : s.settleService.mem = s.mem := by
  unfold State.settleService
  dsimp only
  refine (foldl_keeps (fun t : State => t.mem) _ (fun t p => ?_) _ _).trans rfl
  split
  · rfl
  · exact State.setReg_mem _ _ _

/-- What the fast domains lose is as after reset. -/
theorem State.fastLost_mem (s : State) : s.fastLost.mem = State.reset.mem := by
  unfold State.fastLost
  generalize State.reset = r
  dsimp only
  rw [State.settleService_mem, State.setReg_mem]

/-- The rails off: memory is as after reset, and no group is up. -/
theorem State.railsDrop_off (s : State) (cause : Nat) (rearm uv : Bool) :
    (s.railsDrop cause rearm uv).mem = State.reset.mem ∧ (s.railsDrop cause rearm uv).pow.railsUp = 0 := by
  have hlost := s.cutRaises.fastLost_mem
  unfold State.railsDrop
  generalize s.cutRaises.fastLost = t at hlost
  exact ⟨hlost, rfl⟩

/-- What standby power's end leaves. -/
theorem standbyStop_eq {s : State} (hon : s.pow.standby = true) : (standbyStop s).pow.standby = false ∧ (standbyStop s).pow.railsUp = 0 ∧
    (standbyStop s).tick = 0 ∧ (standbyStop s).mem = State.reset.mem := by
  have hstop : ¬ s.pow.standby = false := by simp [hon]
  obtain ⟨hmem, hup⟩ := s.railsDrop_off 0 false false
  unfold standbyStop
  rw [if_neg hstop]
  generalize s.railsDrop 0 false false = t at hmem hup
  exact ⟨rfl, hup, rfl, hmem⟩

/-- Settles O42: each command is its function on the branch that its conditions choose; what settling derives is neither power state nor
memory. -/
theorem inputAndRailsTakeEffect : Obligations.InputAndRailsTakeEffect := by
  unfold Obligations.InputAndRailsTakeEffect
  refine ⟨fun s mv slot hoff hmv => ?_, fun s hon => ?_, fun s hon => congrArg (finish s) (if_pos hon), fun s mv us hrails => ?_,
    fun s mv us hwait hmv hus => congrArg (finish s) (if_neg ?_), fun s hon hwant hup => congrArg (finish s) (if_pos ⟨hwant, hon, rfl, hup⟩),
    fun s hwant hup => congrArg (finish s) (if_pos ⟨hwant, rfl, hup⟩)⟩
  · obtain ⟨hstandby, hinrush, hup, hpart⟩ := standbyStart_pow hoff hmv slot
    obtain ⟨hslot, hlock⟩ := standbyStart_reg hoff hmv slot
    refine ⟨settle s (standbyStart mv slot s), rfl, ?_⟩
    rw [settle_pow (·.standby) fun _ _ => rfl, settle_pow (·.inrushDone) fun _ _ => rfl, settle_pow (·.railsUp) fun _ _ => rfl, settle_part,
      settle_reg _ _ _ (by unfold Derived; decide), settle_reg _ _ _ (by unfold Derived; decide)]
    exact ⟨hstandby, hinrush, hup, hslot, hlock, hpart⟩
  · obtain ⟨hstandby, hup, htick, hmem⟩ := standbyStop_eq hon
    refine ⟨settle s (standbyStop s), rfl, ?_⟩
    rw [settle_pow (·.standby) fun _ _ => rfl, settle_pow (·.railsUp) fun _ _ => rfl, settle_tick, settle_mem]
    exact ⟨hstandby, hup, htick, hmem⟩
  · have hon : ∀ {p : Prop}, ¬ p → ¬ (s.railsOn = false ∨ p) := fun hp h => h.elim (by simp [hrails]) hp
    refine ⟨fun hlow hlong => congrArg (finish s) ?_, fun hdip hshort => congrArg (finish s) ?_, fun hhigh hlong => congrArg (finish s) ?_,
      fun hrise hshort => congrArg (finish s) ?_, fun g hg hup => congrArg (finish s) (if_pos ⟨hrails, hg, hup⟩)⟩
    · exact (if_neg (hon (by omega))).trans (if_pos ⟨hlow, hlong⟩)
    · exact (if_neg (hon (by omega))).trans (if_neg (by omega))
    · exact (if_neg (hon (by omega))).trans (if_pos ⟨hhigh, hlong⟩)
    · exact (if_neg (hon (by omega))).trans (if_neg (by omega))
  · simp [hwait]
    omega

end Sys2Proof.Machine
end

section
/-! SUPPORT and PROOFS. Messages on the sideband, its frames and PLCA (R479, R480, R483, R485, R486). -/

namespace Sys2Proof.Machine

/-! ### A request that core 3 serves -/

/-- A sideband request whose header R479 allows. -/
structure SidebandRequest (m : MsgHdr) : Prop where
  path : m.path = .sideband
  request : m.response = false
  major : m.major = 1
  reserved : m.reserved = 0
  status : m.status = 0

/-- A module that serves the sideband: standby power, a booted control image and core 3 at work. -/
structure ServesSideband (s : State) : Prop where
  standby : s.pow.standby = true
  booted : s.booted = true
  core : s.coreOut 3 = false

/-- While core 3 works no live update pauses the cores. -/
theorem ServesSideband.no_update {s : State} (h : ServesSideband s) : s.trust.updateReq.isSome = false :=
  (Bool.or_eq_false_iff.1 h.core).2

/-- Core 3 serves a sound request on the sideband. -/
theorem mailbox_sideband {s : State} {m : MsgHdr} (hs : ServesSideband s) (hm : SidebandRequest m) {ty : Nat} {b : List Byte}
    (hlen : b.length ≤ 4080) : mailbox ty m b s = (s.wake (.core 3)).serveType m ty b := by
  have hpause : s.trust.updateReq.isSome = false := hs.no_update
  obtain ⟨hpath, hrequest, hmajor, hreserved, hstatus⟩ := hm
  obtain ⟨hstandby, hboot, hcore⟩ := hs
  have harrive : mailbox ty m b s = s.message m ty b := by
    unfold mailbox
    rw [hpath]
    exact if_pos hstandby
  rw [harrive, State.message, if_neg (by simp [hrequest]), if_neg (by simp [hmajor, hlen]), if_neg (by simp [hreserved, hstatus]),
    if_neg (by simp [hboot]), if_neg (by simp [hpause]), if_neg (by simp [hcore])]

/-- A sideband message is no message of VC1. -/
theorem not_vc1_refused {m : MsgHdr} (hpath : m.path = .sideband) (p : Prop) : ¬ (m.path = .vc1 ∧ p) := by
  rw [hpath]
  exact fun h => nomatch h.1

/-! ### OD_READ and OD_WRITE (R479, R480) -/

/-- A whole OD_READ is answered item by item. -/
theorem State.serveOdRead_sideband (s : State) {m : MsgHdr} (hpath : m.path = .sideband) {b : List Byte} (hbody : readBodyStatus b = 0) :
    let x := readBody (fun s i sub => s.odRead .sideband i sub) b (s.bump K.requests 1)
    s.serveOdRead m b = x.2.respond m 0x0020 0 x.1 := by
  rw [State.serveOdRead, if_neg (not_vc1_refused hpath _), if_neg (not_not_intro hbody), hpath]

/-- An OD_READ whose body is malformed is answered with its status. -/
theorem State.serveOdRead_malformed (s : State) {m : MsgHdr} (hpath : m.path = .sideband) {b : List Byte} (hbody : readBodyStatus b ≠ 0) :
    s.serveOdRead m b = s.respond m 0x0020 (readBodyStatus b) [] := by
  rw [State.serveOdRead, if_neg (not_vc1_refused hpath _), if_pos hbody]

/-- A whole OD_WRITE is applied item by item and answered. -/
theorem State.serveOdWrite_sideband (s : State) {m : MsgHdr} (hpath : m.path = .sideband) {b : List Byte} {l : List WriteItem}
    (hbody : writeBody b = .ok l) :
    let x := writeItems (fun s i => s.odWrite .sideband i.idx i.sub i.ty i.val) l (s.bump K.requests 1)
    s.serveOdWrite m b = x.2.respond m 0x0021 0 (writeResponse l.length x.1) := by
  rw [State.serveOdWrite, if_neg (not_vc1_refused hpath _), hbody, hpath]

/-! ### Frames of the sideband (R485, R486) -/

/-- A frame that the sideband refuses is dropped. -/
theorem sidebandFrame_refused {s : State} {f : SbFrame} (hstandby : s.pow.standby = true) (h : s.sbAccepts f = false) :
    sidebandFrame f s = s.bump K.sbFramesDropped 1 := by
  rw [sidebandFrame, if_neg (by simp [hstandby]), if_pos (.inl h)]
  rfl

/-- A frame that the sideband takes while nothing is being assembled: a first fragment is taken, another dropped. -/
theorem sidebandFrame_fresh {s : State} {f : SbFrame} (hstandby : s.pow.standby = true) (hok : s.sbAccepts f = true)
    (hbusy : s.sess.sbBusy = none) (hpart : s.sess.sbPartial = none) :
    sidebandFrame f s = if f.fragIndex = 0 then s.sbTake f [] else s.bump K.sbFramesDropped 1 := by
  rw [sidebandFrame, if_neg (by simp [hstandby]), if_neg (by simp [hok, hbusy]), hpart]
  rfl

/-- Settles O39: a sound request reaches its type's work, which answers item by item; a fresh frame is taken where it is the first. -/
theorem itemMessagesAndSidebandFrames : Obligations.ItemMessagesAndSidebandFrames := by
  unfold Obligations.ItemMessagesAndSidebandFrames
  refine ⟨fun s m b hpath hstandby hrequest hmajor hreserved hstatus hboot hcore hlen => ?_, fun s hstandby => ?_⟩
  · have hserved (ty : Nat) : mailbox ty m b s = (s.wake (.core 3)).serveType m ty b :=
      mailbox_sideband ⟨hstandby, hboot, hcore⟩ ⟨hpath, hrequest, hmajor, hreserved, hstatus⟩ hlen
    refine ⟨fun hbody => congrArg (finish s) ((hserved 0x20).trans (State.serveOdRead_sideband _ hpath hbody)),
      fun hbody => congrArg (finish s) ((hserved 0x20).trans (State.serveOdRead_malformed _ hpath hbody)),
      fun l hbody => congrArg (finish s) ((hserved 0x21).trans (State.serveOdWrite_sideband _ hpath hbody))⟩
  · refine ⟨congrArg (finish s) (if_pos hstandby), fun hplca => congrArg (finish s) (if_pos ⟨hstandby, hplca⟩), fun x hx => ?_,
      fun f hf => congrArg (finish s) (sidebandFrame_refused hstandby hf), fun f hf hbusy hpart => ?_⟩
    · have hsome : s.sess.sbPartial.isSome = true := by rw [hx]; rfl
      exact congrArg (finish s) ((if_pos hstandby).trans (if_pos hsome))
    · have hframe := sidebandFrame_fresh hstandby hf hbusy hpart
      refine ⟨fun hlater => congrArg (finish s) (hframe.trans (if_neg hlater)), fun hfirst hone => congrArg (finish s) ?_,
        fun hfirst hmore => congrArg (finish s) ?_⟩
      · refine hframe.trans ((if_pos hfirst).trans (if_pos ?_))
        omega
      · refine hframe.trans ((if_pos hfirst).trans ((if_neg ?_).trans ?_))
        · omega
        · rw [hfirst]; rfl

end Sys2Proof.Machine
end

section
/-! SUPPORT and PROOFS. Sessions (R357 to R360, R377). -/

namespace Sys2Proof.Machine

/-! ### Opening, resuming, closing (R357, R359, R360) -/

/-- A sound SESSION_OPEN opens a session where none is. -/
theorem State.openSession_accepted {s : State} {m : MsgHdr} {b : List Byte} (hlen : b.length = 20) (hforce : nb b 4 1 ≤ 1)
    (hreserved : nb b 5 3 = 0) (hring : ringPlaceOk (nb b 8 8) (nb b 16 4) = true) (hhold : s.sess.holdOff = none)
    (hnone : s.reg K.sessionState = ssNone) (hmajor : nb b 0 4 / 2 ^ 16 = s.reg K.fwInterfaceVersion / 2 ^ 16)
    (hminor : nb b 0 4 % 2 ^ 16 ≤ s.reg K.fwInterfaceVersion % 2 ^ 16) (hninth : s.ninth = false) :
    s.openSession m b = s.openNow m (nb b 0 4) (nb b 8 8) (nb b 16 4) := by
  rw [State.openSession, if_neg (not_not_intro hlen), if_neg (by omega), if_neg (by simp [hring]), if_neg (by simp [hhold]),
    if_neg (by simp [hnone]), if_neg (by omega), if_neg (by simp [hninth]), if_pos hnone]

/-- A sound SESSION_RESUME of a SILENT session, with its number and token, opens it again. -/
theorem State.resumeSession_accepted {s : State} {m : MsgHdr} {b : List Byte} (hlen : b.length = 20) (hhold : s.sess.holdOff = none)
    (hsilent : s.reg K.sessionState = ssSilent) (hnumber : nb b 0 4 = s.reg K.sessionNumber) (htoken : nb b 4 16 = s.sess.token)
    (hninth : s.ninth = false) :
    let t := s.reconnected.postSession 0x40 0xFF (leBytes 8 s.reconnected.sess.silentAt)
    s.resumeSession m b = t.respond m 0x0002 0 (leBytes 16 t.sess.token) := by
  rw [State.resumeSession, if_neg (not_not_intro hlen), if_neg (by simp [hhold]), if_neg (by rw [hsilent]; decide),
    if_neg (not_not_intro hsilent), if_neg (by simp [hnumber, htoken]), if_neg (by simp [hninth])]

/-- On the sideband the OPEN session is any request's. -/
theorem State.sessionFor_sideband {s : State} {m : MsgHdr} (hpath : m.path = .sideband) (hopen : s.reg K.sessionState = ssOpen) :
    s.sessionFor m = true := by
  unfold State.sessionFor
  rw [hpath]
  exact beq_iff_eq.2 hopen

/-- A request to close the OPEN session, or to release every job, on the sideband. -/
theorem State.closeSession_sideband {s : State} {m : MsgHdr} (hpath : m.path = .sideband) (hopen : s.reg K.sessionState = ssOpen)
    {v : Byte} (hv : v.toNat ≤ 1) : s.closeSession m [v] =
      if v.toNat = 1 then (s.releaseAll none).respond m 0x0003 0 [] else s.sessionNone.respond m 0x0003 0 [] := by
  have hvalue : nb [v] 0 1 = v.toNat := by simp [nb, leNat]
  rw [State.closeSession, if_neg (by simp), hvalue, if_neg (by omega), if_neg (by simp [State.sessionFor_sideband hpath hopen])]

/-- A heartbeat message of the OPEN session on the sideband is answered. -/
theorem State.beatMessage_sideband {s : State} {m : MsgHdr} (hpath : m.path = .sideband) (hopen : s.reg K.sessionState = ssOpen) :
    s.beatMessage m [] = s.respond m 0x0004 0 [] := by
  rw [State.beatMessage, if_neg (not_not_intro rfl), if_pos (State.sessionFor_sideband hpath hopen)]

/-- Settles O33: sound requests reach core 3, which opens, resumes or closes the session; the timers are their functions on the session's
state. -/
theorem sessionsOpenAndEnd : Obligations.SessionsOpenAndEnd := by
  unfold Obligations.SessionsOpenAndEnd
  refine ⟨fun s m b hpath hstandby hrequest hmajor hreserved hstatus hboot hcore => ?_, fun s hopen hlease => congrArg (finish s) ?_,
    fun s hsilent => congrArg (finish s) (if_neg (not_not_intro hsilent)), fun s => rfl⟩
  · have hserved (ty : Nat) (hlen : b.length ≤ 4080) : mailbox ty m b s = (s.wake (.core 3)).serveType m ty b :=
      mailbox_sideband ⟨hstandby, hboot, hcore⟩ ⟨hpath, hrequest, hmajor, hreserved, hstatus⟩ hlen
    refine ⟨fun hlen hforce hres hring hhold hnone hmajor hminor hninth => congrArg (finish s) ?_,
      fun hlen hhold hsilent hnumber htoken hninth => congrArg (finish s) ?_, fun hopen hb => congrArg (finish s) ?_,
      fun hopen hb => congrArg (finish s) ?_, fun hopen hb => congrArg (finish s) ?_⟩
    · exact (hserved 1 (by omega)).trans (State.openSession_accepted hlen hforce hres hring hhold hnone hmajor hminor hninth)
    · exact (hserved 2 (by omega)).trans (State.resumeSession_accepted hlen hhold hsilent hnumber htoken hninth)
    · refine (hserved 3 (by rw [hb]; decide)).trans ?_
      rw [hb]
      exact State.closeSession_sideband hpath hopen (by decide)
    · refine (hserved 3 (by rw [hb]; decide)).trans ?_
      rw [hb]
      exact State.closeSession_sideband hpath hopen (by decide)
    · refine (hserved 4 (by rw [hb]; decide)).trans ?_
      rw [hb]
      exact State.beatMessage_sideband hpath hopen
  · have hsame : ((s.setReg K.sessionState ssSilent).modSess fun e => { e with silentAt := s.tick }).reg K.lease = s.reg K.lease := by
      rw [State.modSess_reg, State.reg_setReg_ne _ _ _ _ (by decide)]
    rw [heartbeatTimeout, if_neg (not_not_intro hopen)]
    exact if_neg (by rw [← hsame] at hlease; exact hlease)

end Sys2Proof.Machine
end

section
/-! SUPPORT and PROOFS. Boot, fuses, staging and the live update (R378, R379, R443, R445 to R447). -/

namespace Sys2Proof.Machine

/-! ### Staging and activation (R378, R445) -/

/-- A sound FW_STAGE writes the staging area. -/
theorem State.fwStage_sound {s : State} {m : MsgHdr} {b : List Byte} (hlen : 8 ≤ b.length) (hfits : nb b 0 4 + (b.length - 8) ≤ imageMax)
    (hreserved : nb b 4 4 = 0) :
    s.fwStage m b = (s.modTrust fun t => { t with staging := writeRun t.staging (nb b 0 4) (b.drop 8) }).respond m 0x0010 0 [] := by
  have hsize : ¬ (b.length < 8 ∨ nb b 0 4 + (b.drop 8).length > imageMax) := by rw [List.length_drop]; omega
  rw [State.fwStage]
  exact (if_neg hsize).trans (if_neg (not_not_intro hreserved))

/-- What FW_ACTIVATE does with a staged image in a booted module: by its verification's cause, and by its kind. -/
theorem State.fwActivate_booted {s : State} {m : MsgHdr} {b : List Byte} (hlen : b.length = 4) (hboot : s.reg K.bootStatus = 1)
    (hpause : s.trust.updateReq.isSome = false) (hfits : nb b 0 4 ≤ imageMax) :
    let i := readRun s.trust.staging 0 (nb b 0 4)
    let c := s.verifyImage [1, 2] i
    s.fwActivate m b =
      if c ≠ 0 then (s.rejectImage c).answerActivate m 0x0009
      else if s.svc.coreDown ≠ [] then s.answerActivate m 0x000B
      else if imgKind i = 1 then s.stageTrusted m i
      else if s.interfaceRefused i then s.answerActivate m 0x000B
      else s.beginUpdate m i := by
  have hfailed : (s.reg K.bootStatus == 2) = false := by rw [hboot]; rfl
  have hbig : ¬ nb b 0 4 > imageMax := by omega
  rw [State.fwActivate, if_neg (not_not_intro hlen), if_neg (by rw [hpause]; decide)]
  simp only [hfailed, if_neg hbig, Bool.false_eq_true, if_false]

/-! ### Fuses (R443) -/

/-- A raise that is due is done. -/
theorem fuseCommit_due {s : State} {d : Nat × Nat × Nat} (hpow : s.powered = true)
    (hdue : s.trust.fusesDue.find? (fun x => x.1 == d.1) = some d) :
    (fuseCommit d.1 s).rollbackAt (d.1 - 1) = max (s.rollbackAt (d.1 - 1)) d.2.1 ∧
      (fuseCommit d.1 s).part.revoked = s.part.revoked ||| d.2.2 * 2 ^ (16 * (d.1 - 1)) := by
  unfold fuseCommit
  rw [hpow, if_pos rfl, hdue]
  exact ⟨cellGet_put_self _ _ _ _, rfl⟩

/-- Settles O45: boot, staging, activation and the update are their functions on the branch that the conditions choose; a fuse that is due
changes the part, which settling leaves. -/
theorem bootAndUpdateTakeEffect : Obligations.BootAndUpdateTakeEffect := by
  unfold Obligations.BootAndUpdateTakeEffect
  refine ⟨fun s t u x failed hpow hboot htrusted hslot => congrArg (finish s) ?_, fun s failed hpow hboot htrusted => congrArg (finish s) ?_,
    fun s d hpow hdue => ?_, fun s m b hpath hstandby hrequest hmajor hreserved hstatus hboot hcore => ?_, fun s m hreq => ?_⟩
  · rw [bootComplete, if_neg (by simp [hpow, hboot]), htrusted]
    dsimp only
    rw [hslot]
  · rw [bootComplete, if_neg (by simp [hpow, hboot]), htrusted]
  · obtain ⟨hroll, hrevoked⟩ := fuseCommit_due hpow hdue
    refine ⟨settle s (fuseCommit d.1 s), rfl, ?_⟩
    rw [State.rollbackAt, settle_part]
    exact ⟨hroll, hrevoked⟩
  · have hserves : ServesSideband s := ⟨hstandby, hboot, hcore⟩
    have hserved (ty : Nat) (hlen : b.length ≤ 4080) : mailbox ty m b s = (s.wake (.core 3)).serveType m ty b :=
      mailbox_sideband hserves ⟨hpath, hrequest, hmajor, hreserved, hstatus⟩ hlen
    have hpause : (s.wake (.core 3)).trust.updateReq.isSome = false := by
      rw [State.wake_keeps (·.trust) (fun _ _ _ => rfl) (fun _ _ => rfl)]
      exact hserves.no_update
    dsimp only
    refine ⟨fun hlen hmax hfits hres => congrArg (finish s) ?_, fun hlen hstatus hfits => ?_⟩
    · exact (hserved 0x10 hmax).trans (State.fwStage_sound hlen hfits hres)
    · have hact := (hserved 0x11 (by omega)).trans (State.fwActivate_booted hlen hstatus hpause hfits)
      refine ⟨fun hbad => congrArg (finish s) (hact.trans (if_pos hbad)), fun hgood hcores hkind => congrArg (finish s) (hact.trans ?_),
        fun hgood hcores hkind hiface => congrArg (finish s) (hact.trans ?_)⟩
      · rw [if_neg (not_not_intro hgood), if_neg (not_not_intro hcores), if_pos hkind]
      · rw [if_neg (not_not_intro hgood), if_neg (not_not_intro hcores), if_neg hkind, if_neg (by simp [hiface])]
        rfl
  · have hdone (accepted : Bool) : updateHandoverDone accepted s = if accepted then s.updateDone m else s.rollBack m 0x01 := by
      rw [updateHandoverDone, hreq]
    have hlate : handoverDeadline s = s.rollBack m 0x02 := by rw [handoverDeadline, hreq]
    exact ⟨congrArg (finish s) (hdone true), congrArg (finish s) (hdone false), congrArg (finish s) hlate⟩

end Sys2Proof.Machine
end

section
/-! SUPPORT and PROOFS. Attestation and debug unlock (R449, R450, R453 to R455). -/

namespace Sys2Proof.Machine

/-! ### The challenge (R454) -/

/-- The row of debug_challenge in the dictionary. -/
theorem find_debugChallenge : Dict.index 0x5000 ≠ [] ∧
    Dict.find 0x5000 1 = some ⟨0x5000, 0, 1, 0x1, 1, .octets, 32, .ro, 0, 0, 0, 1, 0x0⟩ := by decide +kernel

/-- A read of debug_challenge draws one. -/
theorem State.odRead_challenge (s : State) (p : Path) : (s.odRead p 0x5000 1).2 = s.drawChallenge.2 := by
  obtain ⟨hindex, hfind⟩ := find_debugChallenge
  rw [State.odRead, if_neg hindex, hfind]
  exact congrArg Prod.snd ((if_neg (Nat.not_lt_zero (s.roleOf p))).trans (if_pos rfl))

/-! ### The end of debug (R454) -/

/-- A fold whose every step leaves a state leaves it. -/
theorem foldl_unchanged {α β : Type} {f : α → β → α} {a : α} {l : List β} (h : ∀ x ∈ l, f a x = a) : l.foldl f a = a :=
  List.foldlRecOn (motive := (· = a)) l f rfl fun b hb x hx => by rw [hb, h x hx]

/-- Where no queue is halted by DEBUG_BREAK the end of debug returns its entries to 0, and no more. -/
theorem State.endDebug_of_no_break {s : State} (hunlocked : s.trust.unlocked = true)
    (hnone : ∀ q ∈ allQueues, ∀ Q h, s.queue q = some Q → Q.halt = some h → h.reason ≠ 0xF0) :
    s.endDebug = (((s.modTrust fun t => { t with unlocked := false, scope := 0, lifetime := 0 }).setReg K.debugStatus 0).setReg
      K.physicalBinding 0).setReg K.liveCodeWrite 0 := by
  rw [State.endDebug, if_neg (by simp [hunlocked])]
  refine foldl_unchanged fun q hq => ?_
  split
  · next h hh =>
    obtain ⟨Q, hQ, hhalt⟩ := Option.bind_eq_some_iff.1 hh
    exact if_neg (hnone q hq Q h hQ hhalt)
  · rfl

/-! ### The nonce (R449) -/

/-- Dropping a request that is not there leaves the state. -/
theorem State.no_update_dropped {s : State} (h : s.trust.updateReq = none) : (s.modTrust fun t => { t with updateReq := none }) = s := by
  unfold State.modTrust
  rw [← h]

/-- Settles O46: each write goes through the checks to its entry's own rule, and each timer is its function. -/
theorem attestationAndDebugTakeEffect : Obligations.AttestationAndDebugTakeEffect := by
  unfold Obligations.AttestationAndDebugTakeEffect
  refine ⟨fun s v hupdate hserved => ?_, fun s p hserved => ?_, fun s n hpow hupdate hstatus hnonce => congrArg (finish s) ?_, fun s => rfl,
    fun s hunlocked => ⟨rfl, fun hnone => State.endDebug_of_no_break hunlocked hnone⟩⟩
  · dsimp only
    refine ⟨fun hok hstatus => congrArg (finish s) ?_, fun hok => ⟨fun htoken => congrArg (finish s) ?_, fun htoken => congrArg (finish s) ?_⟩,
      fun hok hone => congrArg (finish s) (State.odRow_of_entry hserved hok (congrArg some (if_pos hone)))⟩
    · rw [State.no_update_dropped hupdate]
      exact State.odRow_of_entry (idx := 0x2A20) (sub := 1) hserved hok (if_neg hstatus)
    · exact State.odRow_of_entry hserved hok (if_pos htoken)
    · have hrefused : (s.wake (.core 3)).writeEntry 0x5000 2 (leNat v.bytes) v.bytes = none := if_neg (by simp [htoken])
      refine (State.odRow_of_checks_ok hserved hok).trans ?_
      rw [hrefused]
      exact Option.getD_none.trans (if_pos rfl)
  · exact fun _ => congrArg (finish s) ((if_pos hserved).trans (State.odRead_challenge _ p))
  · rw [attestReportReady, if_pos ⟨hpow, by rw [hupdate]; rfl, hstatus⟩, hnonce]

end Sys2Proof.Machine
end

section
/-! SUPPORT and PROOFS. PLLs, discrete inputs and resting units (R390 to R392, R396, R398, R399, R404 to R407, R517). -/

namespace Sys2Proof.Machine

/-! ### Discrete inputs (R391, R392, R404 to R407) -/

/-- Recognising an input changes the inputs' own entry alone. -/
theorem State.recognise_reg (s : State) (i : Nat) (v : Bool) {k : Nat} (h : k ≠ K.inputs) : (s.recognise i v).reg k = s.reg k :=
  State.reg_setReg_ne _ _ _ _ h.symm

/-- Recognising an input leaves whether boot is complete. -/
theorem State.recognise_booted (s : State) (i : Nat) (v : Bool) : (s.recognise i v).booted = s.booted := by
  have hpow : (s.recognise i v).powered = s.powered := rfl
  rw [State.booted, State.booted, hpow, s.recognise_reg i v (by decide)]

/-- MOD_RST_N recognised deasserted reads 0. -/
theorem State.recognise_reset_input (s : State) : bit ((s.recognise 1 false).reg K.inputs) 1 = false := by
  have hbit (v : Nat) : bit (setBit v 1 false) 1 = false := by
    unfold setBit bit
    split
    · assumption
    · next h =>
      rw [if_neg Bool.false_ne_true]
      simp only [Nat.testBit_eq_decide_div_mod_eq] at h ⊢
      simp only [decide_eq_false_iff_not] at h ⊢
      omega
  have hreg : (s.recognise 1 false).reg K.inputs = setBit (s.reg K.inputs) 1 false := State.reg_setReg _ _ _
  rw [hreg, hbit]

/-- The standby domain's defaults leave the entries of the inputs and of the slot. -/
theorem State.standbyDefaults_reg (s : State) {k : Nat} (h : K.inputs ≤ k ∧ k ≤ K.alertStatus) :
    s.standbyDefaults.reg k = s.reg k := by
  refine cellGet_filter_of _ _ _ (fun v => ?_) _
  simp only [K.inputs, K.alertStatus] at h
  simp only [K.sbRyeveService, K.alertMask, K.powerCap, Bool.and_eq_true, bne_iff_ne]
  omega

/-- The internal reset's release changes no entry and no tick. -/
theorem State.releaseReset_keeps (s : State) (k : Nat) : s.releaseReset.reg k = s.reg k ∧ s.releaseReset.tick = s.tick := by
  unfold State.releaseReset
  split <;> exact ⟨rfl, rfl⟩

/-- What the release of MOD_RST_N leaves. -/
theorem modRstRelease_eq {s : State} (hstandby : s.pow.standby = true) (hin : s.input 1 = true) (slot : Nat) :
    (modRstRelease slot s).tick = 0 ∧ bit ((modRstRelease slot s).reg K.inputs) 1 = false ∧
      (slot % 8 ≠ s.reg K.slotId → (modRstRelease slot s).reg K.slotIdMismatch = 1) := by
  unfold modRstRelease
  rw [if_neg (by simp [hstandby, hin])]
  extract_lets recognised ticks entries sess gov pow defaults sampled
  have hdefaults {k : Nat} (hk : K.inputs ≤ k ∧ k ≤ K.alertStatus) : defaults.reg k = recognised.reg k :=
    State.standbyDefaults_reg _ hk
  have hslot : defaults.reg K.slotId = s.reg K.slotId :=
    (hdefaults (by decide)).trans (s.recognise_reg 1 false (by decide))
  have htick : sampled.tick = 0 := by
    simp only [sampled]
    split
    · rfl
    · exact State.postSession_keeps (·.tick) (fun _ _ _ => rfl) (fun _ _ => rfl) (fun _ _ _ => rfl) _ _ _ _
  have hinput : sampled.reg K.inputs = recognised.reg K.inputs := by
    simp only [sampled]
    split
    · exact hdefaults (by decide)
    · rw [State.postSession_reg _ _ _ _ (by decide), State.latchAlert, State.reg_setReg_ne _ _ _ _ (by decide),
        State.reg_setReg_ne _ _ _ _ (by decide), hdefaults (by decide)]
  rw [(sampled.releaseReset_keeps _).1, (sampled.releaseReset_keeps 0).2, (sampled.releaseReset_keeps _).1, hinput]
  refine ⟨htick, s.recognise_reset_input, fun hne => ?_⟩
  simp only [sampled]
  rw [if_neg (by rwa [hslot]), State.postSession_reg _ _ _ _ (by decide), State.latchAlert, State.reg_setReg_ne _ _ _ _ (by decide),
    State.reg_setReg]

/-! ### Units at rest (R398, R399) -/

/-- An EE whose power is removed holds nothing. -/
theorem State.unitOff_ee {s : State} {k : Nat} {e : Ee} (he : s.ees[k]? = some e) : (s.unitOff (.ee k)).ee k =
    { e with holder := none, cache := [], mapCache := [], trackers := [], fetches := [], sketch := [], accepted := 0 } := by
  have hlist : ((s.clearTlb (.ee k)).modEe k fun e =>
      { e with holder := none, cache := [], mapCache := [], trackers := [], fetches := [], sketch := [], accepted := 0 }).ees[k]? =
      some { e with holder := none, cache := [], mapCache := [], trackers := [], fetches := [], sketch := [], accepted := 0 } := by
    rw [State.modEe, List.getElem?_modify_eq]
    exact congrArg _ he
  rw [State.ee, State.unitOff, State.emptyEe, hlist]
  rfl

/-- Outside deep idle, with every unit at rest memory enters self-refresh, and no more. -/
theorem State.restIfAllNap_eq {s : State} (hrest : s.allNap = true) (hidle : s.reg K.deepIdle ≠ 1) :
    s.restIfAllNap = { s with pow := { s.pow with selfRefresh := true } } := by
  rw [State.restIfAllNap, if_neg (by simp [hrest])]
  exact if_neg fun h => hidle h.1

/-- Settles O43: each command is its function on the branch that its conditions choose. -/
theorem clocksPinsAndRestingUnits : Obligations.ClocksPinsAndRestingUnits := by
  unfold Obligations.ClocksPinsAndRestingUnits
  refine ⟨⟨fun s hwant hup hin => congrArg (finish s) (if_pos ⟨hwant, hup, hin⟩), fun s p hpow hpll hp => ⟨fun hlock => ?_, ?_⟩,
    fun s hstandby => ⟨fun hinrush hin hstate => ?_, fun hin hrails => ?_, fun hin hrails => ?_, fun hin slot => ?_, fun hin hboot => ?_,
      fun hin hhold => ?_, fun p level hedge => ?_⟩⟩,
    fun s u hpow hunit => ⟨fun hactive hquiet => ?_, fun hpower hnap => ?_, fun hpower hnap hfree => ?_⟩,
    fun s hrest hidle => State.restIfAllNap_eq hrest hidle, fun s k e he => ?_⟩
  · exact congrArg (finish s) (if_neg (by simp [hpow, hpll, hp, hlock]))
  · exact congrArg (finish s) (if_pos ⟨hpow, hpll, hp⟩)
  · refine congrArg (finish s) ?_
    rw [modEnAssert, if_neg (by simp [hstandby, hinrush, hin])]
    exact congrArg State.railsStart (if_neg hstate)
  · refine congrArg (finish s) ?_
    rw [modEnDeassert, if_neg (by simp [hstandby, hin])]
    dsimp only
    rw [if_pos hrails]
  · exact congrArg (finish s) (if_neg (by simp [hstandby, hin]))
  · obtain ⟨htick, hinput, hslot⟩ := modRstRelease_eq hstandby hin slot
    refine ⟨settle s (modRstRelease slot s), rfl, ?_⟩
    rw [settle_tick, settle_reg _ _ _ (by unfold Derived; decide), settle_reg _ _ _ (by unfold Derived; decide)]
    exact ⟨htick, hinput, hslot⟩
  · refine congrArg (finish s) ((if_neg (by simp [hstandby, hin])).trans (if_pos ?_))
    rwa [State.recognise_booted]
  · refine congrArg (finish s) ((if_neg (by simp [hstandby, hin])).trans (if_neg ?_))
    exact fun h => absurd (hhold.symm.trans h) (by decide)
  · refine congrArg (finish s) ?_
    rw [rawInputEdge, if_neg (by simp [hstandby, hedge])]
    dsimp only
    split <;> rfl
  · exact congrArg (finish s) (if_pos ⟨hpow, hunit, hactive, hquiet⟩)
  · exact congrArg (finish s) (if_pos ⟨hpow, hunit, hpower, hnap⟩)
  · exact congrArg (finish s) (if_pos ⟨hpow, hunit, hpower, hnap, hfree⟩)
  · rw [State.unitOff_ee he]
    exact ⟨rfl, rfl, rfl, rfl⟩

end Sys2Proof.Machine
end

section
/-! SUPPORT and PROOFS. Service requests, control cores and the safe stop (R380 to R382, R412, R425, R428, R429). -/

namespace Sys2Proof.Machine

/-! ### Service requests (R428) -/

/-- A request of the service role, of a class and an op that R428 defines, is given to its procedure. -/
theorem State.serviceRow_eq {s : State} {p : Path} {r : ServiceReq} {op : Nat} (hserved : s.dictServed p = true)
    (hrole : 1 ≤ (s.wake (.core 3)).roleOf p) (hcls : 1 ≤ r.cls ∧ r.cls ≤ 8) (hop : 1 ≤ op ∧ op ≤ 3) :
    s.serviceRow op p r = (s.wake (.core 3)).serviceRequest op r := by
  have hwrite : (s.wake (.core 3)).writeService op r = some ((s.wake (.core 3)).serviceRequest op r) := if_neg (by omega)
  rw [State.serviceRow, if_neg (by simp [hserved])]
  dsimp only
  rw [if_neg (by omega), hwrite]

/-- A request that a rule of R428 refuses leaves its status alone. -/
theorem State.serviceRequest_refused {s : State} {op v : Nat} {r : ServiceReq} (h : s.requestRefusal op r = some v) :
    s.serviceRequest op r = s.setReg K.serviceStatus v := by
  unfold State.serviceRequest
  rw [h]
  rfl

/-- A removal begins where its unit is in service, is not the last, and what rests on it has room elsewhere. -/
theorem State.requestRemove_begins {s : State} {r : ServiceReq} (hup : s.svcUp r.cls r.unit = true) (hrun : s.runOn r.cls r.unit = none)
    (hlast : s.svcLast r.cls r.unit = false) (hroom : r.cls = 3 ∨ r.cls = 4 ∨ r.cls = 5 → s.roomFor r.cls r.unit = true)
    (hpackage : r.cls = 6 → (s.setReg (svcKey 6 r.unit) 1).packageRoom r.unit = true) :
    s.requestRemove r = (s.beginRemoval {
      op := 1, cls := r.cls, unit := r.unit, mode := r.mode, byFault := false, after := 0, since := s.tick }).setReg K.serviceStatus 0x01 := by
  rw [State.requestRemove, if_neg (by simp [hup, hrun]), if_neg (by simp [hlast]), if_neg fun h => absurd (hroom h.1) (by simp [h.2]),
    if_neg fun h => absurd (hpackage h.1) (by simp [h.2])]
  rfl

/-- The last unit of its kind is not removed. -/
theorem State.requestRemove_last {s : State} {r : ServiceReq} (hup : s.svcUp r.cls r.unit = true) (hrun : s.runOn r.cls r.unit = none)
    (hlast : s.svcLast r.cls r.unit = true) : s.requestRemove r = s.setReg K.serviceStatus 0x04 := by
  rw [State.requestRemove, if_neg (by simp [hup, hrun]), if_pos hlast]
  rfl

/-! ### The safe stop (R425) -/

/-- Changing other cells leaves a cell's value. -/
theorem cellGet_map_of_same {α : Type} (d : α) (k : Nat) (g : Nat × α → Nat × α) (hkey : ∀ c, (g c).1 = c.1) (hsame : ∀ v, g (k, v) = (k, v))
    (l : List (Nat × α)) : cellGet d k (l.map g) = cellGet d k l := by
  induction l with
  | nil => rfl
  | cons c l ih =>
    obtain ⟨i, v⟩ := c
    simp only [List.map_cons, cellGet, hkey, ih]
    split
    · next h =>
      obtain rfl : i = k := h
      rw [hsame]
    · rfl

/-- Settling the services changes their own states and the ports' alone. -/
theorem State.settleService_reg (s : State) {k : Nat} (hsvc : k / 256 < 0x2930 ∨ 0x2937 < k / 256) (hport : ∀ p < 16, k ≠ K.portState p) :
    s.settleService.reg k = s.reg k := by
  have hout : ¬ (0x2930 ≤ k / 256 ∧ k / 256 ≤ 0x2937) := by omega
  unfold State.settleService
  dsimp only
  refine (List.foldlRecOn (motive := fun t : State => t.reg k = _) _ _ rfl fun t ht p hp => ?_).trans ?_
  · split
    · exact ht
    · exact (State.reg_setReg_ne _ _ _ _ (hport p (List.mem_range.1 hp)).symm).trans ht
  · refine (cellGet_filter_of _ _ _ (fun v => by simp; omega) _).trans (cellGet_map_of_same _ _ _ (fun c => ?_) (fun v => ?_) _)
    · split <;> rfl
    · exact if_neg hout

/-- What the standby domain keeps of the dictionary outlives the fast domains. -/
theorem State.fastLost_reg (s : State) {k : Nat} (hkeep : standbyKeeps (s.reg K.moduleState == 2) k = true) (hlock : k ≠ K.pllLocked)
    (hsvc : k / 256 < 0x2930 ∨ 0x2937 < k / 256) (hport : ∀ p < 16, k ≠ K.portState p) : s.fastLost.reg k = s.reg k := by
  unfold State.fastLost
  generalize State.reset = r
  dsimp only
  rw [State.settleService_reg _ hsvc hport, State.reg_setReg_ne _ _ _ _ hlock.symm]
  exact cellGet_filter_of _ _ _ (fun _ => hkeep) _

/-- The gate that a safe stop closed stays closed as the fast domains lose power. -/
theorem State.fastLost_gateStop (s : State) : s.fastLost.gov.gateStop = s.gov.gateStop := by
  have hservice (t : State) : t.settleService.gov = t.gov := by
    unfold State.settleService
    dsimp only
    refine (foldl_keeps (fun t : State => t.gov) _ (fun t p => ?_) _ _).trans rfl
    split
    · rfl
    · exact State.setReg_gov _ _ _
  unfold State.fastLost
  generalize State.reset = r
  dsimp only
  rw [hservice, State.setReg_gov]

/-- Raises that a loss of power cuts off change the part alone. -/
theorem State.cutRaises_keeps {α : Type} (f : State → α) (hf : ∀ (s : State) (p : Part), f { s with part := p } = f s) (s : State) :
    f s.cutRaises = f s := by
  unfold State.cutRaises
  refine foldl_keeps f _ (fun t d => ?_) _ _
  exact hf _ _

/-- What a safe stop leaves. -/
theorem State.safeStop_eq (s : State) : s.safeStop.reg K.moduleState = 2 ∧ s.safeStop.reg K.lastOffCause = 0x06 ∧
    s.safeStop.pow.railsUp = 0 ∧ s.safeStop.pow.rearm = true ∧ s.safeStop.gov.gateStop = true := by
  unfold State.safeStop
  extract_lets gov stopped journalled latched
  have hlatch (t : State) : ((t.setReg K.moduleState 2).latchAlert 0x40).reg K.moduleState = 2 := by
    rw [State.latchAlert, State.reg_setReg_ne _ _ _ _ (by decide), State.reg_setReg]
  have hmodule : latched.cutRaises.reg K.moduleState = 2 := by
    rw [State.cutRaises_keeps (fun t : State => t.reg K.moduleState) fun _ _ => rfl]
    exact hlatch _
  have hgate : latched.cutRaises.gov.gateStop = true := by
    rw [State.cutRaises_keeps (fun t : State => t.gov.gateStop) fun _ _ => rfl]
    rfl
  have hlost : latched.cutRaises.fastLost.reg K.moduleState = 2 := by
    rw [State.fastLost_reg (k := K.moduleState) _ (by rw [hmodule]; decide) (by decide) (by decide) (fun p hp => by simp only [K.moduleState, K.portState]; omega), hmodule]
  have hkept : latched.cutRaises.fastLost.gov.gateStop = true := (State.fastLost_gateStop _).trans hgate
  unfold State.railsDrop
  generalize latched.cutRaises.fastLost = t at hlost hkept
  refine ⟨?_, ?_, rfl, rfl, hkept⟩
  · change ((t.setReg K.lastOffCause 6).setReg K.pllLocked 0).reg K.moduleState = 2
    rw [State.reg_setReg_ne _ _ _ _ (by decide), State.reg_setReg_ne _ _ _ _ (by decide), hlost]
  · change ((t.setReg K.lastOffCause 6).setReg K.pllLocked 0).reg K.lastOffCause = 6
    rw [State.reg_setReg_ne _ _ _ _ (by decide), State.reg_setReg]

/-- Settles O44: each request, timer and restart is its function on the branch that its conditions choose; of a safe stop the standby
domain keeps the module's state and the gate. -/
theorem serviceAndCoresRestart : Obligations.ServiceAndCoresRestart := by
  unfold Obligations.ServiceAndCoresRestart
  refine ⟨⟨fun s p r hserved => ?_, fun s t r hpow hruns hop hadvance => congrArg (finish s) ?_,
    fun s r pass hpow hrun => congrArg (finish s) ?_⟩, fun s c hboot hc hup hactive => congrArg (finish s) ?_,
    fun s c hpow hc hdown => congrArg (finish s) ?_, fun s hpow => ?_⟩
  · dsimp only
    intro hrole hcls hcls'
    have hrow (op : Nat) (hop : 1 ≤ op ∧ op ≤ 3) : s.serviceRow op p r = (s.wake (.core 3)).serviceRequest op r :=
      State.serviceRow_eq hserved hrole ⟨hcls, hcls'⟩ hop
    have hdo {op : Nat} {t : State} (hop : 1 ≤ op ∧ op ≤ 3) (hdone : (s.wake (.core 3)).serviceRequest op r = t) :
        finish s (s.serviceRow op p r) = .next (settle s t) := congrArg (finish s) ((hrow op hop).trans hdone)
    refine ⟨fun op i hmem v hv => ?_, fun hok hup hrun hlast hroom hpackage => hdo (op := 1) (by decide) ?_,
      fun hok hup hrun hlast => hdo (op := 1) (by decide) ?_, fun hok hstate => hdo (op := 2) (by decide) ?_,
      fun hok hstate => hdo (op := 3) (by decide) ?_⟩
    · have hdone := State.serviceRequest_refused hv
      simp only [List.mem_cons, Prod.mk.injEq, List.not_mem_nil, or_false] at hmem
      rcases hmem with ⟨rfl, rfl⟩ | ⟨rfl, rfl⟩ | ⟨rfl, rfl⟩
      · exact hdo (by decide) hdone
      · exact hdo (by decide) hdone
      · exact hdo (by decide) hdone
    · unfold State.serviceRequest
      rw [hok]
      exact State.requestRemove_begins hup hrun hlast hroom hpackage
    · unfold State.serviceRequest
      rw [hok]
      exact State.requestRemove_last hup hrun hlast
    · unfold State.serviceRequest
      rw [hok]
      exact if_pos hstate
    · unfold State.serviceRequest
      rw [hok]
      exact if_pos (.inl hstate)
  · rw [serviceRemovalDone, if_neg (by simp [hpow]), hruns]
    simp [hop, hadvance]
  · rw [selfTestDone, if_neg (by simp [hpow]), hrun]
  · have hworks : c ∉ s.svc.coreDown := by simpa using hup
    exact if_neg (by simp [hboot, hworks, hactive, hc])
  · have hout : ¬ (s.powered = false ∨ s.svc.coreDown.contains c = false) := by rw [hpow, hdown]; decide
    have hcore : ¬ c < 2 := by omega
    have hzero : ¬ c = 0 := by omega
    rw [fwCoreRestart, if_neg hout]
    dsimp only
    rw [if_neg hcore, if_neg hzero, if_neg hcore]
  · obtain ⟨hmodule, hcause, hrails, hrearm, hgate⟩ := s.safeStop_eq
    refine ⟨settle s s.safeStop, congrArg (finish s) (if_pos hpow), ?_⟩
    rw [settle_reg _ _ _ (by unfold Derived; decide), settle_reg _ _ _ (by unfold Derived; decide), settle_pow (·.railsUp) fun _ _ => rfl,
      settle_pow (·.rearm) fun _ _ => rfl, settle_gov]
    exact ⟨hmodule, hcause, hrails, hrearm, hgate⟩

end Sys2Proof.Machine
end

section
/-! SUPPORT and PROOFS. Scrub and the temperature of the stacks (R305, R307, R308, R371, R412, R416). -/

namespace Sys2Proof.Machine

/-! ### Patrol scrub (R305, R307) -/

/-- A corrected unit of tier 0 is counted for its stack and handled. -/
theorem State.correctedAt_tier0 (s : State) {addr : Nat} (h : addr < t0Frames * 65536) :
    s.correctedAt addr 1 none = ((s.bump (K.hbmCorrected (frameStack (addr / 65536))) 1).count (0x40 + frameStack (addr / 65536)) 0x13 1
      none).corrected 4 (32 * frameStack (addr / 65536) + 2 * frameChannel (addr / 65536) + addr / 256 % 2) 0 :=
  (if_neg (by decide)).trans (if_pos (by simp only [t0Frames, t1Base] at *; omega))

/-- What a scrub of tier 0 does of its result, in a channel that is up. -/
def State.scrubUnit0 (s : State) (addr : Nat) (r : ScrubResult) : State :=
  match r with
  | .clean => s
  | .corrected => s.correctedAt addr 1 none
  | .uncorrectable => s.poison (addr / 64 * 64)

/-- A scrub of tier 0 in a channel that is up: the sector's result, then the pass where the sector is the last. -/
theorem patrolScrub_tier0 {s : State} {addr : Nat} (hpow : s.powered = true) (h : addr < t0Frames * 65536)
    (hup : s.channelUp (frameStack (addr / 65536)) (frameChannel (addr / 65536)) = true) (r : ScrubResult) :
    patrolScrub addr r s =
      if addr / 64 * 64 = t0LastSector then (s.scrubUnit0 addr r).bump32 K.scrubPassesT0 1 else s.scrubUnit0 addr r := by
  have hlive : ¬ s.channelUp (frameStack (addr / 65536)) (frameChannel (addr / 65536)) = false := by simp [hup]
  unfold patrolScrub
  rw [if_neg (by simp [hpow]), if_pos h]
  dsimp only
  rw [if_neg hlive]
  rfl

/-- A scrub of a unit of tier 1: the unit's result, then the pass where it is the last. -/
theorem patrolScrub_tier1 {s : State} {c u : Nat} (hpow : s.powered = true) (hc : c < s.chunksTotal) (hu : u < 64) (r : ScrubResult) :
    patrolScrub (t1Base + 4096 * c + 64 * u) r s =
      if 64 * c + u = 64 * (s.scrubUnit1 c u r).chunksTotal - 1 then (s.scrubUnit1 c u r).bump32 K.scrubPassesT1 1
      else s.scrubUnit1 c u r := by
  have htier : ¬ t1Base + 4096 * c + 64 * u < t0Frames * 65536 := by simp only [t0Frames, t1Base]; omega
  have hunit : (t1Base + 4096 * c + 64 * u - t1Base) / 64 = 64 * c + u := by omega
  have hchunk : (64 * c + u) / 64 = c := by omega
  have hin : (64 * c + u) % 64 = u := by omega
  unfold patrolScrub
  rw [if_neg (by simp [hpow]), if_neg htier]
  simp only [hunit, hchunk, hin, if_pos hc]

/-! ### Temperature of the stacks (R308) -/

/-- A report of 96 °C or more is level 3. -/
theorem throttleLevel_hot (t h : Nat) {milli : Int} (hot : 96000 ≤ milli) {l : Nat} (hl : l ≤ 3) : throttleLevel t h milli l = 3 := by
  simp [throttleLevel, hot, hl]

/-- A stack stays at level 3 down to 93 °C. -/
theorem throttleLevel_stays3 (t h : Nat) {milli : Int} (hexit : 93000 ≤ milli) (hlow : milli < 96000) : throttleLevel t h milli 3 = 3 := by
  simp only [throttleLevel]
  grind

/-- A stack stays at level 2 between that level's exit temperature and 96 °C. -/
theorem throttleLevel_stays2 (t h : Nat) {milli : Int} (hexit : 1000 * t + 4000 - 1000 * h ≤ milli) (hlow : milli < 96000) :
    throttleLevel t h milli 2 = 2 := by
  simp only [throttleLevel]
  grind

/-- A stack stays at level 1 between that level's exit temperature and the entry temperature of level 2. -/
theorem throttleLevel_stays1 (t h : Nat) {milli : Int} (hexit : 1000 * t - 1000 * h ≤ milli) (hnext : milli < 1000 * t + 4000)
    (hlow : milli < 96000) : throttleLevel t h milli 1 = 1 := by
  simp only [throttleLevel]
  grind

/-- A stack stays at level 0 below the threshold. -/
theorem throttleLevel_stays0 (t h : Nat) {milli : Int} (hlow : milli < 1000 * t) (hlow' : milli < 96000) : throttleLevel t h milli 0 = 0 := by
  simp only [throttleLevel]
  grind

/-- A level that changes between 1, 2 and 3 is told, and what level 3 held goes on. -/
theorem State.setThrottle_between {s : State} {st level : Nat} (hne : (s.throttledTime st).reg (K.hbmThrottleLevel st) ≠ level)
    (hwas : (s.throttledTime st).reg (K.hbmThrottleLevel st) ≠ 0) (hlevel : level ≠ 0) :
    let u := s.throttledTime st
    let v := (u.setReg (K.hbmThrottleLevel st) level).postSession 0x44 0xFF (leBytes 1 st ++ leBytes 1 level)
    s.setThrottle st level = if u.reg (K.hbmThrottleLevel st) = 3 then v.goOn else v := by
  have hstay : ¬ ((s.throttledTime st).reg (K.hbmThrottleLevel st) = 0 ∨ level = 0) := not_or.2 ⟨hwas, hlevel⟩
  unfold State.setThrottle
  dsimp only
  rw [if_neg hne, if_neg hstay]

/-- A report's own entry is none of those that the level follows from. -/
theorem hbmTempReport_eq {s : State} {st : Nat} (hpow : s.powered = true) (hst : st < 12) (milli : Int) :
    hbmTempReport st milli s = (s.setReg (K.hbmTemperature st) (milli % 2 ^ 32).toNat).setThrottle st
      (throttleLevel (s.reg K.hbmThreshold) (s.reg K.hbmHysteresis) milli (s.reg (K.hbmThrottleLevel st))) := by
  have hkeep {k : Nat} (hk : K.hbmTemperature st ≠ k) :
      (s.setReg (K.hbmTemperature st) (milli % 2 ^ 32).toNat).reg k = s.reg k := State.reg_setReg_ne _ _ _ _ hk
  rw [hbmTempReport, if_neg (by simp [hpow, hst])]
  dsimp only
  rw [hkeep (by simp only [K.hbmTemperature, K.hbmThreshold]; omega), hkeep (by simp only [K.hbmTemperature, K.hbmHysteresis]; omega),
    hkeep (by simp only [K.hbmTemperature, K.hbmThrottleLevel]; omega)]

/-- Settles O28: each scrub is its unit's result and the end of a pass; the levels follow by the order of the entry and exit temperatures. -/
theorem scrubAndTemperatureTakeEffect : Obligations.ScrubAndTemperatureTakeEffect := by
  unfold Obligations.ScrubAndTemperatureTakeEffect
  refine ⟨fun s addr hpow haddr => ?_, fun s c u hpow hc hu hok => ?_, fun s cls unit structure_ off hpow hunit hcode => ?_,
    fun s st milli hpow hst => ⟨congrArg (finish s) (hbmTempReport_eq hpow hst milli), congrArg (finish s) (if_neg (by simp [hpow, hst]))⟩,
    fun s st level => ⟨fun hsame => if_pos hsame, State.setThrottle_between⟩, fun s st hst hlevel => congrArg (finish s) (if_pos ⟨hst, hlevel⟩),
    fun t h milli => ?_⟩
  · dsimp only
    intro hup
    have hscrub := patrolScrub_tier0 hpow haddr hup
    refine ⟨congrArg (finish s) (hscrub .clean), congrArg (finish s) ((hscrub .corrected).trans ?_),
      congrArg (finish s) (hscrub .uncorrectable)⟩
    rw [State.scrubUnit0, State.correctedAt_tier0 s haddr]
  · have hscrub := patrolScrub_tier1 hpow hc hu
    have hchunk : ¬ s.chunkOk c = false := by simp [hok]
    have hresult : s.scrubUnit1 c u .clean = s ∧ s.scrubUnit1 c u .corrected = (s.bump K.t1Corrected 1).corrected 6 (c % 16) 0 :=
      ⟨if_neg hchunk, if_neg hchunk⟩
    dsimp only
    refine ⟨by decide, congrArg (finish s) ((hscrub .clean).trans (by rw [hresult.1])),
      congrArg (finish s) ((hscrub .corrected).trans (by rw [hresult.2])), fun x b hx hb => congrArg (finish s) ((hscrub .uncorrectable).trans ?_)⟩
    have hbad : s.scrubUnit1 c u .uncorrectable = s.poison (t1Base + 65536 * x.id + 128 * b) := by
      unfold State.scrubUnit1
      simp only [if_neg hchunk, hx, hb]
    rw [hbad]
  · have hscrub : ¬ (s.powered = false ∨ s.scrubUnit cls unit = false ∨ scrubCode cls structure_ = false) := by simp [hpow, hunit, hcode]
    exact ⟨congrArg (finish s) (if_neg hscrub), congrArg (finish s) (if_neg hscrub), congrArg (finish s) (if_neg hscrub)⟩
  · exact ⟨fun hot l hl => throttleLevel_hot t h hot hl, throttleLevel_stays3 t h, throttleLevel_stays2 t h, throttleLevel_stays1 t h,
      throttleLevel_stays0 t h⟩

end Sys2Proof.Machine
end

section
/-! SUPPORT and PROOFS. Ports and lanes (R315, R320 to R322, R348). -/

namespace Sys2Proof.Machine

/-- A port that leaves UP counts a flap, and its frames go on by other ports (R315, R321). -/
theorem State.portDown_up {s : State} {p : Nat} {P : Port} (hP : s.fab.ports[p]? = some P) (hup : s.reg (K.portState p) = psUp) :
    let times := s.tick :: P.flapTimes.filter fun t => s.tick - t < 60 * 25000000
    let u := (((s.bump32 (K.portFlaps p) 1).modPort p fun P => { P.down with flapTimes := times }).setReg (K.portState p)
      (if 9 ≤ times.length then psQuarantined else psDown)).setReg (K.portLanesInService p) 0
    s.portDown p psDown = ((((P.replay ++ P.waitTx).foldl (fun s t => s.moveFrame t) u).holdCut).noWindow).flowOn := by
  have hflaps : (s.bump32 (K.portFlaps p) 1).recentFlaps p = P.flapTimes.filter fun t => s.tick - t < 60 * 25000000 := by
    have hports : (s.bump32 (K.portFlaps p) 1).fab.ports[p]? = some P := hP
    rw [State.recentFlaps, hports]
    rfl
  rw [State.portDown, if_pos hup, State.leaveUp, hP]
  dsimp only
  rw [hflaps]
  simp only [ge_iff_le, and_true]
  rfl

/-- The write of a port's service for port `p`. -/
theorem State.writeEntry_portService (s : State) {p : Nat} (hp : p < 16) (n : Nat) (b : List Byte) :
    s.writeEntry (0x2720 + p) 0xA n b = some (s.writePortService p n) := by
  have harea : (0x2720 + p) / 256 = 0x27 := by omega
  have hport : s.writeFabric (0x2720 + p) 0xA n = some (s.writePortService p n) := by
    unfold State.writeFabric
    rw [if_neg (by omega), if_neg (by omega), if_pos (by omega), Nat.add_sub_cancel_left]
  simp only [State.writeEntry, harea, hport]

/-- Settles O29: each command is its function on the branch that the port's state chooses. -/
theorem portsComeUpAndGoDown : Obligations.PortsComeUpAndGoDown := by
  unfold Obligations.PortsComeUpAndGoDown
  intro s p hp
  refine ⟨fun P hP hup => State.portDown_up hP hup, fun hdown => if_neg hdown, fun lanes hlive hdown hlanes =>
      ⟨congrArg (finish s) (if_pos ⟨hp, hlive, hdown, hlanes⟩), congrArg (finish s) (if_pos ⟨hp, hlive, hdown, Nat.le_refl _⟩)⟩,
    fun htraining => ⟨congrArg (finish s) (if_pos ⟨hp, htraining⟩), fun lanes => ⟨fun hfew => congrArg (finish s) ?_,
      fun henough => congrArg (finish s) ?_⟩⟩,
    fun hstate => congrArg (finish s) (if_pos ⟨hp, hstate⟩), fun hquar => congrArg (finish s) (if_pos ⟨hp, hquar⟩),
    fun v hserved hok => ?_, fun l hup hlane => ?_⟩
  · exact (if_pos ⟨hp, htraining⟩).trans (if_pos hfew)
  · exact (if_pos ⟨hp, htraining⟩).trans (if_neg (by omega))
  · have hwrite := State.odRow_of_entry hserved hok (State.writeEntry_portService _ hp _ _)
    refine ⟨fun hout hstate => congrArg (finish s) (hwrite.trans ?_), fun hout hstate => congrArg (finish s) (hwrite.trans ?_),
      fun hin hstate => congrArg (finish s) (hwrite.trans ?_), fun hin hstate => congrArg (finish s) (hwrite.trans ?_)⟩
    · exact (if_pos hout).trans (if_neg hstate)
    · exact (if_pos hout).trans (if_pos hstate)
    · exact (if_neg hin).trans (if_pos hstate)
    · exact (if_neg hin).trans (if_neg hstate)
  · have hlive : ¬ (s.portUp p = false ∨ bit (s.reg (K.portLanesInService p)) l = false) := by simp [hup, hlane]
    exact ⟨congrArg (finish s) (if_neg hlive), fun corrected received => congrArg (finish s) (if_neg hlive)⟩

end Sys2Proof.Machine
end

section
/-! SUPPORT and PROOFS. Frames and keys of the fabric links (R315 to R319, R451, R452). -/

namespace Sys2Proof.Machine

/-! ### Replay buffers (R316, R319) -/

/-- A port changed is the port, changed. -/
theorem State.modPort_port {s : State} {p : Nat} {P : Port} (h : s.fab.ports[p]? = some P) (g : Port → Port) :
    (s.modPort p g).fab.ports[p]? = some (g P) := by
  have hports : (s.modPort p g).fab.ports = s.fab.ports.modify p g := rfl
  rw [hports, List.getElem?_modify_eq, h]
  rfl

/-- An acknowledgement of a frame that is in the buffer takes it and those before it out. -/
theorem State.ackFrames_found {s : State} {p n : Nat} {P : Port} (h : s.fab.ports[p]? = some P) (hn : ∃ t ∈ P.replay, t.seq = n) :
    ((s.ackFrames p n).fab.ports[p]?).map (·.replay) = some (P.replay.filter fun t => !seqUpTo t.seq n) := by
  have hany : (P.replay.any (·.seq == n)) = true := List.any_eq_true.2 (hn.imp fun t ht => ⟨ht.1, beq_iff_eq.2 ht.2⟩)
  rw [State.ackFrames, State.modPort_port h, if_pos hany]
  rfl

/-- An acknowledgement of no frame in the buffer leaves it. -/
theorem State.ackFrames_stray {s : State} {p n : Nat} {P : Port} (h : s.fab.ports[p]? = some P) (hn : ∀ t ∈ P.replay, t.seq ≠ n) :
    ((s.ackFrames p n).fab.ports[p]?).map (·.replay) = some P.replay := by
  have hany : ¬ (P.replay.any (·.seq == n)) = true := by simpa using hn
  rw [State.ackFrames, State.modPort_port h, if_neg hany]
  rfl

/-- An empty replay buffer sends nothing again. -/
theorem State.replayPort_nil {s : State} {p : Nat} {P : Port} (h : s.fab.ports[p]? = some P) (hnil : P.replay = []) : s.replayPort p = s := by
  rw [State.replayPort, h]
  exact if_pos hnil

/-- A replay counts one for each frame that is sent again; the 16th of one takes the port down. -/
theorem State.replayPort_cons {s : State} {p : Nat} {P : Port} (h : s.fab.ports[p]? = some P) (hsome : P.replay ≠ []) :
    let t := ((s.bump (K.portLinkReplays p) 1).count 0x51 0x12 1 none).modPort p fun P => { P with replay := P.replay.map fun t => { t with
      replays := t.replays + 1 } }
    s.replayPort p = if P.replay.any fun t => t.replays + 1 ≥ 16 then t.portDown p psDown else t := by
  rw [State.replayPort, h]
  exact if_neg hsome

/-- A frame whose tag fails is counted; the 64th within 1 s takes the port down (R318). -/
theorem corruptFabricFrame_tag {s : State} {p : Nat} {P : Port} (hup : s.portUp p = true) (h : s.fab.ports[p]? = some P) :
    let times := s.tick :: P.tagFails.filter fun t => s.tick - t < 25000000
    let t := (s.bump (K.portAuthFailures p) 1).modPort p fun P => { P with tagFails := times }
    corruptFabricFrame p .tag s = if times.length ≥ 64 then t.portDown p psDown else t := by
  rw [corruptFabricFrame, if_neg (by simp [hup])]
  dsimp only
  rw [h]
  rfl

/-! ### Keying (R451, R452) -/

/-- A port whose exchange goes on: one that is being keyed, or one that is UP and rekeys. -/
def State.exchanging (s : State) (p : Nat) (P : Port) : Prop :=
  s.reg (K.portState p) = psKeying ∨ (s.reg (K.portState p) = psUp ∧ P.rekeying = true)

/-- While an exchange goes on its frames are taken. -/
theorem State.exchanging.not_ignored {s : State} {p : Nat} {P : Port} (h : s.exchanging p P) :
    ¬ (s.reg (K.portState p) ≠ psKeying ∧ (!decide (s.reg (K.portState p) = psUp ∧ P.rekeying = true)) = true) := by
  rintro ⟨hkeying, hup⟩
  rcases h with h | h
  · exact hkeying h
  · simp [h] at hup

/-- An exchange that does not complete in time fails. -/
theorem keyingTimeout_fails {s : State} {p : Nat} {P : Port} (hP : s.fab.ports[p]? = some P) (h : s.exchanging p P) :
    keyingTimeout p s = (s.bump K.keyingFailures 1).portDown p psDown := by
  rw [keyingTimeout, hP]
  exact if_pos h

/-- A peer's chain is verified. -/
theorem keyingFrame_hello {s : State} {p : Nat} {P : Port} (hP : s.fab.ports[p]? = some P) (h : s.exchanging p P) {own : KeyingMsg}
    (hown : P.keying = [own]) (r k : Nat) (c : List Byte) : keyingFrame p (.hello r k c) s =
      if Config.chainVerify c s.linkRoot then s.modPort p fun P => { P with keying := [own, .hello r k c] }
      else (s.bump K.keyingFailures 1).portDown p psDown := by
  rw [keyingFrame, hP]
  dsimp only
  rw [if_neg h.not_ignored, hown]
  rfl

/-- A peer's signature over the hellos is verified: it brings a port that is being keyed UP, and is kept in a rekey. -/
theorem keyingFrame_sign {s : State} {p : Nat} {P : Port} (hP : s.fab.ports[p]? = some P) (h : s.exchanging p P) {r0 k0 r k g : Nat}
    {c0 c : List Byte} (hellos : P.keying = [.hello r0 k0 c0, .hello r k c]) : keyingFrame p (.sign g) s =
      if Config.ed25519Verify (Config.chainKey c)
          (leBytes 64 (Config.sha512 (keyingBytes (.hello r0 k0 c0) ++ keyingBytes (.hello r k c)))) g = false then
        (s.bump K.keyingFailures 1).portDown p psDown
      else if s.reg (K.portState p) = psKeying then
        s.portUpNow p (linkKeys P.secret k r0 r 1).1 (linkKeys P.secret k r0 r 1).2
      else s.modPort p fun P => { P with keying := P.keying ++ [.sign g] } := by
  rw [keyingFrame, hP]
  dsimp only
  rw [if_neg h.not_ignored, hellos]
  rfl

/-- A confirmed rekey gives the next generation. -/
theorem keyingFrame_confirm {s : State} {p : Nat} {P : Port} (hP : s.fab.ports[p]? = some P) (h : s.exchanging p P) {r0 k0 r k g : Nat}
    {c0 c : List Byte} (hkeying : P.keying = [.hello r0 k0 c0, .hello r k c, .sign g]) : keyingFrame p .confirm s =
      s.rekeyed p (linkKeys P.secret k r0 r (P.gen + 1)).1 (linkKeys P.secret k r0 r (P.gen + 1)).2 := by
  rw [keyingFrame, hP]
  dsimp only
  rw [if_neg h.not_ignored, hkeying]

/-- Settles O30: each command is its function on the branch that the port's record chooses. -/
theorem linkFramesAndKeysTakeEffect : Obligations.LinkFramesAndKeysTakeEffect := by
  unfold Obligations.LinkFramesAndKeysTakeEffect
  refine fun s p => ⟨fun hup n => ?_, fun P n hP => ⟨State.ackFrames_found hP, State.ackFrames_stray hP, State.replayPort_nil hP,
    State.replayPort_cons hP⟩, fun P hP => ⟨fun hexchange => ?_, fun hup hkeyed => ?_, fun hup hrekeying r0 k0 c0 r k c g hkeying => ?_⟩, rfl⟩
  · have hlive : ¬ s.portUp p = false := by simp [hup]
    exact ⟨congrArg (finish s) (if_pos hup), congrArg (finish s) (if_pos hup), congrArg (finish s) (if_pos hup),
      congrArg (finish s) (if_pos hup), congrArg (finish s) (if_neg hlive), congrArg (finish s) (if_neg hlive),
      fun P hP => congrArg (finish s) (corruptFabricFrame_tag hup hP)⟩
  · refine ⟨congrArg (finish s) (keyingTimeout_fails hP hexchange), fun own r k c hown => ?_, fun r0 k0 c0 r k c g hellos => ?_⟩
    · have hframe := keyingFrame_hello hP hexchange hown r k c
      exact ⟨fun hgood => congrArg (finish s) (hframe.trans (if_pos hgood)),
        fun hbad => congrArg (finish s) (hframe.trans (if_neg (by simp [hbad])))⟩
    · have hframe := keyingFrame_sign (g := g) hP hexchange hellos
      refine ⟨fun hbad => congrArg (finish s) (hframe.trans (if_pos hbad)), fun hgood => ?_⟩
      have hverified := hframe.trans (if_neg (by rw [hgood]; decide))
      exact ⟨fun hstate => congrArg (finish s) (hverified.trans (if_pos hstate)),
        fun hstate => congrArg (finish s) (hverified.trans (if_neg (by rw [hstate]; decide)))⟩
  · refine congrArg (finish s) ?_
    rw [State.startRekey, hP]
    exact if_pos ⟨hup, hkeyed⟩
  · exact congrArg (finish s) (keyingFrame_confirm hP (.inr ⟨hup, hrekeying⟩) hkeying)

end Sys2Proof.Machine
end

section
/-! SUPPORT and PROOFS. The Ryeve link, doorbells and heartbeats (R350 to R356, R358, R361, R370, R400). -/

namespace Sys2Proof.Machine

/-- A frame received leaves which session is open. -/
theorem State.ryReceived_sessionOk (s : State) (session : Nat) : s.ryReceived.sessionOk session = s.sessionOk session := rfl

/-- Training on a signal: the link of a powered module that is DOWN trains. -/
theorem ryeveSignalDetect_eq {s : State} (hpow : s.powered = true) (hstate : s.reg K.moduleState ≠ 2) (hdown : s.reg K.ryeveLinkState = 0)
    (hpll : s.pow.pllStopped = false) : ryeveSignalDetect s = s.setReg K.ryeveLinkState 1 := by
  rw [ryeveSignalDetect, if_pos ⟨hpow, hstate, hdown⟩]
  dsimp only
  rw [if_neg (by simp [hpll])]

/-- The end of a ring's interval sends the NOTIFY that was deferred in it. -/
theorem State.jobIntervalEnd_eq {s : State} {j ring : Nat} (hwait : (s.job j).notifyWait.contains ring = true) :
    let t := s.modJob j fun x => { x with
      notifyWait := x.notifyWait.filter (· != ring), notifyDue := x.notifyDue.filter (· != ring) }
    s.jobIntervalEnd j ring = if (s.job j).notifyDue.contains ring then t.notifyJob j ring else t :=
  if_neg (by rw [hwait]; decide)

/-- Settles O31: each frame and doorbell is its function on the branch that its conditions choose. -/
theorem ryeveLinkAndDoorbells : Obligations.RyeveLinkAndDoorbells := by
  unfold Obligations.RyeveLinkAndDoorbells
  refine ⟨fun s => ⟨fun hup => ?_, fun hpow hstate => congrArg (finish s) (if_pos ⟨hpow, hstate⟩),
      fun hpow hstate hdown hpll => congrArg (finish s) (ryeveSignalDetect_eq hpow hstate hdown hpll)⟩,
    fun s j index session hup => ?_, fun s session hup hsession => ?_,
    fun s => ⟨fun hup => congrArg (finish s) (if_pos hup), fun hstandby => congrArg (finish s) (if_pos hstandby)⟩,
    fun s j ring r hring hwait => ?_⟩
  · have hlive : ¬ s.ryUp = false := by simp [hup]
    refine ⟨fun n => ⟨congrArg (finish s) (if_neg hlive), congrArg (finish s) (if_neg hlive)⟩,
      fun a b c => congrArg (finish s) (if_neg hlive), congrArg (finish s) (if_neg hlive), fun j => congrArg (finish s) (if_neg hlive),
      fun hnil => congrArg (finish s) ((if_pos hup).trans (if_pos hnil)), fun hsome => congrArg (finish s) ((if_pos hup).trans (if_neg hsome))⟩
  · have hlive : ¬ s.ryUp = false := by simp [hup]
    dsimp only
    refine ⟨fun hok hroom hforward => congrArg (finish s) ((if_neg hlive).trans (if_neg ?_)),
      fun hok hwritten => congrArg (finish s) ((if_neg hlive).trans (if_neg ?_)),
      fun hok hjob hwritten => congrArg (finish s) ((if_neg hlive).trans ((if_neg hjob).trans (if_neg ?_))),
      fun hbad => congrArg (finish s) ((if_neg hlive).trans (if_pos hbad))⟩
    · simp [hok]; omega
    · simp [hok]; omega
    · simp [hok]; omega
  · have hlive : ¬ s.ryUp = false := by simp [hup]
    have hopen : s.ryReceived.sessionOk session = true := (s.ryReceived_sessionOk session).trans hsession
    exact congrArg (finish s) ((if_neg hlive).trans (if_pos hopen))
  · have hend := State.jobIntervalEnd_eq hwait
    rcases hring with ⟨rfl, rfl⟩ | ⟨rfl, rfl⟩
    · exact congrArg (finish s) hend
    · exact congrArg (finish s) hend

end Sys2Proof.Machine
end

section
/-! SUPPORT and PROOFS. Core 2's decisions (R98, R302, R420, R421). -/

namespace Sys2Proof.Machine

/-- The halt of a queue that an entry names, still open, is the one decided. -/
theorem State.decideQueue_own {s : State} {q : QueueId} {Q : Queue} {h : Halt} (hQ : s.queue q = some Q) (hhalt : Q.halt = some h)
    (hopen : h.decided = false) : s.decideQueue q h.job h.reason = s.decideHalt q h := by
  have hown : ((s.queue q).bind fun Q => Q.halt.filter fun x => x.job == h.job && x.reason == h.reason && !x.decided) = some h := by
    rw [hQ, Option.bind_some, hhalt, Option.filter_some_pos]
    simp [hopen]
  unfold State.decideQueue
  dsimp only
  rw [hown]

/-- Core 2's decision of a halt, by its reason (R98, R302). -/
theorem State.decideHalt_eq (s : State) (q : QueueId) (h : Halt) :
    (h.reason = 0xF0 → s.decideHalt q h = (0x00, s.modQueue q fun Q => { Q with halt := some { h with decided := true } })) ∧
    (h.reason = 0x22 → s.reg (K.quotaWait h.job) ≠ 0 → s.decideHalt q h = (0x00, s.holdHalt q h)) ∧
    (h.reason = 0x22 → s.reg (K.quotaWait h.job) = 0 → s.decideHalt q h = (0x02, s.endHalt q h)) ∧
    (h.reason ≠ 0xF0 → h.reason ≠ 0x22 → h.reason ≠ 0x23 → s.decideHalt q h = (0x02, s.endHalt q h)) := by
  unfold State.decideHalt
  refine ⟨fun hbreak => ?_, fun hquota hwait => ?_, fun hquota hwait => ?_, fun hbreak hquota hstash => ?_⟩
  · rw [hbreak]
    rfl
  · rw [hquota]
    exact if_neg hwait
  · rw [hquota]
    exact if_pos hwait
  · split
    · next h => exact absurd h hbreak
    · next h => exact absurd h hstash
    · next h => exact absurd h hquota
    · rfl

/-- Settles O26: the first entry is decided, and a halt is held, left or ended by its reason. -/
theorem haltsAreDecided : Obligations.HaltsAreDecided := by
  unfold Obligations.HaltsAreDecided
  refine ⟨fun s e rest hpow hcore hqueue => congrArg (finish s) ?_, fun s q Q h hQ hhalt hopen => ?_,
    fun s q j h hpow hcore hheld => congrArg (finish s) ?_⟩
  · rw [handlerEntryDecide, if_neg (by simp [hpow, hcore]), hqueue]
  · rw [State.decideQueue_own hQ hhalt hopen]
    exact s.decideHalt_eq q h
  · rw [quotaWaitExpiry, if_neg (by simp [hpow, hcore]), hheld]

end Sys2Proof.Machine
end

section
/-! SUPPORT and PROOFS. Submission and STEP entries, SCHED clauses and code regions (R68, R86, R93, R94, R96, R231, R365, R372, R376). -/

namespace Sys2Proof.Machine

/-! ### Admission (R86, R365, R372, R376) -/

/-- An entry that breaks a rule, in an OPEN session with a completion slot free, ends its attempt NOT_STARTED. -/
theorem State.attempt_refused {s : State} {j r d : Nat} {e : SubEntry} (hadmits : s.admits j = true) (hopen : s.reg K.sessionState = ssOpen)
    (hhome : s.homeless j = false) (hnext : s.nextEntry j = some (.ok e)) (hlive : (s.job j).terminated = false) (hkind : e.kind ≠ 2)
    (hrule : s.entryRefusal j e = some (r, d)) (hslot : s.slotFree j = true) :
    s.attempt j = .ended (s.refuseEntry j e (plainRefusal r d)) := by
  have hgo : ¬ (s.admits j = false ∨ (!(s.reg K.sessionState == ssOpen || s.reg K.sessionState == ssSilent)) = true ∨ s.homeless j = true) := by
    simp [hadmits, hopen, hhome]
  unfold State.attempt
  dsimp only
  rw [if_neg hgo, hnext]
  dsimp only
  rw [if_neg (by simp [hlive]), if_neg hkind, hrule]
  exact if_pos ⟨beq_iff_eq.2 hopen, hslot⟩

/-- A clause that needs no credits is admitted at once. -/
theorem submissionEntry_ready {s t : State} {j : Nat} {e : SubEntry} {d : Draft} {c : Clause} (hj : j < 64)
    (hready : s.attempt j = .ready t e d c) (hfree : d.energy = 0) :
    submissionEntry j s = (t.wake (.core (j % 2))).admitted j e d c := by
  rw [submissionEntry, if_neg (by omega), hready]
  exact if_pos hfree

/-- The attempt of an entry that ends without admission is the command's effect. -/
theorem submissionEntry_ended {s t : State} {j : Nat} (hj : j < 64) (hended : s.attempt j = .ended t) :
    submissionEntry j s = t.wake (.core (j % 2)) := by
  rw [submissionEntry, if_neg (by omega), hended]

/-- With no clause that waits for another unit nothing is bound anew. -/
theorem State.rehomeAll_of_none {s : State} (h : s.clauses.filter isHomeless = []) : s.rehomeAll = s := by
  rw [State.rehomeAll, h]; rfl

/-- The one waiting clause is admitted once its credits cover it. -/
theorem State.admitPass_covered {s t : State} {w : Waiting} {e : SubEntry} {d : Draft} {c : Clause}
    (hready : s.attempt w.job = .ready t e d c) (hcovers : t.covers d.energy = true) :
    s.admitPass [w] = ((t.waitOver w).bump (K.creditWaitTicks w.job) (t.tick - w.since)).admitted w.job e d c := by
  rw [State.admitPass, hready]
  dsimp only
  rw [if_pos hcovers, State.admitPass]

/-! ### STEP entries (R231) -/

/-- A STEP entry in order opens its step or is refused, by its descriptor. -/
theorem stepEntry_eq {s : State} {j : Nat} {e : SubEntry} {b : List Byte} (hj : j < 64) (hadmits : s.admits j = true)
    (hopen : s.reg K.sessionState = ssOpen) (hnext : s.nextEntry j = some (.ok e)) (hkind : e.kind = 2) (hlive : (s.job j).terminated = false)
    (hroom : (s.steps.filter (·.job == j)).length < 2) (hres : e.reserved = false) :
    let u := s.wake (.core (j % 2))
    u.readVa j e.desc 64 = .ok b →
    stepEntry j s = ((if u.stepOk j b then u.openStep j e.idx b else u.refuseDesc j e.idx b).didRead j e.desc 64).consume j := by
  intro u hread
  unfold stepEntry
  rw [if_neg (by simp [hadmits, hopen]; omega), hnext]
  dsimp only
  rw [if_neg (not_not_intro hkind), if_neg (by simp [hlive]), if_neg (by omega), if_neg (by simp [hres]), hread]

/-! ### CODE_SWITCH (R94) -/

/-- A sound CODE_SWITCH at the front of a job's SCHED clause ends its clause or switches, by the rules of R94. -/
theorem codeSwitch_eq {s : State} {j : Nat} {r : SchedRun} {c : QCmd} {rest : List QCmd} (hcore : s.coreOut (j % 2) = false)
    (hrun : s.sched.find? (fun r => r.clause.job == j) = some r) (hleft : r.left = c :: rest) (hgood : c.bad = none)
    (hop : cb c.word 0 1 = 0x10) (hres : reservedSet c.word [(0, 8), (32, 8), (40, 8), (48, 1)] = false) :
    codeSwitch j s = match s.switchBad j (cb c.word 4 1) (cb c.word 5 1) (bit c.word 48) with
      | some n => s.schedEnds r c 0x13 (1 + 256 * n)
      | none =>
        let cl := { r.clause with wrote := true, next := r.next + 1 }
        let t := s.switchCode j (cb c.word 4 1) (cb c.word 5 1) (bit c.word 48)
        let u : State := { t with clauses := t.clauses.map fun (x : Clause) => if x.seq == cl.seq then cl else x }
        if rest = [] then
          ({ u with sched := u.sched.filter fun x => x.clause.seq != cl.seq } : State).finishClause cl ccComplete (completeRecord cl 0 0x10 0)
        else { u with sched := u.sched.map fun x =>
          if x.clause.seq == cl.seq then { clause := cl, next := r.next + 1, left := rest } else x } := by
  unfold codeSwitch
  rw [if_neg (by simp [hcore]), hrun]
  dsimp only
  rw [hleft]
  dsimp only
  rw [hgood]
  dsimp only
  rw [hop, if_neg (by decide), if_neg (not_not_intro rfl)]
  exact if_neg (by rw [hres]; decide)

/-- Settles O25: each attempt, entry and switch is its function on the branch that its conditions choose. -/
theorem schedulerTakesItsWork : Obligations.SchedulerTakesItsWork := by
  unfold Obligations.SchedulerTakesItsWork
  refine ⟨⟨fun s j r d e hj hadmits hopen hhome hnext hlive hkind hrule hslot => congrArg (finish s) ?_,
      fun s t j e d c hj hready hfree => congrArg (finish s) (submissionEntry_ready hj hready hfree),
      fun s t w e d c hcore hbound hone hready hcovers => congrArg (finish s) ?_,
      fun s j e b hj hadmits hopen hnext hkind hlive hroom hres => ?_⟩,
    fun s j r c rest hcore hrun hleft hgood hop hres => ?_, fun s j r hj hr hcore hretiring hunused => congrArg (finish s) (if_pos ?_)⟩
  · exact submissionEntry_ended hj (State.attempt_refused hadmits hopen hhome hnext hlive hkind hrule hslot)
  · rw [admitWaiting, if_neg (by simp [hcore]), State.rehomeAll_of_none hbound]
    dsimp only
    rw [hone]
    exact State.admitPass_covered hready hcovers
  · dsimp only
    intro hread
    have hstep := stepEntry_eq hj hadmits hopen hnext hkind hlive hroom hres hread
    exact ⟨fun hok => congrArg (finish s) (hstep.trans (by rw [if_pos hok])),
      fun hbad => congrArg (finish s) (hstep.trans (by rw [if_neg (by simp [hbad])]))⟩
  · have hswitch := codeSwitch_eq hcore hrun hleft hgood hop hres
    dsimp only
    refine ⟨fun n hn => congrArg (finish s) (hswitch.trans (by rw [hn])), fun hnone => ?_⟩
    rw [hnone] at hswitch
    exact ⟨fun hlast => congrArg (finish s) (hswitch.trans (if_pos hlast)), fun hmore => congrArg (finish s) (hswitch.trans (if_neg hmore))⟩
  · refine ⟨hj, hr, hcore, hretiring, ?_⟩
    rw [Bool.not_eq_true', List.any_eq_false]
    intro c hc
    have h := hunused c hc
    simpa using h

end Sys2Proof.Machine
end

section
/-! SUPPORT and PROOFS. Requests that go unanswered and takeovers (R313, R328, R344 to R346). -/

namespace Sys2Proof.Machine

/-! ### Unanswered requests (R313, R328, R344) -/

/-- A timed request that goes unanswered at its node makes the node dead, is held, and departs again where it only reads. -/
theorem requestTimeout_eq {s : State} {tag : Nat} {r : Req} (hreq : s.reqOf tag = some r) (htimed : timedOp r.what = true)
    (hsent : r.sent = true) (hnode : s.realNode (r.node % 2 ^ 16) = r.phys) :
    let v := (s.modFab fun F => { F with dead := if F.dead.contains r.phys then F.dead else F.dead ++ [r.phys] }).modReq tag fun x => { x with
      held := true }
    requestTimeout tag s = (if readOp r.what then v.sendReqNow r else v).noWindow := by
  rw [requestTimeout, hreq]
  exact (if_neg (by simp [htimed, hsent])).trans (if_neg (not_not_intro hnode))

/-- A plane's report makes the request that it names depart by another port. -/
theorem unreachable_eq {s u : State} {f g : Frame} {r : Req} (harrive : s.arrive 0x16 f = (some g, u)) (hreq : u.reqOf g.arg = some r)
    (hsent : r.sent = true) :
    let v := (u.modFab fun F => { F with
      reports := if F.reports.contains (f.port, r.phys) then F.reports else F.reports ++ [(f.port, r.phys)] }).modReq r.tag
        fun x => { x with sent := false }
    unreachable f s = (v.sendReqFrame { r with sent := false }).holdCut.noWindow := by
  rw [unreachable, harrive]
  dsimp only
  rw [hreq]
  exact if_neg (by simp [hsent])

/-! ### Takeovers (R345, R346) -/

/-- An ALIAS of a node that no alias has replaced installs and answers. -/
theorem aliasInstall_eq {s v : State} {f : Frame} (hme : s.isMe f.dst = true) (hport : s.portUp f.port = true)
    (hres : frameReserved f = false) (hsource : ∀ a ∈ (s.received f).aliases, a.1 ≠ f.src)
    (hinstall : (s.received f).installAlias (f.arg % 65536) f.src false = some v) :
    aliasInstall f s = ((v.sendPhys 0x15 f.src 0 f.tag 3 f.addr f.arg 0 []).sendHeld (f.arg % 65536)).flowOn := by
  have hnew : ((s.received f).aliases.any fun a => a.1 == f.src) = false :=
    List.any_eq_false.2 fun a ha => by simpa using hsource a ha
  rw [aliasInstall, if_neg (by simp [hme, hport])]
  dsimp only
  rw [if_neg (by simp [hres, hnew]), hinstall]

/-- The members whose answer a takeover still awaits, after one more has answered. -/
theorem takeover_after_ack (u : State) (r : Req) :
    ((u.dropReq r.tag).modFab fun F => { F with takeover := F.takeover.filter (· != r.node) }).fab.takeover =
      u.fab.takeover.filter (· != r.node) := rfl

/-- Settles O24: each timer and frame is its function on the branch that the request's record chooses; the last answer leaves no member
awaited. -/
theorem unansweredRequestsAndTakeovers : Obligations.UnansweredRequestsAndTakeovers := by
  unfold Obligations.UnansweredRequestsAndTakeovers
  refine ⟨⟨fun s tag r hreq htimed hsent hnode => congrArg (finish s) (requestTimeout_eq hreq htimed hsent hnode),
      fun s u f g r harrive hreq hsent => congrArg (finish s) (unreachable_eq harrive hreq hsent), fun s node => rfl,
      fun s p node hreport => congrArg (finish s) (if_pos (List.contains_iff_mem.2 hreport))⟩,
    fun s v f hme hport hres hsource hinstall => congrArg (finish s) (aliasInstall_eq hme hport hres hsource hinstall),
    fun s u f g r hresponse => ?_, fun s hwaits => congrArg (finish s) (if_neg hwaits)⟩
  have hack : aliasAck f s =
      let v := (u.dropReq r.tag).modFab fun F => { F with takeover := F.takeover.filter (· != r.node) }
      if v.fab.takeover = [] then v.setReg K.takeoverStatus 2 else v := by
    rw [aliasAck, hresponse]
  dsimp only at hack ⊢
  rw [takeover_after_ack] at hack ⊢
  constructor
  · intro hlast
    have hnone : u.fab.takeover.filter (· != r.node) = [] := by simpa [List.filter_eq_nil_iff] using hlast
    exact ⟨hnone, congrArg (finish s) (hack.trans (if_pos hnone))⟩
  · rintro ⟨n, hn, hne⟩
    have hsome : u.fab.takeover.filter (· != r.node) ≠ [] :=
      List.ne_nil_of_mem (List.mem_filter.2 ⟨hn, by simpa using hne⟩)
    exact congrArg (finish s) (hack.trans (if_neg hsome))

end Sys2Proof.Machine
end

section
/-! SUPPORT and PROOFS. The control node's memory operations (R304, R353, R354, R356). -/

namespace Sys2Proof.Machine

/-! ### Writes (R353, R354) -/

/-- A write of the control node is checked in the order of R353 and R354. -/
theorem memWrite_eq {s : State} (hup : s.ryUp = true) (h : TxHdr) (data : List Byte) (m : MemAccess) :
    let u := s.vc0In h
    memWrite h data m s =
      if badHdr h h.bytes ∨ data.length ≠ h.bytes then u.ryDropped
      else if h.job = 0xFF then u.vc0Reply 0x03 h 0x21 []
      else if u.sessionOk h.session = false ∨ u.jobServed h.job = false then u.vc0Refuse 0x03 h
      else u.vc0Strike h data none m := if_neg (by simp [hup])

/-- A write in its session, to a job that is served, strikes the job's memory. -/
theorem memWrite_strikes {s : State} (hup : s.ryUp = true) {h : TxHdr} {data : List Byte} (m : MemAccess) (hhdr : badHdr h h.bytes = false)
    (hlen : data.length = h.bytes) (hjob : h.job ≠ 0xFF) (hsession : (s.vc0In h).sessionOk h.session = true)
    (hserved : (s.vc0In h).jobServed h.job = true) : memWrite h data m s = (s.vc0In h).vc0Strike h data none m := by
  rw [memWrite_eq hup, if_neg (by simp [hhdr, hlen]), if_neg hjob, if_neg (by simp [hsession, hserved])]

/-- The writer that the control node's writes act as: the vendor where debug is unlocked (R107). -/
def State.vc0Via (s : State) : Via := if s.trust.unlocked then .vendor else .unit

/-- A new write that is made whole is answered. -/
theorem State.vc0Write_made {s t : State} {h : TxHdr} {data : List Byte}
    (hmade : s.writeFor s.vc0Via h.job (s.vc0Addr h) data s.freshPend = .ok t) (hall : t.fab.reqs.length = s.fab.reqs.length) :
    s.vc0Write h data none = t.vc0Reply 0x03 h 0 [] := by
  have hwrite : s.vc0Write h data none = match s.writeFor s.vc0Via h.job (s.vc0Addr h) data s.freshPend with
      | .ok t => if t.fab.reqs.length = s.fab.reqs.length then t.vc0Reply 0x03 h 0 [] else t.vc0Wait h data 4 none
      | .fail r d => s.vc0Fail 0x03 h r d
      | _ => s.vc0Wait h data 0 none := rfl
  rw [hwrite, hmade]
  exact if_pos hall

/-- A new write that its page holds back waits. -/
theorem State.vc0Write_waits {s : State} {h : TxHdr} {data : List Byte}
    (hwait : s.writeFor s.vc0Via h.job (s.vc0Addr h) data s.freshPend = .wait) : s.vc0Write h data none = s.vc0Wait h data 0 none := by
  have hwrite : s.vc0Write h data none = match s.writeFor s.vc0Via h.job (s.vc0Addr h) data s.freshPend with
      | .ok t => if t.fab.reqs.length = s.fab.reqs.length then t.vc0Reply 0x03 h 0 [] else t.vc0Wait h data 4 none
      | .fail r d => s.vc0Fail 0x03 h r d
      | _ => s.vc0Wait h data 0 none := rfl
  rw [hwrite, hwait]

/-! ### Reads (R353, R354, R356) -/

/-- A read of the control node is checked in the order of R353 and R354. -/
theorem memRead_eq {s : State} (hup : s.ryUp = true) (h : TxHdr) (hhdr : badHdr h h.bytes = false) :
    let u := s.vc0In h
    memRead h s =
      if u.sessionOk h.session = false then u.vc0Refuse 0x01 h
      else if h.job = 0xFF then
        if h.addr + h.bytes > 2 ^ 24 then u.vc0Refuse 0x01 h else u.vc0Pend 0x01 h [] 0
      else if u.jobServed h.job = false then u.vc0Refuse 0x01 h
      else match u.readVa h.job (u.vc0Addr h) h.bytes with
        | .fail r d => u.vc0Fail 0x01 h r d
        | _ => u.vc0Pend 0x01 h [] 0 := by
  rw [memRead, if_neg (by simp [hup])]
  exact if_neg (by simp [hhdr])

/-- A malformed header's read is dropped. -/
theorem memRead_bad {s : State} (hup : s.ryUp = true) {h : TxHdr} (hhdr : badHdr h h.bytes = true) : memRead h s = (s.vc0In h).ryDropped := by
  rw [memRead, if_neg (by simp [hup])]
  exact if_pos hhdr

/-- A read whose first byte's page can be had waits for memory. -/
theorem memRead_pends {s : State} (hup : s.ryUp = true) {h : TxHdr} (hhdr : badHdr h h.bytes = false) (hjob : h.job ≠ 0xFF)
    (hsession : (s.vc0In h).sessionOk h.session = true) (hserved : (s.vc0In h).jobServed h.job = true)
    (hread : ∀ r d, (s.vc0In h).readVa h.job ((s.vc0In h).vc0Addr h) h.bytes ≠ .fail r d) :
    memRead h s = (s.vc0In h).vc0Pend 0x01 h [] 0 := by
  rw [memRead_eq hup h hhdr, if_neg (by simp [hsession]), if_neg hjob, if_neg (by simp [hserved])]
  split
  · next r d hfail => exact absurd hfail (hread r d)
  · rfl

/-! ### Arrivals (R304, R356) -/

/-- Memory answers the request that waits for it. -/
theorem memoryReadArrival_vc0 {s : State} {p : PendRead} (hpow : s.powered = true)
    (hpend : s.fab.pendReads.find? (·.id == p.id) = some p) (hvc0 : p.vc0 = true) (m : MemAccess) :
    memoryReadArrival p.id m s = s.serveVc0 p m := by
  rw [memoryReadArrival, if_pos hpow, hpend]
  exact if_pos hvc0

/-- A read of the session window is answered from it. -/
theorem State.serveVc0_window {s : State} {p : PendRead} (hop : p.op = 0x01) (hjob : p.hdr.job = 0xFF) {m : MemAccess}
    (hmet : m.retries ≤ 3) :
    s.serveVc0 p m = (s.unpend p.id).vc0Reply 0x01 p.hdr 0 (readRun s.mem.window p.hdr.addr p.hdr.bytes) := by
  rw [State.serveVc0]
  dsimp only
  rw [hop, if_neg (by decide), if_pos hjob, if_neg (by omega)]

/-- A read of a job's memory whose stack takes accesses: after what the access meets it fails at the fourth failure, or is answered. -/
theorem State.serveVc0_job {s : State} {p : PendRead} (hop : p.op = 0x01) (hjob : p.hdr.job < 64)
    (hheld : s.heldAt p.hdr.job (s.vc0Addr p.hdr) = false) (m : MemAccess) :
    let t := s.met p.hdr.job (s.vc0Addr p.hdr) p.hdr.bytes false m
    (m.retries > 3 → s.serveVc0 p m = (t.unpend p.id).vc0Fail 0x01 p.hdr 0x30 (s.vc0Addr p.hdr)) ∧
    (m.retries ≤ 3 → ∀ b, t.readVa p.hdr.job (s.vc0Addr p.hdr) p.hdr.bytes = .ok b →
      s.serveVc0 p m = ((t.unpend p.id).didRead p.hdr.job (s.vc0Addr p.hdr) p.hdr.bytes).vc0Reply 0x01 p.hdr 0 b) := by
  intro t
  unfold State.serveVc0
  dsimp only
  rw [hop, if_neg (by decide), if_neg (by omega), if_neg (by simp [hheld])]
  exact ⟨fun hfour => if_pos hfour, fun hfew b hb => by rw [if_neg (by omega), hb]⟩

/-- Settles O32: each operation passes the checks of R353 and R354 in order; a write strikes memory at once, a read waits for it. -/
theorem controlNodeReachesMemory : Obligations.ControlNodeReachesMemory := by
  unfold Obligations.ControlNodeReachesMemory
  refine ⟨fun s h data a hup => ?_, fun s p m hpow hpend hvc0 hop => ?_⟩
  · dsimp only
    refine ⟨fun hhdr hlen hjob hsession hserved => ?_, fun hhdr hjob hrefused => ?_, fun hhdr hjob hsession hserved hread => ?_,
      fun hhdr hwindow hsession hfits => ?_, fun hhdr => ?_⟩
    · have hwrite := memWrite_strikes hup a hhdr hlen hjob hsession hserved
      refine ⟨fun hfree hfew t hmade hall => congrArg (finish s) (hwrite.trans ?_),
        fun hfree hfour => congrArg (finish s) (hwrite.trans ?_), fun hbusy hwait => congrArg (finish s) (hwrite.trans ?_)⟩
      · rw [State.vc0Strike, if_neg (by simp [hfree])]
        dsimp only
        rw [if_neg (by omega)]
        exact State.vc0Write_made hmade hall
      · rw [State.vc0Strike, if_neg (by simp [hfree])]
        exact if_pos hfour
      · rw [State.vc0Strike, if_pos hbusy]
        exact State.vc0Write_waits hwait
    · refine ⟨fun hlen => congrArg (finish s) ?_, congrArg (finish s) ?_⟩
      · rw [memWrite_eq hup, if_neg (by simp [hhdr, hlen]), if_neg hjob, if_pos hrefused]
      · rw [memRead_eq hup h hhdr, if_neg hjob]
        split
        · rfl
        · next hsession => exact if_pos (hrefused.resolve_left hsession)
    · exact congrArg (finish s) (memRead_pends hup hhdr hjob hsession hserved hread)
    · refine congrArg (finish s) ?_
      rw [memRead_eq hup h hhdr, if_neg (by simp [hsession]), if_pos hwindow, if_neg (by omega)]
    · refine ⟨congrArg (finish s) ?_, congrArg (finish s) (memRead_bad hup hhdr)⟩
      rw [memWrite_eq hup, if_pos (.inl hhdr)]
  · have harrive := memoryReadArrival_vc0 hpow hpend hvc0 m
    dsimp only
    refine ⟨fun hwindow hfew => congrArg (finish s) (harrive.trans (State.serveVc0_window hop hwindow hfew)), fun hjob hheld => ?_⟩
    obtain ⟨hfails, hanswers⟩ := State.serveVc0_job hop hjob hheld m
    exact ⟨fun hfew b hb => congrArg (finish s) (harrive.trans (hanswers hfew b hb)),
      fun hfour => congrArg (finish s) (harrive.trans (hfails hfour))⟩

end Sys2Proof.Machine
end

section
/-! SUPPORT and PROOFS. Row and page migration (R170, R173 to R177, R294 to R297, R309). -/

namespace Sys2Proof.Machine

/-! ## Windows of row migration -/

/-- The one shard of a table that has one is what a work over its shards reaches. -/
theorem State.forShards_one {s : State} {j : Nat} {t : Table} {e : ShardE} (f : ShardE → State → State)
    (hmig : s.migrates j t = true) (hn : t.shards = 1) (he : s.shardAt j t 0 = .ok e) (hown : s.owns t e = true) :
    s.forShards j t f = f e s := by
  unfold State.forShards
  rw [if_pos hmig, hn, List.range_one, List.foldl_cons, List.foldl_nil, he]
  exact if_pos hown

/-- With one job, one table and one shard, the candidates of that shard are all that a window reads. -/
theorem State.readQueues_one {s : State} {j : Nat} {t : Table} {e : ShardE} (hres : s.residents = [j])
    (hcount : s.reg (K.tableCount j) = 1) (ht : s.tableOf j 0 = .ok t) (hmig : s.migrates j t = true) (hn : t.shards = 1)
    (he : s.shardAt j t 0 = .ok e) (hown : s.owns t e = true) :
    s.readQueues = State.readCandidates j t e (2 ^ (8 + e.size)) s := by
  unfold State.readQueues
  rw [hres, List.foldl_cons, List.foldl_nil, hcount, List.range_one, List.foldl_cons, List.foldl_nil, ht]
  exact State.forShards_one _ hmig hn he hown

/-! ## Sweeps of rows -/

/-- A move that is made found room in its window, on a slice that is awake. -/
theorem State.moveRow_made {s u : State} {j row v lv : Nat} {t : Table} {e : ShardE} (h : s.moveRow j t e row v lv = .made u) :
    ∃ P sl, s.psetOf j t.pset t.dim false = .ok P ∧ s.rowSlice j (P.recAddr row) = some sl ∧ s.rowRoom sl ≠ 0 ∧
      s.sliceAwake sl = true := by
  unfold State.moveRow at h
  split at h
  · exact absurd h (by simp)
  · exact absurd h (by simp)
  · exact absurd h (by simp)
  next P hP =>
    dsimp only at h
    split at h
    · exact absurd h (by simp)
    next sl hsl =>
      split at h
      · exact absurd h (by simp)
      next hroom => exact ⟨P, sl, hP, hsl, fun h0 => hroom (.inl h0), by simpa using fun h0 => hroom (.inr (.inl h0))⟩

/-- A row whose age lets it sink, and whose move is made, is over for the sweep. -/
theorem State.sweepRow_moved {s u : State} {j row lv : Nat} {t : Table} {e : ShardE} {m : List Byte}
    (hm : s.readVa j (mapAddr e row) 8 = .ok m) (hok : mapOk t e (leNat m) = true) (hmig : mapMigrating (leNat m) = false)
    (hlv : t.below (mapLevel (leNat m)) = some lv) (hage : t.age ≤ mapAge (leNat m))
    (hmove : (s.didRead j (mapAddr e row) 8).moveRow j t e row (leNat m) lv = .made u) : s.sweepRow j t e row = .over u := by
  obtain ⟨P, sl, hP, hsl, hroom, hawake⟩ := State.moveRow_made hmove
  have hbudget : (s.didRead j (mapAddr e row) 8).reg K.rowMigrateBudget ≠ 0 := fun h0 => hroom (by simp [State.rowRoom, h0])
  unfold State.sweepRow
  rw [hm]
  dsimp only
  rw [if_neg (by simp [hok, hmig]), hlv]
  dsimp only
  rw [if_pos hage, hP]
  dsimp only
  rw [if_neg (by simp [hsl, hawake, hbudget]), hmove]

/-- A table whose one shard has one row is swept by the sweep of that row. -/
theorem State.sweepFrom_one {s u : State} {j n : Nat} {t : Table} {e : ShardE} (ht : s.tableOf j n = .ok t) (hage : t.age ≠ 0)
    (hmig : s.migrates j t = true) (hn : t.shards = 1) (he : s.shardAt j t 0 = .ok e) (hown : s.owns t e = true)
    (hrows : e.rows = 1) (hrow : s.sweepRow j t e e.first = .over u) : s.sweepFrom j n 0 = (none, u) := by
  have hlist : ((List.range e.rows).filterMap fun r => if 0 ≤ e.first + r then some (e.first + r) else none) = [e.first] := by
    rw [hrows]
    simp
  unfold State.sweepFrom
  rw [ht]
  dsimp only
  rw [if_neg (by simp [hage, hmig]), hn, List.range_one, List.foldl_cons, List.foldl_nil]
  dsimp only
  rw [he]
  dsimp only
  rw [if_pos hown, hlist, State.sweepRows, hrow]
  rfl

/-- A sweep that is not listed, and goes through, leaves what it did. -/
theorem State.sweepOn_through {s u : State} {x : Sweep} (hlisted : x ∉ s.mem.sweeps) (hagain : x.again = false)
    (hfrom : s.sweepFrom x.job x.table x.row = (none, u)) : s.sweepOn x = u := by
  have hkept : (s.modMem fun m => { m with sweeps := m.sweeps.filter (· != x) }) = s := by
    have hall : s.mem.sweeps.filter (· != x) = s.mem.sweeps :=
      List.filter_eq_self.mpr fun y hy => by simpa using fun h : y = x => hlisted (h ▸ hy)
    unfold State.modMem
    dsimp only
    rw [hall]
  unfold State.sweepOn
  dsimp only
  rw [hkept, hfrom]
  exact if_neg (by simp [hagain])

/-! ## Moves of pages -/

/-- A request's page that may move, with its energy and its quota, moves into tier 0. -/
theorem State.serveFetch_moves {s t : State} {n : Nat} {r : PageReq} {l : Leaf} (hn : n ≠ 0) (hl : s.leafOf r.job r.va = some l)
    (hfailed : r.failed = none) (halloc : l.allocated = true) (htier : l.tier ≠ 0) (hmove : s.movable l = true)
    (hdraw : s.drawsMove r.job 1 = true) (hfits : s.quotaFits 0 r.job 65536 = true) (hstart : s.startMove l 0 false = some t) :
    State.serveFetch (n, s) r = (n - 1, t.chargeJob l.job (Config.migrationNj 1)) := by
  have htry : s.tryMove l 0 = (true, t.chargeJob l.job (Config.migrationNj 1)) := by
    rw [State.tryMove, hstart]
  unfold State.serveFetch
  dsimp only
  rw [hl]
  dsimp only
  rw [if_neg (by simp [hn, hfailed, halloc, htier, hmove, hdraw]), if_pos hfits, htry]
  rfl

/-- The end of a copy within this module switches the page's entry to the new place, and everything that waited goes on. -/
theorem pageMoveCopyDone_here {s u : State} {i dst : Nat} {m : PageMove} {l : Leaf} (hm : s.mem.moves[i]? = some m)
    (hstage : m.stage = .copying) (hsrc : m.srcTier ≠ 2) (hdst : m.dstTier ≠ 2) (hl : s.leafOf m.job m.va = some l)
    (hput : s.putCopy m (s.pageHere l) (s.poisonHere l (if m.dstTier = 0 then 64 else 128)) = some (dst, u)) :
    pageMoveCopyDone i s =
      (let v := ((u.evictPage m).dropTlb m.job m.va).modLeaf m.job m.va fun l => { l with
        tier := m.dstTier, frame := dst, node := 0, migrating := false, idle := 0 }
       let w := if m.dstTier < m.srcTier then v.bump (K.pagesPromoted m.job) 1
         else if m.srcTier < m.dstTier then v.bump (K.pagesDemoted m.job) 1 else v
       (w.modMem fun x => { x with moves := x.moves.map fun y =>
         if y == m then { y with stage := .releasing, dst := dst } else y }).goOn) := by
  have hbytes : s.moveBytes m l = .ok (s.pageHere l, s.poisonHere l (if m.dstTier = 0 then 64 else 128)) := if_neg hsrc
  unfold pageMoveCopyDone
  rw [hm]
  dsimp only
  rw [if_neg (by simp [hstage, hdst]), hl]
  dsimp only
  rw [if_neg (by simp [hdst]), hbytes]
  dsimp only
  rw [hput]
  dsimp only
  rw [if_neg hsrc]
  simp only [if_neg hdst]

/-- Settles O27: each window, sweep and end of a move does its work. -/
theorem rowsAndPagesMigrate : Obligations.RowsAndPagesMigrate := by
  unfold Obligations.RowsAndPagesMigrate
  refine ⟨fun s j t e hpow hbudget => ?_,
    fun s u j n t e m lv hpow hres hsweeps ht hage hmig hn he hown hrows hm hok hfree hlv hold hmove => congrArg (finish s) ?_,
    fun s i m t e hm hdone hfetches => ?_, fun s t r l hpow hpages hreqs => ?_,
    fun s u i dst m l hm hstage hsrc hdst hl hput => congrArg (finish s) (pageMoveCopyDone_here hm hstage hsrc hdst hl hput),
    fun s i m hm hstage htiers => congrArg (finish s) ?_, fun s i r l hr hl halloc htier hmig htable => congrArg (finish s) ?_,
    fun s hpow => ?_⟩
  · dsimp only
    intro hres hcount ht hmig hn he hown
    refine congrArg (finish s) ?_
    rw [migrationWindow, if_neg (by simp [hpow, hbudget]), State.readQueues_one hres hcount ht hmig hn he hown]
  · have hlisted : ¬ (s.mem.sweeps.any fun x => x.job == j && x.table == n) = true := by
      simpa using hsweeps
    rw [demotionSweep, if_neg (by simp [hpow, hres]), if_neg hlisted]
    exact State.sweepOn_through (fun h => hsweeps _ h ⟨rfl, rfl⟩) rfl
      (State.sweepFrom_one ht hage hmig hn he hown hrows (State.sweepRow_moved hm hok hfree hlv hold hmove))
  · dsimp only
    intro ht he
    refine congrArg (finish s) ?_
    have hout : ¬ (m.done = false ∨ (m.fetches.any (s.fetchOut m.row)) = true) := by
      simpa [hdone] using hfetches
    rw [rowMoveSlotFree, hm]
    dsimp only
    rw [if_neg hout, ht]
    dsimp only
    rw [he]
  · dsimp only
    intro hl hfailed halloc htier hmove hdraw hfits hstart
    refine congrArg (finish s) ?_
    have hn : (s.modMem fun m => { m with retired := 0 }).reg K.pageMigratePages = 0 := hpages
    have hone : (s.modMem fun m => { m with retired := 0 }).mem.pageReqs = [r] := hreqs
    rw [pageMigrationWindow, if_neg (by simp [hpow])]
    dsimp only
    rw [hn, if_pos rfl, if_pos rfl, hone, List.foldl_cons, List.foldl_nil,
      State.serveFetch_moves (by simp) hl hfailed halloc htier hmove hdraw hfits hstart]
  · rw [pageFrameRelease, hm]
    dsimp only
    rw [if_neg (by simp [hstage]), if_neg htiers]
  · rw [pendingPageArrival, hr]
    dsimp only
    rw [hl]
    dsimp only
    rw [if_neg (by simp [halloc, htier, hmig]), if_pos htable]
  · exact congrArg (finish s) (if_pos hpow)

end Sys2Proof.Machine
end

section
/-! SUPPORT and PROOFS. Responses to this module's requests (R121, R323 to R326, R336). -/

namespace Sys2Proof.Machine

section Responses

variable {s u : State} {f g : Frame} {r : Req}

/-! ### A refusal (R325) -/

theorem readResp_refused (h : s.response 0x02 f = (some (r, g), u)) (hbad : bit g.flags 2 = true) :
    readResp f s = u.failReq r (refusalOf r g).1 (refusalOf r g).2 := by
  rw [readResp, h]
  exact if_pos hbad

theorem writeAck_refused (h : s.response 0x04 f = (some (r, g), u)) (hbad : bit g.flags 2 = true) :
    writeAck f s = u.failReq r (refusalOf r g).1 (refusalOf r g).2 := by
  rw [writeAck, h]
  exact if_pos hbad

theorem atomicResp_refused (h : s.response 0x07 f = (some (r, g), u)) (hbad : bit g.flags 2 = true) :
    atomicResp f s = u.failReq r (refusalOf r g).1 (refusalOf r g).2 := by
  rw [atomicResp, h]
  exact if_pos hbad

theorem rowResp_refused (h : s.response 0x0A f = (some (r, g), u)) (hbad : bit g.flags 2 = true) :
    rowResp f s = u.failReq r (refusalOf r g).1 (refusalOf r g).2 := by
  rw [rowResp, h]
  exact if_pos hbad

theorem gatherResp_refused (h : s.response 0x13 f = (some (r, g), u)) (hbad : bit g.flags 2 = true) :
    gatherResp f s = u.failReq r (refusalOf r g).1 (refusalOf r g).2 := by
  rw [gatherResp, h]
  exact if_pos hbad

/-! ### Responses that carry what was asked for -/

section Taken

variable (hgood : bit g.flags 2 = false)
include hgood

/-- The bytes of a READ reach the chunk of the move queue that waits for them. -/
theorem readResp_move (h : s.response 0x02 f = (some (r, g), u)) (hcls : r.owner.cls = .move) {c : QCmd} {cl : Clause} {x : InFlight}
    (hmoving : u.moving r.owner = some (c, cl, x)) (hwaits : ∃ y ∈ x.waits, y.id = r.xid) :
    readResp f s = moveSectorArrival r.owner.unit r.xid MemAccess.clean
      ((u.dropReq r.tag).putFarData r.node (r.addr % 2 ^ 48) (padTo r.arg g.payload)) := by
  rw [readResp, h]
  dsimp only
  rw [if_neg (by simp [hgood]), hcls]
  dsimp only
  rw [hmoving]
  exact if_pos (by simpa using hwaits)

/-- An acknowledgement goes to the unit that wrote. -/
theorem writeAck_taken (h : s.response 0x04 f = (some (r, g), u)) :
    (r.owner.cls = .move → ∀ c cl x, (u.dropReq r.tag).moving r.owner = some (c, cl, x) →
      (cb c.word 0 1 ≠ 0x45 → writeAck f s = memoryWriteAck r.owner r.xid MemAccess.clean (u.dropReq r.tag)) ∧
      (cb c.word 0 1 = 0x45 → r.xid ≠ noXfer → writeAck f s = ((u.dropReq r.tag).addFlags cl.seq (bit g.arg 0)).moveGoOn r.owner.unit)) ∧
    (r.owner.cls = .embed → writeAck f s = (u.dropReq r.tag).ackPartial r (bit g.arg 0)) ∧
    (r.owner.cls = .update → writeAck f s = ((u.dropReq r.tag).sliceGoOn r.owner.unit).gathersGoOn) := by
  unfold writeAck
  rw [h]
  dsimp only
  rw [if_neg (by simp [hgood])]
  refine ⟨fun hcls c cl x hmoving => ?_, fun hcls => ?_, fun hcls => ?_⟩
  · rw [hcls]
    dsimp only
    rw [hmoving]
    refine ⟨fun hop => if_neg hop, fun hop hxid => (if_pos hop).trans ?_⟩
    rw [if_neg hxid]
  · rw [hcls]
  · rw [hcls]

/-- An atomic's old value lands at the command's operand. -/
theorem atomicResp_lands (h : s.response 0x07 f = (some (r, g), u)) {c : QCmd} {cl : Clause} {x : InFlight}
    (hrun : u.fabRun r.owner.unit = some (c, cl, x)) (hop : isOp 0x74 c.word = true) {t : State} :
    let ty := r.arg % 16
    let old := nb g.payload 0 (atomicBytes ty)
    let new := atomicNew ty (bits r.arg 4 4) old (nb r.data 0 8 % 2 ^ fmtBits ty) (nb r.data 8 8 % 2 ^ fmtBits ty)
    ((u.addFlags cl.seq new.2).began cl.seq).landReq r.owner cl r (leBytes (atomicBytes ty) old) = (none, t) →
      atomicResp f s = t.fabGoOn r.owner.unit := by
  dsimp only
  intro hland
  have hop : cb c.word 0 1 = 0x74 := by simpa [isOp] using hop
  rw [atomicResp, h]
  dsimp only
  rw [if_neg (by simp [hgood]), hrun]
  dsimp only
  rw [if_neg (not_not_intro hop), hland]

/-- A row reaches the fetch of its EE that asked for it. -/
theorem rowResp_pools (h : s.response 0x0A f = (some (r, g), u)) {c : QCmd} {cl : Clause} {y : InFlight} {x : Fetch}
    (hrun : (u.dropReq r.tag).embedding r.owner.unit = some (c, cl, y))
    (hfetch : ((u.dropReq r.tag).ee r.owner.unit).fetches.find? (·.id == r.xid) = some x) :
    rowResp f s = (u.dropReq r.tag).poolArrival r.owner.unit c cl { x with addr := g.addr } (nb g.payload 0 1) (nb g.payload 1 1)
      (padTo (rowStride (x.table.fmt (nb g.payload 0 1)) x.table.dim) (g.payload.drop 16)) := by
  rw [rowResp, h]
  dsimp only
  rw [if_neg (by simp [hgood]), hrun]
  dsimp only
  rw [hfetch]

/-- A shard is kept with its request, and its queue goes on. -/
theorem gatherResp_taken (h : s.response 0x13 f = (some (r, g), u)) :
    gatherResp f s = (u.modReq r.tag fun x => { x with what := 0x13, data := g.payload }).fabGoOn r.owner.unit := by
  rw [gatherResp, h]
  exact if_neg (by simp [hgood])

end Taken

end Responses

/-- Settles O23: a refusal fails its request, any other response reaches its unit. -/
theorem responsesReachTheirUnits : Obligations.ResponsesReachTheirUnits := by
  unfold Obligations.ResponsesReachTheirUnits
  refine fun s u f g r => ⟨fun op c hc h hbad => ?_, fun hgood => ⟨fun h hcls c cl x hmoving hwaits =>
      congrArg (finish s) (readResp_move hgood h hcls hmoving hwaits), fun h => ?_, fun h c cl x hrun hop => ?_,
    fun h c cl y x hrun hfetch => congrArg (finish s) (rowResp_pools hgood h hrun hfetch),
    fun h => congrArg (finish s) (gatherResp_taken hgood h)⟩⟩
  · simp only [List.mem_cons, Prod.mk.injEq, List.not_mem_nil, or_false] at hc
    obtain ⟨rfl, rfl⟩ | ⟨rfl, rfl⟩ | ⟨rfl, rfl⟩ | ⟨rfl, rfl⟩ | ⟨rfl, rfl⟩ := hc
    · exact congrArg (finish s) (readResp_refused h hbad)
    · exact congrArg (finish s) (writeAck_refused h hbad)
    · exact congrArg (finish s) (atomicResp_refused h hbad)
    · exact congrArg (finish s) (rowResp_refused h hbad)
    · exact congrArg (finish s) (gatherResp_refused h hbad)
  · obtain ⟨hmove, hembed, hupdate⟩ := writeAck_taken hgood h
    refine ⟨fun hcls c cl x hmoving => ?_, fun hcls => congrArg (finish s) (hembed hcls), fun hcls => congrArg (finish s) (hupdate hcls)⟩
    obtain ⟨hwrite, hadd⟩ := hmove hcls c cl x hmoving
    exact ⟨fun hop => congrArg (finish s) (hwrite hop), fun hop hxid => congrArg (finish s) (hadd hop hxid)⟩
  · dsimp only
    exact fun t hland => congrArg (finish s) (atomicResp_lands hgood h hrun hop hland)

end Sys2Proof.Machine
end

section
/-! SUPPORT and PROOFS. Requests of other modules for a resident job (R121, R124, R297, R304, R317, R323 to R327, R338). -/

namespace Sys2Proof.Machine

/-! ## A request that writes in place -/

section Struck

variable {s : State} {j op n : Nat} {g : Frame} {m : MemAccess} {k : State → State}

/-- At a page that moves, or a stack that takes no access, it goes on to wait (R297). -/
theorem State.struck_waits (hw : (s.translate .fabric j g.addr n).writeWaits j g.addr = true) :
    s.struck j op g n m k = k (s.translate .fabric j g.addr n) := if_pos hw

/-- Else its access is met; one that does not fail four times lets it go on. -/
theorem State.struck_through (hw : (s.translate .fabric j g.addr n).writeWaits j g.addr = false) (hm : m.retries ≤ 3) :
    s.struck j op g n m k = k ((s.translate .fabric j g.addr n).met j g.addr n true m) :=
  (if_neg (by simp [hw])).trans (if_neg (Nat.not_lt.mpr hm))

/-- A fourth failure refuses it UNCORRECTABLE (R304). -/
theorem State.struck_refused (hw : (s.translate .fabric j g.addr n).writeWaits j g.addr = false) (hm : m.retries > 3) :
    s.struck j op g n m k = ((s.translate .fabric j g.addr n).met j g.addr n true m).refuse op g 0x30 g.addr :=
  (if_neg (by simp [hw])).trans (if_pos hm)

end Struck

/-! ## The frames that write, up to their access -/

section Frames

variable {s u : State} {f g : Frame} {j : Nat}

theorem writeFrame_struck (m : MemAccess) (h : s.inboundAny 0x03 f = (some (some j, g), u)) (hme : u.isMe (g.addr / 2 ^ 48) = true) :
    writeFrame f m s = u.struck j 0x03 g g.arg m fun s => s.serveWrite j g none := by
  rw [writeFrame, h]
  exact if_neg (by rw [hme]; decide)

theorem addFrame_struck (m : MemAccess) (h : s.inboundAny 0x05 f = (some (some j, g), u)) (hme : u.isMe (g.addr / 2 ^ 48) = true)
    (hty : isMsa (g.arg % 16) = true) : addFrame f m s = u.struck j 0x05 g 64 m fun s => s.serveAdd j g none := by
  rw [addFrame, h]
  exact (if_neg (by rw [hme]; decide)).trans (if_neg (by simp [hty]))

/-- The types and operations that an atomic may have (R326). -/
def AtomicOk (g : Frame) : Prop :=
  (g.arg % 16 = 8 ∨ g.arg % 16 = 9 ∨ (g.arg % 16 = 0 ∧ bits g.arg 4 4 ≠ 1 ∧ bits g.arg 4 4 ≠ 2)) ∧ bits g.arg 4 4 ≤ 4 ∧
    g.addr % alignOf (g.arg % 16) = 0

theorem atomicFrame_struck (m : MemAccess) (h : s.inboundAny 0x06 f = (some (some j, g), u)) (hme : u.isMe (g.addr / 2 ^ 48) = true)
    (hok : AtomicOk g) :
    atomicFrame f m s = u.struck j 0x06 g (atomicBytes (g.arg % 16)) m fun s => s.serveAtomic j g none := by
  obtain ⟨hty, hop, halign⟩ := hok
  have htype : ¬ (((g.arg % 16 != 0 && g.arg % 16 != 8 && g.arg % 16 != 9) || bits g.arg 4 4 > 4 ||
      (g.arg % 16 == 0 && (bits g.arg 4 4 == 1 || bits g.arg 4 4 == 2))) = true) := by
    simp only [Bool.or_eq_true, Bool.and_eq_true, bne_iff_ne, beq_iff_eq, decide_eq_true_eq]
    omega
  rw [atomicFrame, h]
  dsimp only
  rw [if_neg (by rw [hme]; decide), if_neg htype, if_neg (not_not_intro halign)]

/-- An access of a request that writes, and that fails a fourth time, refuses it (R304). -/
theorem writingFrames_refused {a : MemAccess} {op n : Nat} {c : Instr}
    (hc : (op, c, n) ∈ [(0x03, Instr.write ⟨f, a⟩, g.arg), (0x05, .add ⟨f, a⟩, 64), (0x06, .atomic ⟨f, a⟩, atomicBytes (g.arg % 16))])
    (h : s.inboundAny op f = (some (some j, g), u)) (hme : u.isMe (g.addr / 2 ^ 48) = true) (hadd : op = 0x05 → isMsa (g.arg % 16) = true)
    (hatomic : op = 0x06 → AtomicOk g) (hw : (u.translate .fabric j g.addr n).writeWaits j g.addr = false) (ha : a.retries > 3) :
    exec c s = .next (settle s (((u.translate .fabric j g.addr n).met j g.addr n true a).refuse op g 0x30 g.addr)) := by
  simp only [List.mem_cons, Prod.mk.injEq, List.not_mem_nil, or_false] at hc
  obtain ⟨rfl, rfl, rfl⟩ | ⟨rfl, rfl, rfl⟩ | ⟨rfl, rfl, rfl⟩ := hc
  · exact congrArg (finish s) ((writeFrame_struck a h hme).trans (State.struck_refused hw ha))
  · exact congrArg (finish s) ((addFrame_struck a h hme (hadd rfl)).trans (State.struck_refused hw ha))
  · exact congrArg (finish s) ((atomicFrame_struck a h hme (hatomic rfl)).trans (State.struck_refused hw ha))

/-! ## How each is served -/

theorem readFrame_pends (h : s.inboundAny 0x01 f = (some (some j, g), u)) (hme : u.isMe (g.addr / 2 ^ 48) = true)
    (hread : ∀ r d, u.readVa j g.addr g.arg ≠ .fail r d) : readFrame f s = u.pend 0x01 g [] := by
  rw [readFrame, h]
  dsimp only
  rw [if_neg (by rw [hme]; decide)]
  split
  · next r d hfail => exact absurd hfail (hread r d)
  · rfl

theorem State.serveWrite_made {t : State} (hmade : s.writeFor .unit j g.addr (g.payload.take g.arg) s.freshPend = .ok t)
    (hall : t.fab.reqs.length = s.fab.reqs.length) : s.serveWrite j g none = t.reply g 0x04 g.arg 0 [] := by
  unfold State.serveWrite
  dsimp only
  rw [show none.getD s.freshPend = s.freshPend from rfl, hmade]
  exact if_pos hall

theorem State.serveWrite_waits (hwait : s.writeFor .unit j g.addr (g.payload.take g.arg) s.freshPend = .wait) :
    s.serveWrite j g none = s.pendWait j g.addr 0x03 g 0 none := by
  unfold State.serveWrite
  dsimp only
  rw [show none.getD s.freshPend = s.freshPend from rfl, hwait]
  rfl

theorem State.serveAdd_made {t : State} {nf : Bool}
    (hmade : s.addSectors j (g.arg % 16) (g.addr / 64 * 64) 33 0 g.payload false = .ok t nf) :
    s.serveAdd j g none = t.reply g 0x04 (if nf then 1 else 0) 0 [] := by
  unfold State.serveAdd
  dsimp only
  rw [show bit (s.pendNote none) 1 = false from by simp [State.pendNote, bit], hmade]

theorem State.serveAtomic_made {t : State} {old : Nat} {nf : Bool}
    (hmade : s.atomicVa j g.addr (g.arg % 16) (bits g.arg 4 4) (nb g.payload 0 8) (nb g.payload 8 8) = .ok (t, old, nf)) :
    s.serveAtomic j g none = t.reply g 0x07 g.arg 0 (padTo 16 (leBytes (atomicBytes (g.arg % 16)) old)) := by
  unfold State.serveAtomic
  dsimp only
  rw [hmade]

theorem signalFrame_counts (h : s.inboundAny 0x08 f = (some (some j, g), u)) (harg : g.arg ≤ 15) :
    signalFrame f s = (u.signal j g.arg (nb g.payload 0 8)).reply g 0x04 g.arg 0 [] := by
  rw [signalFrame, h]
  exact if_neg (Nat.not_lt.mpr harg)

theorem candidateFrame_joins (h : s.inboundAny 0x0C f = (some (some j, g), u)) {t : Table} {e : ShardE} {b : Bool} {v : State}
    (ht : u.tableOf j (g.arg % 256) = .ok t) (he : u.shardOf j t (nb g.payload 0 8) = .ok (some e)) (hown : u.owns t e = true)
    (happend : u.candAppend j e (g.payload.take 16) = .ok (b, v)) : candidateFrame f s = v := by
  rw [candidateFrame, h]
  dsimp only
  unfold State.serveCandidate
  dsimp only
  rw [ht, accBind_ok, he, accBind_ok]
  dsimp only
  rw [if_pos hown, happend]

theorem gatherReq_taken {t : State} (h : s.inboundAny 0x12 f = (some (some j, g), u)) (hknow : u.knowShard (u.askOf j g) = .ok t) :
    gatherReq f s = t.pend 0x12 g [] := by
  rw [gatherReq, h]
  dsimp only
  rw [hknow]

theorem rowReq_taken (h : s.inboundAny 0x09 f = (some (some j, g), u)) : rowReq f s = u.takeRow j g := by
  rw [rowReq, h]

end Frames

/-- Settles O22: a request that writes goes through its access, any other is taken or counted. -/
theorem peerRequestsAreServed : Obligations.PeerRequestsAreServed := by
  unfold Obligations.PeerRequestsAreServed
  refine ⟨fun s u f g a j op n c hc h hme hadd hatomic hw ha => writingFrames_refused hc h hme hadd hatomic hw ha,
    fun s u f g a j ha => ?_⟩
  dsimp only
  refine ⟨fun h hme hread => congrArg (finish s) (readFrame_pends h hme hread), fun h hme hw t hmade hall => congrArg (finish s) ?_,
    fun h hme hw hwait => congrArg (finish s) ?_, fun h hme hty hw t nf hmade => congrArg (finish s) ?_,
    fun h hme hty hop halign hw t old nf hmade => congrArg (finish s) ?_, fun h harg => congrArg (finish s) (signalFrame_counts h harg),
    fun h => congrArg (finish s) (rowReq_taken h),
    fun h t e b v ht he hown happend => congrArg (finish s) (candidateFrame_joins h ht he hown happend),
    fun h t hknow => congrArg (finish s) (gatherReq_taken h hknow)⟩
  · exact ((writeFrame_struck a h hme).trans (State.struck_through hw ha)).trans (State.serveWrite_made hmade hall)
  · exact ((writeFrame_struck a h hme).trans (State.struck_waits hw)).trans (State.serveWrite_waits hwait)
  · exact ((addFrame_struck a h hme hty).trans (State.struck_through hw ha)).trans (State.serveAdd_made hmade)
  · exact ((atomicFrame_struck a h hme ⟨hty, hop, halign⟩).trans (State.struck_through hw ha)).trans (State.serveAtomic_made hmade)

end Sys2Proof.Machine
end

section
/-! SUPPORT and PROOFS. Agreement's frames, timers and releases (R234, R248, R251, R330, R339, R340). -/

namespace Sys2Proof.Machine

/-! ## Frames of a group -/

section Frames

variable {s u : State} {f g : Frame} {j : Nat} {l : List Nat}

/-- A frame of a group whose list is here is taken with it. -/
theorem State.groupIn_listed (op : Nat) (hl : s.groupOf j g.arg = .ok l) : s.groupIn j op g none = s.groupFrame j op g (some l) := by
  unfold State.groupIn
  rw [hl]

/-- A member's contribution joins its root's (R248). -/
theorem agreeContrib_joins (h : s.inbound 0x0E f = (some (j, g), u)) (hl : u.groupOf j g.arg = .ok l)
    (hroot : u.isMe (rootOf l) = true) (hmember : g.acting ∈ l) : agreeContrib f s = u.takeContrib {
      job := j, group := g.arg, step := nb g.payload 0 8, node := g.acting, flags := nb g.payload 8 1, scale := nb g.payload 12 4,
      clean := nb g.payload 16 4 } := by
  rw [agreeContrib, h]
  dsimp only
  rw [State.groupIn_listed _ hl]
  exact if_pos (by simp [hroot, hmember])

/-- A result that no query asked for goes down the tree and is taken (R248, R330). -/
theorem agreeResult_relayed (h : s.inbound 0x0F f = (some (j, g), u)) (hanswer : bit g.flags 1 = false) (hl : u.groupOf j g.arg = .ok l) :
    agreeResult f s = (u.relay j 0x0F g.arg l g.payload).applyResult j g.payload := by
  rw [agreeResult, h]
  dsimp only
  rw [if_neg (by simp [hanswer]), State.groupIn_listed _ hl]
  rfl

/-- A result that answers a query is taken (R251). -/
theorem agreeResult_answers (h : s.inbound 0x0F f = (some (j, g), u)) (hanswer : bit g.flags 1 = true) (hgood : bit g.flags 2 = false)
    (hheld : g.payload ≠ []) {r : Req} (hr : u.reqOf g.tag = some r) (hop : r.what = 0x17) :
    agreeResult f s = (u.dropReq g.tag).applyResult j g.payload := by
  rw [agreeResult, h]
  dsimp only
  rw [if_pos hanswer, hr]
  dsimp only
  rw [if_neg (by simp [hop]), if_neg (not_not_intro hop), if_neg (by simp [hgood, hheld])]

/-- The result that this module holds of a step: its record of the step, or the group's stored result, or none. -/
def State.heldResult (s : State) (j g n : Nat) : List Byte :=
  match s.recordOf j n, s.resultAt j g n with
  | some r, _ => r
  | none, some r => r
  | none, none => []

/-- A query is answered with the result held, or with none (R251). -/
theorem agreeQuery_answers (h : s.inbound 0x17 f = (some (j, g), u)) :
    agreeQuery f s = u.reply g 0x0F g.arg 0 (u.heldResult j g.arg (nb g.payload 0 8)) := by
  rw [agreeQuery, h, State.heldResult]
  dsimp only
  cases u.recordOf j (nb g.payload 0 8) with
  | some r => rfl
  | none => cases u.resultAt j g.arg (nb g.payload 0 8) <;> rfl

/-- A member's release is recorded (R339). -/
theorem releaseFrame_taken (h : s.inbound 0x10 f = (some (j, g), u)) (hl : u.groupOf j g.arg = .ok l) :
    releaseFrame f s = u.takeRelease j g.arg g.acting (nb g.payload 0 8) := by
  rw [releaseFrame, h]
  dsimp only
  rw [State.groupIn_listed _ hl]
  rfl

/-- A release floor goes down the tree and is recorded (R330, R339). -/
theorem releaseFloor_taken (h : s.inbound 0x11 f = (some (j, g), u)) (hl : u.groupOf j g.arg = .ok l) :
    let n := nb g.payload 0 8
    releaseFloor f s = ((u.relay j 0x11 g.arg l g.payload).modFab fun F => { F with
      reqs := F.reqs.filter fun r => !(r.what == 0x10 && r.job == j && r.arg == g.arg && decide (nb r.data 0 8 ≤ n)) }).setFloor j g.arg n := by
  rw [releaseFloor, h]
  dsimp only
  rw [State.groupIn_listed _ hl]
  rfl

end Frames

/-! ## Timers -/

/-- The root that has a contribution decides (R248). -/
theorem agreeTimeout_decides {s : State} {j g n : Nat} {l : List Nat} (hl : s.groupOf j g = .ok l) (hroot : s.isMe (rootOf l) = true)
    (hsome : s.contribsOf j g n ≠ []) : agreeTimeout j g n s = s.decide' j g n l := by
  rw [agreeTimeout, hl]
  exact if_pos (by simp [hroot, hsome])

/-- A module without a result asks the other members in turn (R251). -/
theorem agreeResultQueryTimer_asks {s : State} {j n q : Nat} {c : QCmd} {cl : Clause} {f : InFlight} {l : List Nat}
    (hq : s.agreeQueue j n = some q) (hrun : s.fabRun q = some (c, cl, f)) (hl : s.groupOf j (fabGroup c.word) = .ok l)
    (hfirst : f.pos % 2 = 0) :
    let asking := s.modQueue ⟨.fabric, q⟩ fun Q => { Q with infl := Q.infl.map fun f => { f with pos := f.pos + 1 } }
    agreeResultQueryTimer j n s = ((l.filter fun m => !asking.isMe m).foldl (fun s m =>
      s.request 0x17 j ⟨.fabric, q⟩ 0 m (2 ^ 48 * m) (fabGroup c.word) 0 (padTo 16 (leBytes 8 n))) asking).loseAgree j n := by
  rw [agreeResultQueryTimer, hq]
  dsimp only
  rw [hrun]
  dsimp only
  rw [hl]
  dsimp only
  rw [if_neg (by omega)]

/-- A COMMIT's wait for a release floor ends by dropping the versions it waited for (R340). -/
theorem releaseTimeout_drops {s : State} {sl : Nat} {c : QCmd} {cl : Clause} (hhead : s.headOf ⟨.update, sl⟩ = some (c, cl))
    (hop : isOp 0x60 c.word = true) :
    releaseTimeout sl s = (s.fab.shards.filter fun x => x.job == cl.job && x.pset == cb c.word 4 1 && x.waiting).foldl (fun s x =>
      (s.bump (K.retainDrops x.job) 1).modShard x fun y => { y with prev := none, waiting := false }) s := by
  rw [releaseTimeout, hhead]
  exact if_neg (by simpa [isOp] using hop)

/-! ## STEP_RELEASE -/

/-- A STEP_RELEASE of a step that has its result, with no COMMIT or EXPORT of it left, departs to its root. -/
theorem runStepRelease_departs {s : State} {c : QCmd} {cl : Clause} {t : Step} {l : List Nat}
    (hfields : reservedSet c.word [(0, 8), (32, 8), (48, 16), (192, 64)] = false) (hstep : s.stepOf cl.job (fabArg c.word) = some t)
    (hl : s.groupOf cl.job (fabGroup c.word) = .ok l) (hresult : beforeResult t = false) (hstuck : t.stuck = false)
    (hopen : ∀ e ∈ s.clauses, ¬ (e.job = cl.job ∧ e.step = some (fabArg c.word) ∧ e.cls = .update ∧ e.keeps = true)) :
    let root := rootOf l
    runStepRelease s c cl none = .busy (if (s.began cl.seq).isMe root then s.began cl.seq
      else (s.began cl.seq).request 0x10 cl.job ⟨.fabric, cl.unit⟩ 0 root (2 ^ 48 * root) (fabGroup c.word) 0
        (padTo 16 (leBytes 8 (fabArg c.word)))) { progress := 0, pos := 0, waits := [] } := by
  have hnone : (s.clauses.any fun e => e.job == cl.job && e.step == some (fabArg c.word) && e.cls == .update && e.keeps) = false := by
    simpa [and_assoc] using hopen
  unfold runStepRelease
  dsimp only
  rw [decoded_of_all_pass _ _ (by simpa [stepChecks] using hfields), hstep]
  dsimp only
  rw [hl, onAcc_ok, if_neg (by simp [hresult, hnone, hstuck])]

/-- Settles O18: each frame, timer and release is its function on the branch that its conditions choose. -/
theorem agreementGoesOnAndCloses : Obligations.AgreementGoesOnAndCloses := by
  unfold Obligations.AgreementGoesOnAndCloses
  refine ⟨fun s u f g j => ⟨fun h l hl hroot hmember => congrArg (finish s) (agreeContrib_joins h hl hroot hmember),
      fun h => ⟨fun hanswer l hl => congrArg (finish s) (agreeResult_relayed h hanswer hl),
        fun hanswer hgood hheld r hr hop => congrArg (finish s) (agreeResult_answers h hanswer hgood hheld hr hop)⟩,
      fun h => ?_, fun h l hl => congrArg (finish s) (releaseFrame_taken h hl),
      fun h l hl => congrArg (finish s) (releaseFloor_taken h hl)⟩,
    ⟨fun s j g n l hl hroot hsome => congrArg (finish s) (agreeTimeout_decides hl hroot hsome),
      fun s j n q c cl f l hq hrun hl hfirst => congrArg (finish s) (agreeResultQueryTimer_asks hq hrun hl hfirst),
      fun s sl c cl hhead hop => congrArg (finish s) (releaseTimeout_drops hhead hop)⟩,
    fun s n c cl t l hissue hunit hop hfields => ?_⟩
  · refine congrArg (finish s) ((agreeQuery_answers h).trans (congrArg (u.reply g 0x0F g.arg 0) ?_))
    unfold State.heldResult
    cases u.recordOf j (nb g.payload 0 8) with
    | some r => rfl
    | none => cases u.resultAt j g.arg (nb g.payload 0 8) <;> rfl
  · dsimp only
    intro hstep hl hresult hstuck hopen
    refine congrArg (finish s) (congrArg (fun x : State => x.releaseGoOn n) ?_)
    subst hunit
    rw [State.issue_ready hissue _ hop, faultOf_none, runStepRelease_departs hfields hstep hl hresult hstuck hopen]
    rfl

end Sys2Proof.Machine
end

section
/-! SUPPORT and PROOFS. The REMOTE commands (R98, R326 to R328). -/

namespace Sys2Proof.Machine

/-- A word is a fabric command's where its opcode and its subcode are. -/
theorem isFab_iff {op sub w : Nat} : isFab op sub w = true ↔ cb w 0 1 = op ∧ fabOp w = sub := by
  simp [isFab]

/-! ## The end of a run of pieces -/

/-- Whether a write that a run of pieces waits on has been counted: the state, and whether it is counted by now (R311). -/
def State.countHeld (s : State) (j : Nat) : Option Nat → State × Bool
  | some a => s.countWait j a false
  | none => (s, false)

section Ends

variable {q : QueueId} {w seq j : Nat} {o : RemoteOut} (hstop : o.stop = none)
include hstop

/-- With every piece issued and nothing outstanding the command completes. -/
theorem remoteEnd_done (hpos : remoteBytes w ≤ o.pos) (hreqs : o.state.reqsOf q = []) : remoteEnd q w seq j false o = .done o.state := by
  unfold remoteEnd
  dsimp only
  rw [hstop]
  exact if_pos ⟨hpos, hreqs⟩

/-- Else it is in execution. -/
theorem remoteEnd_busy (hleft : o.pos < remoteBytes w ∨ o.state.reqsOf q ≠ []) : remoteEnd q w seq j false o =
    .busy (o.state.countHeld j o.at').1
      { progress := o.state.remoteDone q w o.pos, pos := o.pos, waits := [], waited := (o.state.countHeld j o.at').2 } := by
  unfold remoteEnd
  dsimp only
  rw [hstop]
  dsimp only
  rw [if_neg fun h => hleft.elim (fun hpos => absurd h.1 (Nat.not_le.mpr hpos)) fun hreqs => hreqs h.2]
  cases o.at' <;> rfl

end Ends

/-- A REMOTE whose checks pass, and whose kept responses land, runs its pieces from where it stood. -/
theorem runRemote_eq {s v : State} {c : QCmd} {cl : Clause} (hchecks : ∀ x ∈ s.remoteChecks c.word, x.1 = false)
    (hland : (if c.again then s.resend ⟨.fabric, cl.unit⟩ else s).landAll ⟨.fabric, cl.unit⟩ cl = (none, v)) :
    runRemote s c cl none = remoteEnd ⟨.fabric, cl.unit⟩ c.word cl.seq cl.job false
      (v.remoteRun ⟨.fabric, cl.unit⟩ c cl (remoteFuel c.word) (if c.again then c.pos else 0)) := by
  unfold runRemote
  dsimp only
  rw [decoded_of_all_pass _ _ hchecks]
  cases hagain : c.again with
  | false =>
    rw [hagain] at hland
    simp only [Bool.false_eq_true, if_false] at hland ⊢
    rw [State.remoteFrom, hland]
  | true =>
    rw [hagain] at hland
    simp only [if_true] at hland ⊢
    rw [State.remoteFrom, hland]

/-- The rows of REMOTE issue it alike, each with its own subcode. -/
theorem exec_remote {s : State} {n k : Nat} {i : Instr}
    (hi : (k, i) ∈ [(0, Instr.remoteGet n), (1, .remotePut n), (2, .remoteAdd n), (3, .remoteAtomic n), (4, .remoteSignal n)]) :
    exec i s = finish s (s.issue ⟨.fabric, n⟩ (isFab 0x74 k) none runRemote) := by
  simp only [List.mem_cons, Prod.mk.injEq, List.not_mem_nil, or_false] at hi
  obtain ⟨rfl, rfl⟩ | ⟨rfl, rfl⟩ | ⟨rfl, rfl⟩ | ⟨rfl, rfl⟩ | ⟨rfl, rfl⟩ := hi <;> rfl

/-! ## SIGNAL (R327) -/

/-- A SIGNAL waits for the earlier writes, adds and atomics of its queue toward its node. -/
theorem State.remoteStep_signal {s : State} {q : QueueId} {c : QCmd} {cl : Clause} {off : Nat} (hop : fabOp c.word = 4) :
    let node := fabDesc c.word / 2 ^ 48
    ((∃ r ∈ s.fab.reqs, r.owner = q ∧ r.node = node ∧ (r.what = 0x03 ∨ r.what = 0x05 ∨ r.what = 0x06)) →
      s.remoteStep q c cl off = .hold s none) ∧
    ((∀ r ∈ s.fab.reqs, ¬ (r.owner = q ∧ r.node = node ∧ (r.what = 0x03 ∨ r.what = 0x05 ∨ r.what = 0x06))) → s.isMe node = true →
      s.remoteStep q c cl off = .ok ((s.signal cl.job (bits (fabDesc c.word) 0 4) (fabArg c.word)).began cl.seq)) := by
  unfold State.remoteStep
  dsimp only
  rw [hop]
  refine ⟨fun hearlier => if_pos ?_, fun hnone hme => (if_neg ?_).trans (if_pos hme)⟩
  · simpa [and_assoc, or_assoc] using hearlier
  · simpa [and_assoc, or_assoc] using hnone

/-- Waking a job's core leaves the arrival counters. -/
theorem State.wakeCore_arrivalCounter (s : State) {j c : Nat} (i : Nat) (hc : c < 16) :
    (s.wakeCore j).reg (K.arrivalCounter i c) = s.reg (K.arrivalCounter i c) := by
  unfold State.wakeCore
  split
  · rfl
  · exact s.wake_core_reg (j % 2) (by simp only [K.arrivalCounter, K.pllLocked]; omega)
      (by simp only [K.arrivalCounter, K.coreStates]; omega)

/-- A job's core that is awake is left as it is. -/
theorem State.wakeCore_awake {s : State} {j : Nat} (h : s.powerOf (.core (j % 2)) = 0) : s.wakeCore j = s := by
  unfold State.wakeCore
  split
  · rfl
  · exact if_pos (.inl h)

/-- Writing an arrival counter leaves the power states of the cores. -/
theorem State.powerOf_setReg_arrivalCounter (s : State) {j c : Nat} (v k : Nat) (hc : c < 16) :
    (s.setReg (K.arrivalCounter j c) v).powerOf (.core (k % 2)) = s.powerOf (.core (k % 2)) := by
  have hplace : K.arrivalCounter j c ≠ K.coreStates (k % 2) := by
    simp only [K.arrivalCounter, K.coreStates]
    omega
  unfold State.powerOf
  rw [show (powerPlace (.core (k % 2))).1 = K.coreStates (k % 2) from rfl, State.reg_setReg_ne _ _ _ _ hplace]

/-- Settles O16: a run of pieces ends as done or in execution; a SIGNAL to this module adds to its counter. -/
theorem remoteCommandsRun : Obligations.RemoteCommandsRun := by
  unfold Obligations.RemoteCommandsRun
  refine ⟨fun s n c cl h hunit => ?_, fun s q c cl off hop => State.remoteStep_signal (isFab_iff.mp hop).2,
    fun s j c n hj hc => ⟨?_, fun hawake i hi => ?_⟩⟩
  · subst hunit
    dsimp only
    intro hchecks v hland hstop i k hi hop
    have hbody := runRemote_eq hchecks hland
    rw [exec_remote hi]
    refine ⟨fun hpos hreqs => finish_issue_done h hop (hbody.trans (remoteEnd_done hstop hpos hreqs)),
      fun hleft => (finish_issue_busy h hop (hbody.trans (remoteEnd_busy hstop hleft))).trans ?_⟩
    unfold State.countHeld
    cases (v.remoteRun ⟨.fabric, cl.unit⟩ c cl (remoteFuel c.word) (if c.again then c.pos else 0)).at' <;> rfl
  · rw [State.signal, State.wakeCore_arrivalCounter _ j hc, State.reg_setReg]
  · rw [State.signal, State.wakeCore_awake, State.reg_setReg_ne _ _ _ _ (Ne.symm hi)]
    rw [State.powerOf_setReg_arrivalCounter _ _ _ hc, hawake]

end Sys2Proof.Machine
end

section
/-! SUPPORT and PROOFS. Collectives and gathers of shards (R98, R331 to R338, R341). -/

namespace Sys2Proof.Machine

/-! ## Joining a collective (R331) -/

section Joining

variable {s : State} {c : QCmd} {cl : Clause} {l : List Nat} {T : Ragged} (hchecks : ∀ x ∈ collChecks c.word, x.1 = false)
  (hl : s.groupOf cl.job (fabGroup c.word) = .ok l) (hT : s.raggedOf cl.job c.word l.length = .ok T)
  (halign : T.dst % alignOf (fabFmt c.word) = 0)
include hchecks hl hT halign

/-- A new collective, the nth of its group, declares itself to every other member. -/
theorem runCollective_declares (hfirst : c.again = false) :
    let g := fabGroup c.word
    let seq := cellGet 0 g (s.job cl.job).collSeq
    let v := s.modJob cl.job fun x => { x with collSeq := cellPut 0 g (seq + 1) x.collSeq }
    runCollective s c cl none = .busy ((l.filter fun m => !v.isMe m).foldl (fun s m =>
      s.sendColl cl.unit cl.job g seq m 0 (declBytes (declOf c.word T))) v) { progress := 0, pos := 4 * seq, waits := [] } := by
  unfold runCollective
  dsimp only
  rw [decoded_of_all_pass _ _ hchecks, hl, onAcc_ok, hT, onAcc_ok, if_neg (not_not_intro halign), if_neg (by simp [hfirst])]

/-- A resumed one goes on from where it stood (R98). -/
theorem runCollective_again (hagain : c.again = true) :
    runCollective s c cl none = .busy s { progress := 0, pos := c.pos, waits := [] } := by
  unfold runCollective
  dsimp only
  rw [decoded_of_all_pass _ _ hchecks, hl, onAcc_ok, hT, onAcc_ok, if_neg (not_not_intro halign), if_pos hagain]

end Joining

/-- A fabric command whose body goes on is put in execution. -/
theorem State.issue_busy {s t : State} {q : QueueId} {c : QCmd} {cl : Clause} {mine : Nat → Bool} {f : InFlight}
    {body : State → QCmd → Clause → Option HwFault → Run} (h : s.mayIssue q c cl) (hm : mine c.word = true)
    (hr : body (s.started q c cl) c cl none = .busy t f) :
    s.issue q mine none body = t.modQueue q fun Q => { Q with infl := some f } := by
  rw [State.issue_ready h mine hm, faultOf_none, hr]
  rfl

/-- The rows of the collectives issue alike, each with its own subcode, and then go on. -/
theorem exec_collective {s : State} {n k : Nat} {i : Instr} (hi : (k, i) ∈ [(0, Instr.allReduce n), (1, .reduceScatter n),
    (2, .allGather n), (3, .broadcast n), (4, .reduce n), (5, .allToAll n)]) :
    exec i s = finish s ((s.issue ⟨.fabric, n⟩ (isFab 0x70 k) none runCollective).collGoOn n) := by
  simp only [List.mem_cons, Prod.mk.injEq, List.not_mem_nil, or_false] at hi
  obtain ⟨rfl, rfl⟩ | ⟨rfl, rfl⟩ | ⟨rfl, rfl⟩ | ⟨rfl, rfl⟩ | ⟨rfl, rfl⟩ | ⟨rfl, rfl⟩ := hi <;> rfl

/-! ## COLL_DATA (R334) and the timeout (R335) -/

/-- Whether a fabric queue runs the collective that a frame names. -/
def State.runsColl (s : State) (j grp seq q : Nat) : Bool :=
  match s.fabRun q with
  | some (c, cl, x) => cl.job == j && cb c.word 0 1 == 0x70 && fabGroup c.word == grp && x.pos / 4 == seq
  | none => false

/-- The state in which a frame of a collective has joined its entry under its sender. -/
def State.joinColl (s : State) (j : Nat) (g : Frame) : State :=
  s.modColl j (g.addr % 65536) g.arg g.acting fun y => match bits g.addr 16 2 with
    | 0 => { y with decl := some (declRead g.payload) }
    | 1 => { y with part := some g.payload }
    | _ => { y with final := some g.payload }

section Data

variable {s u v : State} {f g : Frame} {j : Nat}

/-- A frame of a collective is acknowledged, and joins its entry where its collective runs here or is to come. -/
theorem collData_eq (h : s.inbound 0x0D f = (some (j, g), u)) (hv : u.reply g 0x04 0 0 [] = v) :
    let here := (List.range 16).find? (v.runsColl j (g.addr % 65536) g.arg)
    collData f s = if here.isNone && decide (g.arg < cellGet 0 (g.addr % 65536) (v.job j).collSeq) then v
      else here.elim (v.joinColl j g) (v.joinColl j g).collGoOn := by
  rw [collData, h]
  dsimp only
  rw [hv]
  refine ite_congr rfl (fun _ => rfl) fun _ => ?_
  change (match (List.range 16).find? (v.runsColl j (g.addr % 65536) g.arg) with
    | some q => (v.joinColl j g).collGoOn q
    | none => v.joinColl j g) = _
  cases (List.range 16).find? (v.runsColl j (g.addr % 65536) g.arg) <;> rfl

variable (h : s.inbound 0x0D f = (some (j, g), u)) (hv : u.reply g 0x04 0 0 [] = v)
include h hv

/-- A frame of a collective that runs here joins it, and its queue goes on. -/
theorem collData_runs {q : Nat} (hq : (List.range 16).find? (v.runsColl j (g.addr % 65536) g.arg) = some q) :
    collData f s = (v.joinColl j g).collGoOn q := by
  rw [collData_eq h hv, hq]
  rfl

/-- A frame of a collective to come waits at its entry; one of a collective that is over is acknowledged alone. -/
theorem collData_idle (hq : (List.range 16).find? (v.runsColl j (g.addr % 65536) g.arg) = none) :
    (cellGet 0 (g.addr % 65536) (v.job j).collSeq ≤ g.arg → collData f s = v.joinColl j g) ∧
    (g.arg < cellGet 0 (g.addr % 65536) (v.job j).collSeq → collData f s = v) := by
  rw [collData_eq h hv, hq]
  exact ⟨fun hto => if_neg (by simpa using hto), fun hover => if_pos (by simpa using hover)⟩

end Data

/-- The lowest member that has not declared itself halts the command (R335). -/
theorem collTimeout_halts {s : State} {q n : Nat} {c : QCmd} {cl : Clause} {f : InFlight} {l : List Nat}
    (hrun : s.fabRun q = some (c, cl, f)) (hop : isOp 0x70 c.word = true) (hwaits : f.pos % 4 = 0)
    (hl : s.groupOf cl.job (fabGroup c.word) = .ok l)
    (hn : (l.find? fun n => !s.isMe n && ((s.collOf cl.job (fabGroup c.word) (f.pos / 4) n).bind (·.decl)).isNone) = some n) :
    collTimeout q s = (s.collDrop cl.job (fabGroup c.word) (f.pos / 4)).haltCmd ⟨.fabric, q⟩ c cl 0x41 n 0 f.pos false := by
  have hop : cb c.word 0 1 = 0x70 := by simpa [isOp] using hop
  rw [collTimeout, hrun]
  dsimp only
  rw [if_neg (by simp [hop, hwaits]), hl]
  dsimp only
  rw [hn]

/-! ## Gathers of shards (R336, R338) -/

section Gathers

variable {s : State} {c : QCmd} {cl : Clause} {l : List Nat} {G : Gather}

/-- The run of a gather over every shard, those that have come first. -/
def State.gatherOver (s : State) (q : QueueId) (c : QCmd) (cl : Clause) (G : Gather) : GatherOut :=
  (List.range G.shards.length).foldl (fun (o : GatherOut) i => o.state.gatherOne q c cl G o i)
    (s.gatherLand q c cl G { state := s, mask := if c.again then c.pos else 0, stop := none, at' := none })

/-- A gather whose checks pass runs over its shards. -/
theorem runGather_eq (hfields : reservedSet c.word [(0, 8), (32, 8), (48, 16), (64, 64), (128, 64), (192, 64)] = false)
    (hl : s.groupOf cl.job (fabGroup c.word) = .ok l) (hG : s.gatherOf cl.job (fabDesc c.word) (fabArg c.word) = .ok G)
    (halign : fabLocal c.word % alignOf G.fmt = 0) :
    runGather s c cl none = s.gatherRun ⟨.fabric, cl.unit⟩ c cl G (if c.again then c.pos else 0) false := by
  unfold runGather
  dsimp only
  rw [decoded_of_all_pass _ _ (by simpa [gatherChecks] using hfields), hl, onAcc_ok, hG, onAcc_ok, if_neg (not_not_intro halign)]

variable {q : QueueId} {o : GatherOut} (ho : s.gatherOver q c cl G = o) (hstop : o.stop = none)
include ho hstop

/-- With every shard written and nothing outstanding it completes. -/
theorem State.gatherRun_done (hmask : o.mask = 2 ^ G.shards.length - 1) (hreqs : o.state.reqsOf q = []) :
    s.gatherRun q c cl G (if c.again then c.pos else 0) false = .done o.state := by
  unfold State.gatherOver at ho
  unfold State.gatherRun
  dsimp only
  rw [ho, hstop]
  exact if_pos ⟨hmask, hreqs⟩

/-- Else it is in execution. -/
theorem State.gatherRun_busy (hleft : o.mask ≠ 2 ^ G.shards.length - 1 ∨ o.state.reqsOf q ≠ []) :
    s.gatherRun q c cl G (if c.again then c.pos else 0) false = .busy (o.state.countHeld cl.job o.at').1
      { progress := gatherDone G o.mask, pos := o.mask, waits := [], waited := (o.state.countHeld cl.job o.at').2 } := by
  unfold State.gatherOver at ho
  unfold State.gatherRun
  dsimp only
  rw [ho, hstop]
  dsimp only
  rw [if_neg fun h => hleft.elim (fun hmask => hmask h.1) fun hreqs => hreqs h.2]
  cases o.at' <;> rfl

end Gathers

/-- The two rows of a gather issue it alike, each with its own subcode. -/
theorem exec_gather {s : State} {n k : Nat} {i : Instr} (hi : (k, i) ∈ [(0, Instr.gather n), (1, .refetch n)]) :
    exec i s = finish s (s.issue ⟨.fabric, n⟩ (isFab 0x72 k) none runGather) := by
  simp only [List.mem_cons, Prod.mk.injEq, List.not_mem_nil, or_false] at hi
  obtain ⟨rfl, rfl⟩ | ⟨rfl, rfl⟩ := hi <;> rfl

/-- Settles O19: a collective declares itself or goes on; its frames join it; a gather runs over its shards and ends. -/
theorem collectivesAndShardGathersRun : Obligations.CollectivesAndShardGathersRun := by
  unfold Obligations.CollectivesAndShardGathersRun
  refine ⟨fun s n c cl h hunit hchecks => ?_, ⟨fun s u f g j h => ?_,
    fun s q c cl f l n hrun hop hwaits hl hn => congrArg (finish s) (collTimeout_halts hrun hop hwaits hl hn)⟩,
    fun s n c cl h hunit hfields => ?_⟩
  · subst hunit
    dsimp only
    intro l T hl hT halign i k hi hop
    rw [exec_collective hi]
    exact ⟨fun hfirst => by rw [State.issue_busy h hop (runCollective_declares hchecks hl hT halign hfirst), finish],
      fun hagain => by rw [State.issue_busy h hop (runCollective_again hchecks hl hT halign hagain), finish]⟩
  · dsimp only
    generalize hv : u.reply g 0x04 0 0 [] = v
    refine ⟨fun q hq => congrArg (finish s) (collData_runs h hv hq), fun hq => ?_, fun hq => ?_⟩
    · exact fun hto => congrArg (finish s) ((collData_idle h hv hq).1 hto)
    · exact fun hover => congrArg (finish s) ((collData_idle h hv hq).2 hover)
  · subst hunit
    dsimp only
    intro l G hl hG halign
    have hbody := runGather_eq hfields hl hG halign
    generalize ho : (List.range G.shards.length).foldl _ _ = o
    intro hstop i k hi hop
    rw [exec_gather hi]
    refine ⟨fun hmask hreqs => finish_issue_done h hop (hbody.trans (State.gatherRun_done ho hstop hmask hreqs)),
      fun hleft => (finish_issue_busy h hop (hbody.trans (State.gatherRun_busy ho hstop hleft))).trans ?_⟩
    unfold State.countHeld
    cases o.at' <;> rfl

end Sys2Proof.Machine
end

section
/-! SUPPORT and PROOFS. RECIPE_LOAD, EXPORT and the replay of a COMMIT (R257, R258, R265, R267, R268). -/

namespace Sys2Proof.Machine

/-! ## Recipes of the slices (R257, R258) -/

/-- A list of recipes in which a job's slot holds the instructions `l`. -/
def putRecipe (j slot : Nat) (l : List Nat) (r : List (Nat × Nat × List Nat)) : List (Nat × Nat × List Nat) :=
  (j, slot, l) :: r.filter fun r => !(r.1 == j && r.2.1 == slot)

/-- The state in which a slice has been given a recipe. -/
def State.giveRecipe (j slot : Nat) (l : List Nat) (s : State) (k : Nat) : State :=
  (s.modSlice k fun x => { x with recipes := putRecipe j slot l x.recipes }).overwrite ⟨.update, k⟩ 0 [recipeWords j slot]

section Give

variable {j slot : Nat} {l : List Nat} (s : State)

/-- Overwriting the words of a memory leaves the slices. -/
@[simp] theorem State.overwrite_slices (q : QueueId) (n : Nat) (w : List Words) : (s.overwrite q n w).slices = s.slices := by
  unfold State.overwrite
  split <;> rfl

/-- A gift changes the recipes of its slice alone. -/
theorem State.giveRecipe_slices (k i : Nat) : (s.giveRecipe j slot l k).slices[i]? =
    (s.slices[i]?).map fun x => if k = i then { x with recipes := putRecipe j slot l x.recipes } else x := by
  unfold State.giveRecipe
  rw [State.overwrite_slices, State.modSlice, List.getElem?_modify]
  rfl

/-- The recipe in a slot after gifts to several slices: the gift on each of them, as it was on the others. -/
theorem State.giveRecipes_recipe (ks : List Nat) (i : Nat) :
    ((ks.foldl (State.giveRecipe j slot l) s).slices[i]?).map (·.recipe j slot) =
      (s.slices[i]?).map fun x => if i ∈ ks then some l else x.recipe j slot := by
  induction ks generalizing s with
  | nil => simp
  | cons k ks ih =>
    rw [List.foldl_cons, ih, State.giveRecipe_slices, Option.map_map]
    congr 1
    funext x
    by_cases hin : i ∈ ks
    · simp [hin]
    · by_cases hk : k = i
      · simp [hin, hk, Slice.recipe, putRecipe]
      · simp [hin, hk, Ne.symm hk]

end Give

/-- The slices that a delivery reaches beside the first: those in service whose queues do not hold the command. -/
def State.deliverOthers (s : State) (sl : Nat) (c : QCmd) : List Nat :=
  (List.range 12).filter fun k => k != sl && s.sliceUp k && match s.queue ⟨.update, k⟩ with
    | some Q => !Q.hasCmd c.seq c.idx
    | none => false

/-- The slices after a delivery: given to the slice that runs it, and by the first one to the others. -/
theorem State.deliver_slices (s : State) (sl : Nat) (c : QCmd) (cl : Clause) (slot : Nat) (l : List Nat) :
    (s.deliver sl c cl slot l).slices =
      if cl.next > c.idx then (s.giveRecipe cl.job slot l sl).slices
      else (((s.giveRecipe cl.job slot l sl).deliverOthers sl c).foldl (State.giveRecipe cl.job slot l)
        (s.giveRecipe cl.job slot l sl)).slices := by
  unfold State.deliver
  extract_lets e put give u
  have hgive : give = State.giveRecipe cl.job slot l := rfl
  have hu : u = s.giveRecipe cl.job slot l sl := rfl
  clear_value u give
  subst hgive
  rw [← hu]
  split
  · rfl
  · exact State.modJob_slices _ cl.job _

/-- A gift leaves the entries, and what each slice's queue holds. -/
theorem State.giveRecipe_queue (s : State) (j slot : Nat) (l : List Nat) (k i : Nat) :
    (s.giveRecipe j slot l k).queue ⟨.update, i⟩ = s.queue ⟨.update, i⟩ := by
  change ((s.giveRecipe j slot l k).slices[i]?).map (·.queue) = (s.slices[i]?).map (·.queue)
  rw [State.giveRecipe_slices, Option.map_map]
  congr 1
  funext x
  rw [Function.comp_apply]
  split <;> rfl

theorem State.giveRecipe_sliceUp (s : State) (j slot : Nat) (l : List Nat) (k i : Nat) :
    (s.giveRecipe j slot l k).sliceUp i = s.sliceUp i := by
  unfold State.giveRecipe State.overwrite
  split <;> rfl

/-- A slice that a delivery reaches holds the recipe. -/
theorem State.slice_recipe_of_given {s t : State} {j slot k : Nat} {l : List Nat} (ks : List Nat) (hk : k ∈ ks) (hlen : k < s.slices.length)
    (ht : t.slices = (ks.foldl (State.giveRecipe j slot l) s).slices) : (t.slice k).recipe j slot = some l := by
  have hgiven := State.giveRecipes_recipe (j := j) (slot := slot) (l := l) s ks k
  rw [← ht, List.getElem?_eq_getElem hlen, Option.map_some, if_pos hk] at hgiven
  obtain ⟨x, hx, hrecipe⟩ := Option.map_eq_some_iff.mp hgiven
  rw [State.slice, hx]
  exact hrecipe

/-- A delivery gives the recipe to its slice, and by the first one to every other that does not hold the command. -/
theorem State.deliver_recipe (s : State) (sl : Nat) (c : QCmd) (cl : Clause) (slot : Nat) (l : List Nat) (hsl : sl < s.slices.length) :
    let t := s.deliver sl c cl slot l
    (t.slice sl).recipe cl.job slot = some l ∧
    (cl.next ≤ c.idx → ∀ k < s.slices.length, k < 12 → s.sliceUp k = true →
      (∀ Q, s.queue ⟨.update, k⟩ = some Q → Q.hasCmd c.seq c.idx = false) → (t.slice k).recipe cl.job slot = some l) := by
  dsimp only
  have hslices := s.deliver_slices sl c cl slot l
  split at hslices
  next hlater =>
    exact ⟨State.slice_recipe_of_given [sl] (List.mem_singleton_self sl) hsl hslices, fun hle => absurd hlater (Nat.not_lt.mpr hle)⟩
  next hfirst =>
    refine ⟨State.slice_recipe_of_given (sl :: _) List.mem_cons_self hsl hslices, fun _ k hk hlt hup hqueue => ?_⟩
    refine State.slice_recipe_of_given (sl :: _) ?_ hk hslices
    by_cases hsame : k = sl
    · exact hsame ▸ List.mem_cons_self
    · refine List.mem_cons_of_mem _ (List.mem_filter.mpr ⟨List.mem_range.mpr hlt, ?_⟩)
      obtain ⟨x, hx⟩ : ∃ x, s.slices[k]? = some x := ⟨_, List.getElem?_eq_getElem hk⟩
      have hQ : s.queue ⟨.update, k⟩ = some x.queue := congrArg (Option.map fun y : Slice => y.queue) hx
      rw [State.giveRecipe_sliceUp, State.giveRecipe_queue, hQ, hup]
      simp [hsame, hqueue _ hQ]

/-- An access that does not fail four times lets its command go on. -/
theorem sliceAccess_through (s : State) (j addr n : Nat) {a : MemAccess} (k : State → Run) (ha : a.retries ≤ 3) :
    sliceAccess s j addr n a k = k (s.accessAt j addr n a) := if_neg (Nat.not_lt.mpr ha)

/-- RECIPE_LOAD delivers the instructions that it reads, where each is sound. -/
theorem runRecipeLoad_delivers {s : State} {c : QCmd} {cl : Clause} {a : MemAccess}
    (hfields : reservedSet c.word [(0, 8), (40, 4), (128, 64), (192, 32)] = false) (ha : a.retries ≤ 3) :
    let len := cb c.word 24 4
    let u := s.accessAt cl.job (cb c.word 16 8) len a
    0 < len → len % 4 = 0 → len ≤ 96 → ∀ b, u.unitRead cl.job (cb c.word 16 8) len = .ok b →
    let l := (List.range (len / 4)).map fun i => nb b (4 * i) 4
    (∀ w ∈ l, instrOk w = true) →
      runRecipeLoad s c cl a = .done ((u.didRead cl.job (cb c.word 16 8) len).deliver cl.unit c cl (bits c.word 40 4) l) := by
  dsimp only
  intro hpos hmul hle b hread hsound
  have hall : ((List.range (cb c.word 24 4 / 4)).map fun i => nb b (4 * i) 4).all instrOk = true := List.all_eq_true.mpr hsound
  unfold runRecipeLoad
  dsimp only
  rw [decoded_of_all_pass _ _ (by simp [hfields, hmul, Nat.ne_of_gt hpos, Nat.not_lt.mpr hle]), sliceAccess_through _ _ _ _ _ ha, hread,
    onAcc_ok, hall]
  rfl

/-! ## EXPORT (R267, R268) -/

section Export

variable {s : State} {c : QCmd} {cl : Clause} {a : MemAccess}
  (hfields : reservedSet c.word [(0, 8), (32, 8), (128, 64), (192, 32)] = false)
include hfields

/-- A slice that reaches the command after it is done passes it. -/
theorem runExport_passes (hpast : c.idx < cl.next) : runExport s c cl a = .done s := by
  unfold runExport
  dsimp only
  rw [decoded_of_all_pass _ _ (by simpa using hfields), if_pos hpast, Run.resumed_done]

/-- What an EXPORT that is not done reads before it writes: its descriptor, its table where it is sparse, and its row set. -/
structure ExportHead (s : State) (c : QCmd) (cl : Clause) (d : ExportD) (T? : Option Table) (P : Pset) : Prop where
  left : cl.next ≤ c.idx
  desc : s.exportOf cl.job (cb c.word 4 1) (cb c.word 16 8) = .ok d
  table : if d.sparse then ∃ T, T? = some T ∧ s.tableOf cl.job d.table = .ok T ∧ T.pset = cb c.word 4 1 else T? = none
  rows : s.psetOf cl.job (cb c.word 4 1) (T?.elim 256 (·.dim)) (!d.sparse) = .ok P

variable {d : ExportD} {T? : Option Table} {P : Pset}

/-- Then its step's state and the other slices say how it goes on. -/
theorem ExportHead.runExport_eq (h : ExportHead s c cl d T? P) :
    let q : QueueId := ⟨.update, cl.unit⟩
    let t? := cl.step.bind fun n => s.stepOf cl.job n
    runExport s c cl a = Run.resumed c (if t?.any beforeResult then .wait
      else if t?.any (fun t => t.state == .ellipsis) then .done s
      else if s.exportReady cl.unit c = false then .wait
      else if d.cap < 64 then Run.refuse s 0x04 d.cap
      else sliceAccess s cl.job d.dest 64 a fun s => exportDone q c cl d P T? (s.reg (K.agreedEpoch cl.job))
        (State.exportRows q cl.job d P T? (s.exportRange cl.job d P T?)
          { state := s, bytes := 0, rows := 0, full := false, stop := none, need := none })) := by
  obtain ⟨hleft, hdesc, htable, hrows⟩ := h
  unfold runExport
  dsimp only
  rw [decoded_of_all_pass _ _ (by simpa using hfields), if_neg (Nat.not_lt.mpr hleft), hdesc, onAcc_ok]
  by_cases hsparse : d.sparse = true
  · rw [if_pos hsparse] at htable
    obtain ⟨T, rfl, hT, hset⟩ := htable
    rw [Option.elim_some] at hrows
    rw [if_pos hsparse, hT, accBind_ok, onAcc_ok]
    dsimp only
    rw [hrows, onAcc_ok, if_neg (by simp [hset])]
  · rw [if_neg hsparse] at htable
    subst htable
    rw [Option.elim_none] at hrows
    rw [if_neg hsparse, onAcc_ok]
    dsimp only
    rw [hrows, onAcc_ok, if_neg (by simp)]

/-- In an ellipsis it is done. -/
theorem ExportHead.runExport_ellipsis (h : ExportHead s c cl d T? P) {n : Nat} {t : Step} (hn : cl.step = some n)
    (ht : s.stepOf cl.job n = some t) (hstate : t.state = .ellipsis) : runExport s c cl a = .done s := by
  have hstep : (cl.step.bind fun n => s.stepOf cl.job n) = some t := by rw [hn, Option.bind_some, ht]
  rw [h.runExport_eq hfields, hstep]
  simp [beforeResult, hstate]

/-- Once its step has its result and the slices that have the command are ready, every row is written, and last the header. -/
theorem ExportHead.runExport_writes (h : ExportHead s c cl d T? P)
    (hstep : ∀ n t, cl.step = some n → s.stepOf cl.job n = some t → beforeResult t = false ∧ t.state ≠ .ellipsis)
    (hready : s.exportReady cl.unit c = true) (hcap : 64 ≤ d.cap) (ha : a.retries ≤ 3) {v : State} (hv : s.accessAt cl.job d.dest 64 a = v)
    {o : ExportOut} (ho : State.exportRows ⟨.update, cl.unit⟩ cl.job d P T? (v.exportRange cl.job d P T?)
      { state := v, bytes := 0, rows := 0, full := false, stop := none, need := none } = o)
    (hstop : o.stop = none) (hneed : o.need = none) (hfull : o.full = false) {t : State}
    (ht : o.state.queueWrite ⟨.update, cl.unit⟩ cl.job d.dest (exportHeader d P T? (v.reg (K.agreedEpoch cl.job)) o.rows true) = .ok t) :
    runExport s c cl a = Run.resumed c (sliceDone ⟨.update, cl.unit⟩
      ((t.modClause c.seq fun y => { y with wrote := y.wrote || o.rows != 0 }).modClause c.seq fun y => { y with
        next := max y.next (c.idx + 1) }) o.rows) := by
  have hfree : ∀ t, (cl.step.bind fun n => s.stepOf cl.job n) = some t → beforeResult t = false ∧ t.state ≠ .ellipsis := by
    intro t ht
    obtain ⟨n, hn, hnt⟩ := Option.bind_eq_some_iff.mp ht
    exact hstep n t hn hnt
  rw [h.runExport_eq hfields]
  generalize (cl.step.bind fun n => s.stepOf cl.job n) = t? at hfree
  have hbefore : t?.any beforeResult = false := by
    cases t? with
    | none => rfl
    | some t => exact (hfree t rfl).1
  have hellipsis : t?.any (fun t => t.state == .ellipsis) = false := by
    cases t? with
    | none => rfl
    | some t => exact beq_false_of_ne (hfree t rfl).2
  rw [hbefore, hellipsis, if_neg Bool.false_ne_true, if_neg Bool.false_ne_true, if_neg (by simp [hready]), if_neg (Nat.not_lt.mpr hcap),
    sliceAccess_through _ _ _ _ _ ha, hv, ho]
  unfold exportDone
  rw [hneed, hstop]
  dsimp only
  rw [hfull, Bool.not_false, ht]
  rfl

end Export

/-- A slice's command that has done its work completes, or stays in execution while what it sent is outstanding. -/
theorem finish_sliceDone {s e : State} {sl n : Nat} {c : QCmd} {cl : Clause} {mine : Nat → Bool}
    {body : State → QCmd → Clause → Option HwFault → Run} (h : s.mayIssue ⟨.update, sl⟩ c cl) (hop : mine c.word = true)
    (hr : body (s.started ⟨.update, sl⟩ c cl) c cl none = Run.resumed c (sliceDone ⟨.update, sl⟩ e n)) :
    (e.asks ⟨.update, sl⟩ = false → finish s (s.issue ⟨.update, sl⟩ mine none body) = .next (retired s e ⟨.update, sl⟩)) ∧
    (e.asks ⟨.update, sl⟩ = true → finish s (s.issue ⟨.update, sl⟩ mine none body) =
      .next (entered s e ⟨.update, sl⟩ { progress := n, pos := 0, waits := [] })) := by
  unfold sliceDone at hr
  refine ⟨fun hasks => finish_issue_done h hop (hr.trans ?_), fun hasks => finish_issue_busy h hop (hr.trans ?_)⟩
  · rw [if_neg (by simp [hasks]), Run.resumed_done]
  · rw [if_pos hasks, Run.resumed_busy]

/-! ## The replay of a COMMIT (R265) -/

/-- A COMMIT that a slice's loss withdrew is admitted to the slices in service. -/
theorem commitReplay_admits {s : State} {seq : Nat} {c : Clause} (hpow : s.powered = true) (hcore : s.coreOut 2 = false)
    (hc : s.clause seq = some c) (hcls : c.cls = .update) (hleft : c.unitsLeft = [])
    (hwait : s.retireWait c.job true c.base (32 * c.count) = false) (hcovers : s.covers c.energy = true)
    (hup : (List.range 12).filter s.sliceUp ≠ []) :
    let up := (List.range 12).filter s.sliceUp
    commitReplay seq s = up.foldl (fun s k => (s.fillRecipes c.job k).enqueue ⟨.update, k⟩ c)
      (((s.chargeJob c.job (s.chargeOf c.energy)).bump32 (K.commitReplays c.job) 1).modClause seq fun x => { x with
        unitsLeft := up, replays := x.replays + 1 }) := by
  have hup : ((List.range 12).filter s.sliceUp == []) = false := beq_false_of_ne hup
  rw [commitReplay, if_neg (by simp [hpow, hcore]), hc]
  dsimp only
  rw [hcls, hleft, hwait, hcovers, hup]
  rfl

/-- Settles O15: a recipe is delivered, an EXPORT ends as its step and its rows say, and a replay admits its COMMIT again. -/
theorem recipesExportsAndReplays : Obligations.RecipesExportsAndReplays := by
  unfold Obligations.RecipesExportsAndReplays
  refine ⟨fun s sl a c cl h hop hfields ha => ?_, fun s sl c cl slot l hsl => s.deliver_recipe sl c cl slot l hsl,
    fun s sl a c cl h hop hfields => ?_, fun s seq c hpow hcore hc hcls hleft hwait hcovers => ?_⟩
  · dsimp only
    intro hpos hmul hle b hread hsound
    exact finish_issue_done (body := fun s c cl _ => runRecipeLoad s c { cl with unit := sl } a) h hop
      (runRecipeLoad_delivers hfields ha hpos hmul hle b hread hsound)
  · dsimp only
    refine ⟨fun hpast => ?_, fun hleft d T? P hdesc htable hrows => ?_⟩
    · exact finish_issue_done (body := fun s c cl _ => runExport s c { cl with unit := sl } a) h hop (runExport_passes hfields hpast)
    · have hhead : ExportHead (s.started ⟨.update, sl⟩ c cl) c { cl with unit := sl } d T? P :=
        ⟨hleft, hdesc, htable, by cases T? <;> exact hrows⟩
      refine ⟨fun ⟨n, t, hn, ht, hstate⟩ => ?_, fun hstep hready hcap ha hstop hneed hfull t ht => ?_⟩
      · exact finish_issue_done (body := fun s c cl _ => runExport s c { cl with unit := sl } a) h hop
          (hhead.runExport_ellipsis hfields hn ht hstate)
      · exact finish_sliceDone (body := fun s c cl _ => runExport s c { cl with unit := sl } a) h hop
          (hhead.runExport_writes hfields hstep hready hcap ha rfl rfl hstop hneed hfull ht)
  · exact fun hup => congrArg (finish s) (commitReplay_admits hpow hcore hc hcls hleft hwait hcovers hup)

end Sys2Proof.Machine
end

section
/-! SUPPORT and PROOFS. GRAD_SCATTER, COMBINE_FLUSH and their partials (R98, R147 to R155, R162). -/

namespace Sys2Proof.Machine

/-- A board of operands that are only read puts no word right. -/
theorem boardWords_of_reads (x : PhraseCtx) {l : List Opnd} (h : ∀ o ∈ l, o.write = false) : boardWords x true l = [] := by
  have hnone : l.filter (·.write == true) = [] := by
    rw [List.filter_eq_nil_iff]
    intro o ho
    simp [h o ho]
  rw [boardWords, hnone, List.flatMap_nil]

/-- An outcome after which no word is put right is the outcome. -/
theorem Run.after_overwrite_nil (r : Run) (q : QueueId) (n : Nat) : (r.after fun t => t.overwrite q n []) = r := by
  cases r <;> simp [Run.after]

/-- The state in which a command's EE has sent again what was refused, where the command is resumed (R98). -/
def State.embAgain (u : State) (k : Nat) (c : QCmd) (cl : Clause) : State := if c.again then u.resendPartials k cl.job else u

/-- Sending again leaves the open steps, and so a clause's epoch. -/
theorem State.embAgain_epochOf (u : State) (k : Nat) (c : QCmd) (cl : Clause) : (u.embAgain k c cl).epochOf cl = u.epochOf cl := by
  have hsteps : (u.embAgain k c cl).steps = u.steps := by
    unfold State.embAgain
    split
    · exact foldl_keeps (fun t : State => t.steps) _
        (fun t p => State.request_keeps (·.steps) (fun _ _ _ => rfl) (fun _ _ => rfl) t _ _ _ _ _ _ _ _ _) _ _
    · rfl
  unfold State.epochOf State.stepOf
  rw [hsteps]

section Issue

variable {u : State} {c : QCmd} {cl : Clause}

/-- A GRAD_SCATTER whose checks pass combines its positions until it stops. -/
theorem runGradScatter_stops (hsound : u.svc.badWords = []) (hchecks : ∀ x ∈ u.embChecks cl c.word, x.1 = false) {t : Table} {g : GradDesc}
    {B : Batch} (ht : u.tableOf cl.job (embTable c.word) = .ok t) (hguard : u.writeGuard cl.job t = false)
    (hg : u.gradDesc cl.job t.num = .ok g) (hB : u.batchOf cl.job c.word t = .ok B)
    (hgo : u.board cl cl.declUnit [opnd (embRegion c.word) (4 * t.dim * countOf c.word) false] = .go) {v : State} {pos : Nat}
    (hrun : (u.embAgain cl.unit c cl).scatterRun cl.unit c cl t B (u.epochOf cl % 2 ^ 32) lookupFuel
      (if c.again then c.pos else 0) = .stop v pos) :
    runGradScatter u c cl none = if pos / 2 ^ 17 ≥ countOf c.word ∧ !(v.ee cl.unit).partials.any (·.seq == cl.seq) then .done v
      else .busy v { progress := pos / 2 ^ 17, pos := pos, waits := [] } := by
  rw [← State.embAgain_epochOf u cl.unit c] at hrun
  unfold State.embAgain at hrun
  unfold runGradScatter
  dsimp only
  rw [decoded_of_all_pass _ _ hchecks, ht, onAcc_ok, if_neg (by simp [hguard]), hg, onAcc_ok, hB, onAcc_ok, boarded_run hgo hsound,
    boardWords_of_reads _ (by simp [opnd]), Run.after_overwrite_nil]
  dsimp only
  rw [hrun]
  dsimp only
  split <;> rfl

/-- A COMBINE_FLUSH of tables that can be read sends what fits of their entries. -/
theorem runCombineFlush_sends (hsound : u.svc.badWords = []) (hfields : reservedSet c.word [(0, 8), (8, 1), (9, 2), (32, 8)] = false)
    (hrnd : rndOf c.word ≠ 3) (htables : u.flushTables cl.job (if embTable c.word = 0xFF
      then (((u.ee cl.unit).comb.filter fun x => x.job == cl.job).map (·.table)).eraseDups else [embTable c.word]) = .ok ())
    {v : State} (hv : (u.embAgain cl.unit c cl).flushSome cl.unit cl.seq (flushes cl.job (embTable c.word)) 4097 = v) :
    runCombineFlush u c cl none = if ((v.ee cl.unit).comb.any (flushes cl.job (embTable c.word))) ||
        (v.ee cl.unit).partials.any (·.seq == cl.seq)
      then .busy v { progress := c.prog, pos := 0, waits := [] } else .done v := by
  unfold State.embAgain at hv
  unfold runCombineFlush
  dsimp only
  rw [decoded_of_all_pass _ _ (by simp [hfields, hrnd]), htables, onAcc_ok, State.unitFault_none _ _ _ _ _ hsound]
  dsimp only
  rw [hv]
  split <;> rfl

end Issue

/-- An acknowledged partial leaves its EE; a COMBINE_FLUSH that sent it counts it, and the EE's commands go on (R155). -/
theorem partialAck_leaves {s : State} {k id : Nat} {p : Partial} (hp : (s.ee k).partials.find? (·.id == id) = some p)
    (hlanded : p.landed = true) :
    partialAck k id s = (((s.modEe k fun e => { e with partials := e.partials.filter (·.id != id) }).modQueue
      ⟨.embed, k⟩ fun Q => { Q with infl := match Q.cmds, Q.infl with
        | c :: _, some f => if c.seq == p.seq && cb c.word 0 1 == 0x52 then some { f with progress := f.progress + 1 } else some f
        | _, f => f }).embedGoOn k) := by
  rw [partialAck, hp]
  exact if_neg (by simp [hlanded])

/-- The owner's grant resumes the command that a flush had halted, or ends the inserted flush's halt of the EE (R98, R162). -/
theorem overflowPageGrant_resumes {s : State} {k j : Nat} (hcore : s.coreOut 2 = false) (hfits : s.grantFits k j = true) :
    (∀ h, s.heldOf ⟨.embed, k⟩ j = some h → overflowPageGrant k j s = (s.releaseHold ⟨.embed, k⟩ h).resendPartials k j) ∧
    (s.heldOf ⟨.embed, k⟩ j = none → ∀ t, (s.steps.find? fun t => t.job == j && t.flushHalts.any (heldFlush k)) = some t →
      overflowPageGrant k j s = (s.modStep j t.number fun t => { t with
        flushHalts := t.flushHalts.filter fun h => !heldFlush k h }).resendPartials k j) := by
  unfold overflowPageGrant
  rw [if_neg (by simp [hcore, hfits])]
  refine ⟨fun h hheld => by rw [hheld], fun hnone t ht => ?_⟩
  rw [hnone]
  dsimp only
  rw [ht]

/-- Settles O12: a scatter and a flush complete once nothing that they sent is left, and acknowledgements and grants let them go on. -/
theorem gradientsScatterAndFlush : Obligations.GradientsScatterAndFlush := by
  unfold Obligations.GradientsScatterAndFlush
  refine ⟨fun s k c cl h hsound hunit => ?_, fun s k id p hp hlanded => congrArg (finish s) (partialAck_leaves hp hlanded),
    fun s k j hcore hfits => ?_⟩
  · subst hunit
    dsimp only
    have hmine (v : State) : (v.ee cl.unit).partials.any (·.seq == cl.seq) = true ↔ ∃ p ∈ (v.ee cl.unit).partials, p.seq = cl.seq := by
      simp
    refine ⟨fun hop hchecks t g B ht hguard hg hB hgo v pos hrun => ?_, fun hop hfields hrnd htables => ?_⟩
    · have hbody := runGradScatter_stops (State.started_soundWords hsound ⟨.embed, cl.unit⟩ c cl) hchecks ht hguard hg hB
        (started_board_go hgo _ _) hrun
      refine ⟨fun hpos hnone => ?_, fun hleft => ?_⟩
      · have hover : (!(v.ee cl.unit).partials.any (·.seq == cl.seq)) = true := by
          rw [Bool.eq_false_iff.mpr fun hany => hnone ((hmine v).mp hany), Bool.not_false]
        exact finish_issue_done h hop (hbody.trans (if_pos ⟨hpos, hover⟩))
      · have hopen : ¬ (pos / 2 ^ 17 ≥ countOf c.word ∧ (!(v.ee cl.unit).partials.any (·.seq == cl.seq)) = true) := by
          rintro ⟨hpos, hover⟩
          rcases hleft with hlt | hsome
          · exact absurd hpos (Nat.not_le.mpr hlt)
          · rw [(hmine v).mpr hsome] at hover
            exact absurd hover (by decide)
        exact finish_issue_busy h hop (hbody.trans (if_neg hopen))
    · have hbody := runCombineFlush_sends (State.started_soundWords hsound ⟨.embed, cl.unit⟩ c cl) hfields hrnd htables rfl
      refine ⟨fun hnone => finish_issue_done h hop (hbody.trans (if_neg fun hany => hnone ?_)),
        fun hleft => finish_issue_busy h hop (hbody.trans (if_pos ?_))⟩
      · exact (Bool.or_eq_true _ _ ▸ hany).imp List.any_eq_true.mp (hmine _).mp
      · exact Bool.or_eq_true _ _ ▸ hleft.imp List.any_eq_true.mpr (hmine _).mpr
  · obtain ⟨hheld, hflush⟩ := overflowPageGrant_resumes hcore hfits
    exact ⟨fun h hh => congrArg (finish s) (hheld h hh), fun hnone t ht => congrArg (finish s) (hflush hnone t ht)⟩

end Sys2Proof.Machine
end

section
/-! SUPPORT and PROOFS. Keyed adds at the owner of their rows (R160 to R164, R167, R171, R304). -/

namespace Sys2Proof.Machine

/-! ## A keyed add that is tried -/

/-- What a try of a keyed add acts on: a partial of this module's EE, a frame that waited, or a frame that arrives now. -/
inductive KeyedTried (s : State) : KeyedSrc → KeyedSrc → State → Prop
  | ee (k id : Nat) : KeyedTried s (.ee k id) (.ee k id) s
  | waited {f : Frame} (h : (s.fab.kaWait.any fun w => w.src == .frame f) = true) : KeyedTried s (.frame f) (.frame f) s
  | arrived {f g : Frame} {v : State} (h : (s.fab.kaWait.any fun w => w.src == .frame f) = false) (ha : s.arrive 0x0B f = (some g, v)) :
      KeyedTried s (.frame f) (.frame g) v

/-- The state after what the controller meets in the add's bucket. -/
def State.keyedHit (v : State) (a : KeyedArg) (m : MemAccess) : State := ((v.keyedMet a m).map (·.2)).getD v

/-- The state after a keyed add's landing. -/
def State.keyedEnd (u : State) (src : KeyedSrc) (a : KeyedArg) : Landing → State
  | .done t nf => (t.keyedOver src a.job).keyedMade src nf
  | .quota size => (u.keyedOver src a.job).keyedRefused src 0x22 (256 * size + 2 ^ 101 * (256 + a.table))
  | .fail r d => (u.keyedOver src a.job).keyedRefused src r d
  | .epochWait => u.keyedWait src a.job false
  | .stall t => t.keyedWait src a.job true
  | .wait => (u.keyedPageWait src a.job (u.rowMoving a)).askRow a

section Tried

variable {s v : State} {tried src : KeyedSrc} {m : MemAccess} {a : KeyedArg} (h : KeyedTried s tried src v) (ha : v.keyedArg src = some a)
include h ha

/-- A try is refused at the fourth failure of its access, and ends as its landing else. -/
theorem keyedAdd_eq : keyedAdd tried m s =
    if m.retries > 3 ∧ (v.keyedMet a m).isSome then
      ((v.keyedHit a m).keyedOver src a.job).keyedRefused src 0x30 (((v.keyedMet a m).map (·.1)).getD 0)
    else (v.keyedHit a m).keyedEnd src a ((v.keyedHit a m).landKeyed a.job a.table a.row a.epoch a.sums) := by
  unfold keyedAdd
  extract_lets go
  have hgo : go src v = if m.retries > 3 ∧ (v.keyedMet a m).isSome then
      ((v.keyedHit a m).keyedOver src a.job).keyedRefused src 0x30 (((v.keyedMet a m).map (·.1)).getD 0)
    else (v.keyedHit a m).keyedEnd src a ((v.keyedHit a m).landKeyed a.job a.table a.row a.epoch a.sums) := by
    unfold go State.keyedHit
    dsimp only
    rw [ha]
    dsimp only
    cases v.keyedMet a m <;> dsimp only [Option.map_none, Option.map_some, Option.getD_none, Option.getD_some] <;>
      refine ite_congr rfl (fun _ => rfl) (fun _ => ?_) <;> cases State.landKeyed _ a.job a.table a.row a.epoch a.sums <;> rfl
  rw [← hgo]
  cases h with
  | ee k id => rfl
  | waited h => exact if_pos h
  | arrived h harrive =>
    dsimp only
    rw [if_neg (by simp [h]), harrive]

/-- A try whose access does not fail four times ends as its landing. -/
theorem exec_keyedAdd_lands (hm : m.retries ≤ 3) {u : State} (hu : u = v.keyedHit a m) {land : Landing}
    (hland : u.landKeyed a.job a.table a.row a.epoch a.sums = land) :
    exec (.keyedAdd ⟨tried, m⟩) s = .next (settle s (u.keyedEnd src a land)) := by
  subst hu hland
  exact congrArg (finish s) ((keyedAdd_eq h ha).trans (if_neg fun hbad => absurd hbad.1 (Nat.not_lt.mpr hm)))

/-- The fourth failure refuses it (R304). -/
theorem exec_keyedAdd_refused (hm : 3 < m.retries) {d : Nat} {w : State} (hmet : v.keyedMet a m = some (d, w)) :
    exec (.keyedAdd ⟨tried, m⟩) s = .next (settle s ((w.keyedOver src a.job).keyedRefused src 0x30 d)) := by
  refine congrArg (finish s) ((keyedAdd_eq h ha).trans ?_)
  unfold State.keyedHit
  rw [hmet]
  exact if_pos ⟨hm, rfl⟩

end Tried

/-! ## A keyed add that waits is recorded once (R171) -/

section Waits

variable {s : State} {src : KeyedSrc} {j : Nat} {stall : Bool}

theorem State.keyedWait_of_recorded (h : ∃ w ∈ s.fab.kaWait, w.src = src ∧ w.stall = stall ∧ w.page = false) :
    s.keyedWait src j stall = s := if_pos (by simpa [and_assoc] using h)

/-- The state in which a wait has been recorded, and counted by an entry. -/
def State.keyedRecorded (s : State) (src : KeyedSrc) (stall : Bool) (key : Nat) : State :=
  (s.modFab fun F => { F with
    kaWait := F.kaWait.filter (fun w => w.src != src) ++ [{ src := src, stall := stall, since := s.tick }] }).bump key 1

theorem State.keyedWait_of_new (h : ¬ ∃ w ∈ s.fab.kaWait, w.src = src ∧ w.stall = stall ∧ w.page = false) :
    s.keyedWait src j stall = s.keyedRecorded src stall (if stall then K.flushStalls j else K.epochWaits) := by
  unfold State.keyedWait
  rw [if_neg (by simpa [and_assoc] using h)]
  cases stall <;> rfl

end Waits

/-! ## Where a keyed add lands (R160, R164, R167, R171) -/

section Lands

variable {s : State} {j table row e : Nat} {sums : List Byte} {t : Table} {g : GradDesc}

/-- Before the COMMIT of an earlier epoch it waits (R164). -/
theorem State.landKeyed_waits (h : s.epochHolds j table e = true) : s.landKeyed j table row e sums = .epochWait := if_pos h

variable (hepoch : s.epochHolds j table e = false) (ht : s.tableOf j table = .ok t) (hg : s.gradDesc j table = .ok g)
include hepoch ht hg

/-- Where the row's state is in tier 0, or has no page, it goes to its bucket, the page pinned (R167). -/
theorem State.landKeyed_folds {v : State} (hv : (s.statePage j t row = none ∧ v = s) ∨
    (∃ h, s.statePage j t row = some h ∧ (h.allocated = false ∨ h.tier = 0) ∧ v = s.pinPage h table e)) :
    s.landKeyed j table row e sums = landed j table e (64 + gradStride t.dim) (v.keyedFold j g t.dim row e (padTo (4 * t.dim) sums)) := by
  unfold State.landKeyed
  rw [if_neg (by simp [hepoch]), ht, hg]
  dsimp only
  rcases hv with ⟨hnone, rfl⟩ | ⟨h, hpage, hhere, rfl⟩
  · rw [hnone]
  · have hnear : ¬ (h.allocated && h.tier != 0 && (s.fetchFailed h.job h.va).isSome) = true := by
      rcases hhere with h0 | h0 <;> simp [h0]
    rw [hpage]
    dsimp only
    rw [if_neg hnear, if_pos hhere]

/-- Where its page is away it asks for it, and stalls unless a pending bucket takes it (R167, R169, R171). -/
theorem State.landKeyed_stalls {h : Leaf} (hpage : s.statePage j t row = some h) (halloc : h.allocated = true) (htier : h.tier ≠ 0)
    (hfailed : s.fetchFailed h.job h.va = none) :
    let u := s.requestPage j h table e
    (u.reg (K.pendBucketBits j) = 0 ∨
        u.parkPartial j table row e (2 ^ 48 * u.ownNode + h.va) (padTo (4 * t.dim) sums) = .full) →
      s.landKeyed j table row e sums = .stall u := by
  dsimp only
  intro hfull
  unfold State.landKeyed
  rw [if_neg (by simp [hepoch]), ht, hg]
  dsimp only
  rw [hpage]
  dsimp only
  rw [if_neg (by simp [hfailed]), if_neg (by simp [halloc, htier])]
  by_cases hbits : (s.requestPage j h table e).reg (K.pendBucketBits j) = 0
  · exact if_pos hbits
  · rw [if_neg hbits, hfull.resolve_left hbits]

end Lands

/-! ## The ways of a bucket (R160, R161) -/

/-- The keyed add of R160 into a bucket that is given. -/
def State.keyedFoldAt (s : State) (j : Nat) (g : GradDesc) (d row e : Nat) (sums : List Byte) (u : Nat) : Fold :=
  match s.readVa j (g.dir + 512 * u) 512 with
  | .ok b =>
    match (List.range 32).find? fun w => wayOf b w == (row, e) with
    | none => (match (List.range 32).find? fun w => (wayOf b w).2 != e with
      | none => s.appendOverflow j g row e sums (gradStride d)
      | some w =>
        foldAcc (accBind (s.writeVa j (g.data + (32 * u + w) * gradStride d) (padTo (gradStride d) sums)) fun s =>
          accBind (s.writeVa j (g.dir + 512 * u + 16 * w) (leBytes 8 row ++ leBytes 4 e ++ zeros 4)) fun s => .ok (s, false)))
    | some w => foldAcc (s.addRun j (d / 8 + 4) (g.data + (32 * u + w) * gradStride d) sums false)
  | .fail r x => .fail r x
  | _ => .wait

/-- A keyed add goes to its row's bucket. The definition is unfolded as a function and the bucket then made a variable, since the kernel
would else evaluate the multiplication of the hash. -/
theorem State.keyedFold_eq_keyedFoldAt (s : State) (j : Nat) (g : GradDesc) (d row e : Nat) (sums : List Byte) :
    s.keyedFold j g d row e sums = s.keyedFoldAt j g d row e sums (bucketOf row g.bits') := by
  have hdef : @State.keyedFold = @State.keyedFold := rfl
  conv at hdef => rhs; delta State.keyedFold
  rw [congrFun (congrFun (congrFun (congrFun (congrFun (congrFun (congrFun hdef s) j) g) d) row) e) sums]
  generalize bucketOf row g.bits' = u
  rw [State.keyedFoldAt]
  dsimp only
  generalize s.readVa j (g.dir + 512 * u) 512 = r
  cases r with
  | ok b =>
    dsimp only
    generalize (List.range 32).find? (fun w => wayOf b w == (row, e)) = mine
    generalize (List.range 32).find? (fun w => (wayOf b w).2 != e) = free
    cases mine <;> cases free <;> rfl
  | fail r x => rfl
  | far n a l => rfl
  | wait => rfl

section Ways

variable {s : State} {j : Nat} {g : GradDesc} {d row e u : Nat} {sums b : List Byte} {w : Nat} (hu : bucketOf row g.bits' = u)
  (hb : s.readVa j (g.dir + 512 * u) 512 = .ok b)
include hu hb

/-- A bucket that holds the row and its epoch adds to that way. -/
theorem State.keyedFold_adds (hw : w < 32) (hhere : wayOf b w = (row, e)) (hfirst : ∀ v < w, wayOf b v ≠ (row, e)) :
    s.keyedFold j g d row e sums =
      foldAcc (s.addRun j (d / 8 + 4) (g.data + (32 * u + w) * gradStride d) sums false) := by
  have hfind : (List.range 32).find? (fun w => wayOf b w == (row, e)) = some w :=
    List.find?_range_eq_some.mpr ⟨by simpa using hhere, List.mem_range.mpr hw, fun v hv => by simpa using hfirst v hv⟩
  rw [State.keyedFold_eq_keyedFoldAt, hu, State.keyedFoldAt, hb]
  dsimp only
  rw [hfind]

variable (hnone : ∀ v < 32, wayOf b v ≠ (row, e))
include hnone

/-- Else it takes the first way of another epoch. -/
theorem State.keyedFold_takes (hw : w < 32) (hother : (wayOf b w).2 ≠ e) (hfirst : ∀ v < w, (wayOf b v).2 = e) {t t2 : State}
    (hsums : s.writeVa j (g.data + (32 * u + w) * gradStride d) (padTo (gradStride d) sums) = .ok t)
    (hdir : t.writeVa j (g.dir + 512 * u + 16 * w) (leBytes 8 row ++ leBytes 4 e ++ zeros 4) = .ok t2) :
    s.keyedFold j g d row e sums = .done t2 false := by
  have hmine : (List.range 32).find? (fun w => wayOf b w == (row, e)) = none :=
    List.find?_range_eq_none.mpr fun v hv => by simpa using hnone v hv
  have hfree : (List.range 32).find? (fun w => (wayOf b w).2 != e) = some w :=
    List.find?_range_eq_some.mpr ⟨by simpa using hother, List.mem_range.mpr hw, fun v hv => by simpa using hfirst v hv⟩
  rw [State.keyedFold_eq_keyedFoldAt, hu, State.keyedFoldAt, hb]
  dsimp only
  rw [hmine]
  dsimp only
  rw [hfree]
  dsimp only
  rw [hsums, accBind_ok, hdir, accBind_ok]
  rfl

/-- With no way left the overflow log takes it (R161). -/
theorem State.keyedFold_overflows (hfull : ∀ v < 32, (wayOf b v).2 = e) :
    s.keyedFold j g d row e sums = s.appendOverflow j g row e sums (gradStride d) := by
  have hmine : (List.range 32).find? (fun w => wayOf b w == (row, e)) = none :=
    List.find?_range_eq_none.mpr fun v hv => by simpa using hnone v hv
  have hfree : (List.range 32).find? (fun w => (wayOf b w).2 != e) = none :=
    List.find?_range_eq_none.mpr fun v hv => by simpa using hfull v hv
  rw [State.keyedFold_eq_keyedFoldAt, hu, State.keyedFoldAt, hb]
  dsimp only
  rw [hmine]
  dsimp only
  rw [hfree]

end Ways

/-- The three tries that the obligation speaks of. -/
theorem keyedTried_of {s v : State} {src : KeyedSrc} {m : MemAccess} {i : Instr}
    (h : (∃ k id, src = .ee k id ∧ i = .keyedAdd ⟨src, m⟩ ∧ v = s) ∨
      (∃ f, src = .frame f ∧ i = .keyedAdd ⟨src, m⟩ ∧ v = s ∧ ∃ w ∈ s.fab.kaWait, w.src = src) ∨
      (∃ f g, src = .frame g ∧ i = .keyedAdd ⟨.frame f, m⟩ ∧ (∀ w ∈ s.fab.kaWait, w.src ≠ .frame f) ∧ s.arrive 0x0B f = (some g, v))) :
    ∃ tried, i = .keyedAdd ⟨tried, m⟩ ∧ KeyedTried s tried src v := by
  obtain ⟨k, id, rfl, rfl, rfl⟩ | ⟨f, rfl, rfl, rfl, hw⟩ | ⟨f, g, rfl, rfl, hw, ha⟩ := h
  · exact ⟨_, rfl, .ee k id⟩
  · exact ⟨_, rfl, .waited (by simpa using hw)⟩
  · exact ⟨_, rfl, .arrived (by simpa using hw) ha⟩

/-- Settles O13: a try ends as its landing, a wait is recorded once, and a bucket's ways are taken in the order of R160. -/
theorem keyedAddsLandOrWait : Obligations.KeyedAddsLandOrWait := by
  unfold Obligations.KeyedAddsLandOrWait
  refine ⟨fun s v src m i a hi ha => ?_, fun s j table row e sums t g => ⟨State.landKeyed_waits, fun hepoch ht hg => ?_⟩,
    fun s j g d row e sums b w => ?_⟩
  · obtain ⟨tried, rfl, htried⟩ := keyedTried_of hi
    intro u land waits recorded
    have hu : u = v.keyedHit a m := by
      unfold u State.keyedHit
      cases v.keyedMet a m <;> rfl
    clear_value u
    refine ⟨fun hm => ⟨fun t nf hland => exec_keyedAdd_lands (land := .done t nf) htried ha hm hu hland, fun hland => ⟨fun hw => ?_, fun hw => ?_⟩,
      fun t hland => ⟨fun hw => ?_, fun hw => ?_⟩, fun size hland => exec_keyedAdd_lands (land := .quota size) htried ha hm hu hland⟩,
      fun hm d w hmet => exec_keyedAdd_refused htried ha hm hmet⟩
    · exact (exec_keyedAdd_lands htried ha hm hu hland).trans (congrArg (finish s) (State.keyedWait_of_recorded hw))
    · exact (exec_keyedAdd_lands htried ha hm hu hland).trans (congrArg (finish s) (State.keyedWait_of_new hw))
    · exact (exec_keyedAdd_lands htried ha hm hu hland).trans (congrArg (finish s) (State.keyedWait_of_recorded hw))
    · exact (exec_keyedAdd_lands htried ha hm hu hland).trans (congrArg (finish s) (State.keyedWait_of_new hw))
  · refine ⟨fun v hv => ⟨fun x nf hx => ?_, fun hfull => ?_⟩, fun h hpage halloc htier hfailed =>
      State.landKeyed_stalls hepoch ht hg hpage halloc htier hfailed⟩
    · rw [State.landKeyed_folds hepoch ht hg hv, hx]
      rfl
    · rw [State.landKeyed_folds hepoch ht hg hv, hfull]
      rfl
  · dsimp only
    intro hb hw
    exact ⟨fun ⟨hhere, hfirst⟩ => State.keyedFold_adds rfl hb hw hhere hfirst,
      fun hnone hother hfirst t t2 hsums hdir => State.keyedFold_takes rfl hb hnone hw hother hfirst hsums hdir,
      fun hall => State.keyedFold_overflows rfl hb (fun v hv => (hall v hv).1) fun v hv => (hall v hv).2⟩

end Sys2Proof.Machine
end

section
/-! SUPPORT and PROOFS. LOOKUP_POOL, its arrivals and the sketch (R119, R122 to R126, R131 to R140). -/

namespace Sys2Proof.Machine

/-! ## LOOKUP_POOL (R131 to R136) -/

/-- A LOOKUP_POOL whose checks pass accepts positions until it stops; every bag written, it is done. -/
theorem runLookupPool_stops {u : State} {c : QCmd} {cl : Clause} (hsound : u.svc.badWords = [])
    (hchecks : ∀ x ∈ u.embChecks cl c.word, x.1 = false) (hshared : u.sharedWritable cl.job = .ok none) {t : Table} {B : Batch}
    (ht : u.tableOf cl.job (embTable c.word) = .ok t) (hB : u.batchOf cl.job c.word t = .ok B)
    (hgo : u.board cl cl.declUnit [opnd (embRegion c.word) (4 * t.dim * countOf c.word) true] = .go) {v : State} {pos : Nat}
    (hrun : (u.modEe cl.unit Ee.drop).acceptRun cl.unit c cl t B lookupFuel (if c.again then 2 ^ 17 * c.prog else 0) = .stop v pos) :
    let put (v : State) : State := v.overwrite ⟨cl.cls, cl.unit⟩ cl.declUnit
      (boardWords (u.ctx cl.declUnit) true [opnd (embRegion c.word) (4 * t.dim * countOf c.word) true])
    runLookupPool u c cl none = if pos / 2 ^ 17 ≥ countOf c.word ∧ (v.ee cl.unit).trackers = []
      then .done (put (v.modEe cl.unit fun e => { e with fetches := [] }))
      else .busy (put v) { progress := v.lookupProgress cl.unit (countOf c.word) pos, pos := pos, waits := [] } := by
  unfold runLookupPool
  dsimp only
  rw [decoded_of_all_pass _ _ hchecks, ht, onAcc_ok, hshared, onAcc_ok]
  dsimp only
  rw [hB, onAcc_ok, boarded_run hgo hsound]
  dsimp only
  rw [hrun]
  dsimp only
  split <;> rfl

/-! ## Arrivals (R119, R126, R140) -/

/-- Bytes that arrive for a fetch of a look-up are met, read, and taken by its stage. -/
theorem rowFetchArrival_taken {s : State} {k id : Nat} {a : MemAccess} {c : QCmd} {cl : Clause} {x : InFlight} {f : Fetch} {b : List Byte}
    (hrun : s.embedding k = some (c, cl, x)) (hop : isOp 0x50 c.word = true) (hf : (s.ee k).fetches.find? (·.id == id) = some f)
    (hreqs : ∀ r ∈ s.fab.reqs, ¬ (r.owner = ⟨.embed, k⟩ ∧ r.xid = id)) (hheld : s.heldAt cl.job f.addr = false) (ha : a.retries ≤ 3)
    (hstage : f.stage ≠ .remote) :
    let n := if f.stage = .map then 8 else rowStride (f.table.fmt f.level) f.table.dim
    let r := s.accessAt cl.job f.addr n a
    let u := r.didRead cl.job f.addr n
    r.embRead cl.job f.addr n = .ok b → rowFetchArrival k id a s =
      if f.stage = .map then u.mapArrival k c cl f (leNat b) else u.poolArrival k c cl f f.level f.gen b := by
  dsimp only
  intro hb
  have hop : cb c.word 0 1 = 0x50 := by simpa [isOp] using hop
  have hfree : ¬ (f.stage = .remote ∨ (s.fab.reqs.any fun r => r.owner == ⟨.embed, k⟩ && r.xid == id) = true ∨
      s.heldAt cl.job f.addr = true) := by
    simpa [hstage, hheld] using hreqs
  rw [rowFetchArrival, hrun]
  dsimp only
  rw [if_neg (not_not_intro hop), hf]
  dsimp only
  rw [if_neg hfree, if_neg (Nat.not_lt.mpr ha), hb]

/-! ## The sketch (R122 to R124) -/

/-- One more count of a place, saturating. -/
def countPlace (m : List (Nat × Nat)) (p : Nat) : List (Nat × Nat) := cellPut 0 p (min 65535 (cellGet 0 p m + 1)) m

/-- Counting places that differ adds 1 to each. -/
theorem cellGet_countPlaces (p : Nat) (l : List Nat) (hl : l.Nodup) (m : List (Nat × Nat)) :
    cellGet 0 p (l.foldl countPlace m) = if p ∈ l then min 65535 (cellGet 0 p m + 1) else cellGet 0 p m := by
  induction l generalizing m with
  | nil => rfl
  | cons x l ih =>
    obtain ⟨hx, hl⟩ := List.nodup_cons.mp hl
    rw [List.foldl_cons, ih hl]
    by_cases hp : p = x
    · subst hp
      rw [if_neg hx, if_pos List.mem_cons_self, countPlace, cellGet_put_self]
    · rw [countPlace, cellGet_put_ne _ _ _ _ _ _ (Ne.symm hp)]
      simp [hp]

/-- Counting keeps the list's order. -/
theorem countPlaces_sorted (l : List Nat) {m : List (Nat × Nat)} (h : m.Pairwise (·.1 < ·.1)) :
    (l.foldl countPlace m).Pairwise (·.1 < ·.1) := by
  induction l generalizing m with
  | nil => exact h
  | cons x l ih => exact ih (cellPut_sorted 0 x _ h).1

/-- The least of counts that have each grown by 1, saturating, has grown by 1. -/
theorem foldl_min_count (f : Nat → Nat) (l : List Nat) (a : Nat) :
    (l.map fun p => min 65535 (f p + 1)).foldl min (min 65535 (a + 1)) = min 65535 ((l.map f).foldl min a + 1) := by
  induction l generalizing a with
  | nil => rfl
  | cons p l ih =>
    have hmin : min (min 65535 (a + 1)) (min 65535 (f p + 1)) = min 65535 (min a (f p) + 1) := by omega
    rw [List.map_cons, List.map_cons, List.foldl_cons, List.foldl_cons, hmin, ih]

/-- The four places of a key are in four rows of the sketch. -/
theorem sketchPlaces_nodup (key row : Nat) : (sketchPlaces key row).Nodup := by
  refine List.pairwise_map.mpr (List.nodup_range.imp fun {a b} hne h => hne ?_)
  have ha := Nat.mod_lt (Config.sketchHash a key row) (by decide : 0 < 16384)
  have hb := Nat.mod_lt (Config.sketchHash b key row) (by decide : 0 < 16384)
  omega

/-- A key's count is a count of each of its places. -/
theorem Ee.countKey_sketch (e : Ee) (key row : Nat) : (e.countKey key row).sketch = (sketchPlaces key row).foldl countPlace e.sketch := by
  have hplace : countPlace = fun m p => cellPut 0 p (min 65535 (cellGet 0 p m + 1)) m := rfl
  rw [hplace, Ee.countKey]

/-- A count adds 1, saturating, to the least of its key's counters (R122, R124). -/
theorem Ee.countKey_estimate (e : Ee) (key row : Nat) :
    (e.countKey key row).estimate key row = min 65535 (e.estimate key row + 1) := by
  have hgrown : ((sketchPlaces key row).map fun p => cellGet 0 p (e.countKey key row).sketch) =
      (sketchPlaces key row).map fun p => min 65535 (cellGet 0 p e.sketch + 1) := by
    refine List.map_congr_left fun p hp => ?_
    rw [e.countKey_sketch, cellGet_countPlaces p _ (sketchPlaces_nodup key row), if_pos hp]
  have hmin := foldl_min_count (fun p => cellGet 0 p e.sketch) (sketchPlaces key row) 65535
  rw [show min 65535 (65535 + 1) = 65535 from rfl] at hmin
  rw [Ee.estimate, hgrown, hmin, Ee.estimate]

/-- A sketch's counters halved, rounding down; those that reach 0 are not listed. -/
def halved (m : List (Nat × Nat)) : List (Nat × Nat) := (m.map fun c => (c.1, c.2 / 2)).filter fun c => c.2 != 0

theorem halved_sorted {m : List (Nat × Nat)} (h : m.Pairwise (·.1 < ·.1)) : (halved m).Pairwise (·.1 < ·.1) :=
  (List.Pairwise.map (fun c : Nat × Nat => (c.1, c.2 / 2)) (fun _ _ hlt => hlt) h).filter _

/-- Every counter is halved (R123). -/
theorem cellGet_halved (p : Nat) {m : List (Nat × Nat)} (h : m.Pairwise (·.1 < ·.1)) : cellGet 0 p (halved m) = cellGet 0 p m / 2 := by
  induction m with
  | nil => simp [halved, cellGet]
  | cons c m ih =>
    obtain ⟨hc, hm⟩ := List.pairwise_cons.mp h
    have hhead : halved (c :: m) = if c.2 / 2 = 0 then halved m else (c.1, c.2 / 2) :: halved m := by
      unfold halved
      rw [List.map_cons, List.filter_cons]
      by_cases h0 : c.2 / 2 = 0 <;> simp [h0]
    have hlater : c.1 = p → cellGet 0 p (halved m) = 0 := by
      rintro rfl
      refine cellGet_absent _ _ _ fun x hx => ?_
      obtain ⟨y, hy, rfl⟩ := List.mem_map.mp (List.mem_filter.mp hx).1
      exact Nat.ne_of_gt (hc y hy)
    rw [hhead, cellGet]
    by_cases hp : c.1 = p <;> by_cases h0 : c.2 / 2 = 0
    · rw [if_pos h0, if_pos hp, hlater hp, h0]
    · rw [if_neg h0, if_pos hp, cellGet, if_pos hp]
    · rw [if_pos h0, if_neg hp, ih hm]
    · rw [if_neg h0, if_neg hp, cellGet, if_neg hp, ih hm]

/-- A queue's change leaves what an EE counts. -/
theorem State.modQueue_ee_counts (s : State) (q : QueueId) (f : Queue → Queue) (k : Nat) :
    (((s.modQueue q f).ee k).accepted, ((s.modQueue q f).ee k).sketch) = ((s.ee k).accepted, (s.ee k).sketch) := by
  unfold State.modQueue
  split <;> try rfl
  simp only [State.ee, List.getElem?_modify]
  cases s.ees[k]? with
  | none => rfl
  | some e => by_cases h : q.unit = k <;> simp [h]

/-- What an EE counts is as the command left it. -/
theorem settle_ee_counts (s t : State) (k : Nat) :
    (((settle s t).ee k).accepted, ((settle s t).ee k).sketch) = ((t.ee k).accepted, (t.ee k).sketch) :=
  settle_keeps (fun u : State => ((u.ee k).accepted, (u.ee k).sketch)) (fun u q _ => State.modQueue_ee_counts u q _ k) (fun _ _ _ => rfl)
    (fun _ _ _ _ => rfl) (fun _ _ => rfl) s t

/-- A change of a present EE is seen in it. -/
theorem State.ee_modEe {s : State} {k : Nat} (hk : k < s.ees.length) (f : Ee → Ee) : (s.modEe k f).ee k = f (s.ee k) := by
  simp [State.ee, State.modEe, List.getElem?_eq_getElem hk]

/-- Once so many indices have been accepted as the decay entry says, the sketch is halved. -/
theorem sketchHalving_halves {s : State} {k : Nat} (hpresent : s.eePresent k = true) (hk : k < s.ees.length)
    (hn : s.reg (K.eeSketchDecay k) ≤ (s.ee k).accepted) :
    ((sketchHalving k s).ee k).accepted = (s.ee k).accepted - s.reg (K.eeSketchDecay k) ∧
      ((sketchHalving k s).ee k).sketch = halved (s.ee k).sketch := by
  have hdo : sketchHalving k s = s.modEe k fun e => { e with
      accepted := e.accepted - s.reg (K.eeSketchDecay k), sketch := halved e.sketch } := if_pos ⟨hpresent, hn⟩
  rw [hdo, State.ee_modEe hk]
  exact ⟨rfl, rfl⟩

/-- Settles O11: a look-up runs until it stops, an arrival is taken by its stage, and the sketch counts and halves its places. -/
theorem lookupsPoolTheirRows : Obligations.LookupsPoolTheirRows := by
  unfold Obligations.LookupsPoolTheirRows
  refine ⟨fun s k c cl h hsound hunit hop hchecks hshared t B ht hB => ?_, fun s k id a c cl x f b hrun hop hf hreqs hheld ha => ?_,
    fun e key row => ⟨e.countKey_estimate key row, fun hsorted => ?_⟩, fun s k hpresent hk hn hsorted => ?_⟩
  · subst hunit
    dsimp only
    intro hgo v pos hrun
    have hbody := runLookupPool_stops (State.started_soundWords hsound ⟨.embed, cl.unit⟩ c cl) hchecks hshared ht hB
      (started_board_go hgo _ _) hrun
    rw [State.started_ctx] at hbody
    refine ⟨fun hpos hnone => finish_issue_done h hop (hbody.trans (if_pos ⟨hpos, hnone⟩)), fun hleft => ?_⟩
    exact finish_issue_busy h hop (hbody.trans (if_neg fun hall =>
      hleft.elim (fun hlt => absurd hall.1 (Nat.not_le.mpr hlt)) fun hsome => hsome hall.2))
  · dsimp only
    intro hb
    refine ⟨fun hrow => congrArg (finish s) ?_, fun hmap => congrArg (finish s) ?_⟩
    · exact (rowFetchArrival_taken hrun hop hf hreqs hheld ha (by simp [hrow]) hb).trans (if_neg (by simp [hrow]))
    · exact (rowFetchArrival_taken hrun hop hf hreqs hheld ha (by simp [hmap]) hb).trans (if_pos hmap)
  · rw [e.countKey_sketch]
    exact countPlaces_sorted _ hsorted
  · obtain ⟨haccepted, hsketch⟩ := sketchHalving_halves hpresent hk hn
    obtain ⟨hsame, hkept⟩ := Prod.mk.inj (settle_ee_counts s (sketchHalving k s) k)
    refine ⟨_, rfl, hsame.trans haccepted, ?_, fun p => ?_⟩
    · rw [hkept, hsketch]
      exact halved_sorted hsorted
    · rw [hkept, hsketch]
      exact cellGet_halved p hsorted

end Sys2Proof.Machine
end

section
/-! SUPPORT and PROOFS. STAT_LOAD, PASS and the end of a spill (R185 to R199). -/

namespace Sys2Proof.Machine

/-! ## What array work leaves of the service state -/

theorem State.count_svc (s : State) (u e n : Nat) (j : Option Nat) : (s.count u e n j).svc = s.svc :=
  State.count_keeps (·.svc) (fun _ _ _ => rfl) s u e n j

theorem State.raise_svc (s : State) (seq : Nat) (ovf nf : Bool) : (s.raise seq ovf nf).svc = s.svc := rfl

/-- A PASS's work leaves the service state, and so the words listed as bad. -/
theorem passWork_svc (s : State) (c : QCmd) (cl : Clause) (done : Nat) : (passWork s c cl done).svc = s.svc := by
  unfold passWork
  dsimp only
  split <;> split <;> simp only [State.count_svc, State.bump_svc, State.raise_svc, State.modCtx_svc]

/-! ## The commands -/

section Array

variable {s : State} {c : QCmd} {cl : Clause} (hsound : s.svc.badWords = [])
include hsound

/-- A body behind the scoreboard that goes on, where no word holds an error. -/
theorem boarded_busy {n : Nat} {l : List Opnd} (more : List Words) (check : HwFault → Option HwFault) {k : Option HwFault → Run}
    (h : s.board cl n l = .go) {t : State} {f : InFlight} (hk : k none = .busy t f) (ht : t.svc.badWords = []) :
    boarded s cl n l more check none k = .busy t f := by
  rw [boarded_run h hsound, hk, Run.after, State.overwrite_clean _ _ _ _ ht]

/-- STAT_LOAD fills the staging plane (R188). -/
theorem runStatLoad_done (hchecks : ∀ x ∈ statChecks c.word, x.1 = false) (hgo : s.board cl cl.unit (statOpnds c.word) = .go) :
    runStatLoad s c cl none = .done (s.modCtx cl.unit fun x => { x with staging := statStaged x c.word (countOf c.word) }) := by
  unfold runStatLoad
  rw [decoded_of_all_pass _ _ hchecks]
  exact boarded_sound _ _ _ _ _ _ _ hgo hsound rfl hsound

/-- What a PASS that may stream has passed: its checks, the scoreboard, and the limit of its product. -/
structure PassReady (s : State) (c : QCmd) (cl : Clause) : Prop where
  checks : ∀ x ∈ passChecks (s.ctx cl.unit) c.word, x.1 = false
  go : s.board cl cl.unit (passOpnds (s.ctx cl.unit) c.word) = .go
  room : passFull (s.ctx cl.unit) c.word = false

/-- A PASS that does not spill completes, and the tiles that it retired are free (R190). -/
theorem PassReady.done (h : PassReady s c cl) (hspills : passSpills (s.ctx cl.unit) c.word = false) : runPass s c cl none =
    .done (((passWork s c cl (countOf c.word)).freeRetired cl.unit).bump (K.aryPasses cl.unit) 1) := by
  obtain ⟨hchecks, hgo, hroom⟩ := h
  have hclean : (((passWork s c cl (countOf c.word)).freeRetired cl.unit).bump (K.aryPasses cl.unit) 1).svc.badWords = [] := by
    rw [State.bump_svc, State.freeRetired, State.modCtx_svc, passWork_svc, hsound]
  unfold runPass
  dsimp only
  rw [decoded_of_all_pass _ _ hchecks]
  refine boarded_sound _ _ _ _ _ _ _ hgo hsound ?_ hclean
  dsimp only
  rw [if_neg (by simp [hroom]), if_neg (by simp [hspills]), Run.after, State.overwrite_clean _ _ _ _ hclean]

/-- One that spills stays in execution until the addition to its spill tile is done (R198, R199). -/
theorem PassReady.busy (h : PassReady s c cl) (hspills : passSpills (s.ctx cl.unit) c.word = true) : runPass s c cl none =
    .busy (passWork s c cl (countOf c.word)) { progress := countOf c.word, pos := 0, waits := [] } := by
  obtain ⟨hchecks, hgo, hroom⟩ := h
  have hclean : (passWork s c cl (countOf c.word)).svc.badWords = [] := by rw [passWork_svc, hsound]
  unfold runPass
  dsimp only
  rw [decoded_of_all_pass _ _ hchecks]
  refine boarded_busy hsound _ _ hgo ?_ hclean
  dsimp only
  rw [if_neg (by simp [hroom]), if_pos hspills, Run.after, State.overwrite_clean _ _ _ _ hclean]

/-- The end of a spill adds the bank into its tile, and the PASS completes (R198, R199). -/
theorem spillAddDone_completes {n : Nat} {Q : Queue} {rest : List QCmd} {f : InFlight} {b t : Nat} {first : Bool}
    (hQ : s.queue ⟨.array, n⟩ = some Q) (hcmds : Q.cmds = c :: rest) (hinfl : Q.infl = some f) (hcl : s.clause c.seq = some cl)
    (hspill : (s.ctx n).spilling = some (b, t, first)) :
    let r := spillAdd ((s.ctx n).bank b) first (satOf c.word) 16384 ((s.ctx n).tile t)
    spillAddDone n none s = (((s.modCtx n fun x => { x with
      spill := x.spill.modify t fun _ => r.1, spilling := none, retired := [] }).raise c.seq r.2.1 r.2.2).bump (K.aryPasses n) 1).completeCmd
        ⟨.array, n⟩ none := by
  unfold spillAddDone
  dsimp only
  rw [hQ]
  dsimp only
  rw [hcmds, hinfl, hspill]
  dsimp only
  rw [hcl]
  dsimp only
  rw [faultOf_none, State.unitFault_none _ _ _ _ _ hsound]
  dsimp only
  rw [State.overwrite_clean _ _ _ _ (by exact hsound)]
  cases first <;> rfl

end Array

/-- Settles O3: each body passes its checks and the scoreboard, and ends with its work. -/
theorem stationaryLoadAndPassComplete : Obligations.StationaryLoadAndPassComplete := by
  unfold Obligations.StationaryLoadAndPassComplete
  refine ⟨fun s q c cl h hsound n hq => ⟨fun hop hchecks hgo => ?_, fun hop hchecks hgo hroom => ?_⟩,
    fun s n Q c rest f cl b t first hQ hcmds hinfl hcl hsound hspill =>
      congrArg (finish s) (spillAddDone_completes hsound hQ hcmds hinfl hcl hspill)⟩
  · subst hq
    exact finish_issue_done (body := runStatLoad) h hop
      (runStatLoad_done (State.started_soundWords hsound _ c cl) hchecks (started_board_go hgo _ _))
  · subst hq
    have hclean := State.started_soundWords hsound ⟨.array, n⟩ c cl
    have hready : PassReady (s.started ⟨.array, n⟩ c cl) c cl :=
      ⟨by rwa [State.started_ctx], by rw [State.started_ctx]; exact started_board_go hgo _ _, by rwa [State.started_ctx]⟩
    refine ⟨fun hspills => ?_, fun hspills => ?_⟩
    · exact finish_issue_done (body := runPass) h hop (hready.done hclean (by rwa [State.started_ctx]))
    · exact finish_issue_busy (body := runPass) h hop (hready.busy hclean (by rwa [State.started_ctx]))

end Sys2Proof.Machine
end

section
/-! SUPPORT and PROOFS. READOUT, the tables, ELEMWISE and the accumulators' own commands (R53, R59, R80, R197, R200, R205, R210). -/

namespace Sys2Proof.Machine

section Results

variable {s : State} {c : QCmd} {cl : Clause} (hsound : s.svc.badWords = [])
include hsound

/-- READOUT writes its rows and closes the product (R200). -/
theorem runReadout_done (hchecks : ∀ y ∈ readoutChecks (s.ctx cl.unit) c.word, y.1 = false)
    (hgo : s.board cl cl.unit (readoutOpnds (s.ctx cl.unit) c.word) = .go) :
    runReadout s c cl none = .done (readoutWork s c cl (countOf c.word)) := by
  unfold runReadout
  dsimp only
  rw [decoded_of_all_pass _ _ hchecks]
  exact boarded_sound _ _ _ _ _ _ _ hgo hsound rfl hsound

/-- The entries that a table's load reads. -/
def tableEntries (x : PhraseCtx) (w : Nat) : List Nat := (List.range (countOf w)).map fun i => x.entryAt (cb w 4 4) i

omit hsound in
/-- A run of elements that all satisfy a test is the whole list. -/
theorem takeWhile_of_all {α : Type} {p : α → Bool} {l : List α} (h : ∀ x ∈ l, p x = true) : l.takeWhile p = l := by
  simpa using List.takeWhile_append_of_pos (l₂ := []) h

/-- SCALE_LOAD sets its scale entries, where each may be written (R53, R80). -/
theorem runScaleLoad_done (hhead : headOk c.word (headFields ++ [(32, 32), (176, 12)]) 4096)
    (hfits : bits c.word 176 12 + countOf c.word ≤ 4096)
    (hgo : s.board cl cl.unit [opnd (cb c.word 4 4) (8 * countOf c.word) false] = .go)
    (hok : ∀ e ∈ tableEntries (s.ctx cl.unit) c.word, scaleOk e = true) :
    runTable true s c cl none = .done (s.modCtx cl.unit fun y => { y with
      scale := putTable 0 y.scale (bits c.word 176 12) (tableEntries (s.ctx cl.unit) c.word) }) := by
  obtain ⟨hfields, hrnd, hpos, hle⟩ := hhead
  have hall : ((tableEntries (s.ctx cl.unit) c.word).takeWhile scaleOk).length = countOf c.word := by
    rw [takeWhile_of_all hok, tableEntries, List.length_map, List.length_range]
  have htake : (tableEntries (s.ctx cl.unit) c.word).take (countOf c.word) = tableEntries (s.ctx cl.unit) c.word :=
    List.take_of_length_le (Nat.le_of_eq (by rw [tableEntries, List.length_map, List.length_range]))
  unfold tableEntries at *
  unfold runTable
  dsimp only
  rw [decoded_of_all_pass _ _ (by simp [hfields, hrnd, Nat.ne_of_gt hpos, Nat.not_lt.mpr hle, Nat.not_lt.mpr hfits])]
  refine boarded_sound _ _ _ _ _ _ _ hgo hsound ?_ hsound
  dsimp only
  simp only [if_true, hall, htake]
  rw [if_neg (Nat.lt_irrefl _), State.overwrite_clean _ _ _ _ (by exact hsound)]

/-- RESCALE_LOAD sets its rescale entries (R59). -/
theorem runRescaleLoad_done (hhead : headOk c.word (headFields ++ [(32, 32), (192, 12)]) 4096)
    (hfits : bits c.word 192 12 + countOf c.word ≤ 4096)
    (hgo : s.board cl cl.unit [opnd (cb c.word 4 4) (8 * countOf c.word) false] = .go) :
    runTable false s c cl none = .done (s.modCtx cl.unit fun y => { y with
      rescale := putTable 0x3F800000 y.rescale (bits c.word 192 12) (tableEntries (s.ctx cl.unit) c.word) }) := by
  obtain ⟨hfields, hrnd, hpos, hle⟩ := hhead
  have htake : (tableEntries (s.ctx cl.unit) c.word).take (countOf c.word) = tableEntries (s.ctx cl.unit) c.word :=
    List.take_of_length_le (Nat.le_of_eq (by rw [tableEntries, List.length_map, List.length_range]))
  unfold tableEntries at *
  unfold runTable
  dsimp only
  rw [decoded_of_all_pass _ _ (by simp [hfields, hrnd, Nat.ne_of_gt hpos, Nat.not_lt.mpr hle, Nat.not_lt.mpr hfits])]
  refine boarded_sound _ _ _ _ _ _ _ hgo hsound ?_ hsound
  dsimp only
  simp only [Bool.false_eq_true, if_false, htake]
  rw [if_neg (Nat.lt_irrefl _), State.overwrite_clean _ _ _ _ (by exact hsound)]

/-- ELEMWISE writes the elements' sums or products (R205). -/
theorem runElemwise_done (hop : cb c.word 21 1 ≤ 1)
    (hhead : headOk c.word (headFields ++ [(32, 32), (64, 32), (96, 32), (128, 8), (136, 4), (168, 8)]) 16384)
    (hfa : isMult (bits c.word 128 4) = true) (hfb : isMult (bits c.word 132 4) = true) (hfo : isFloat (bits c.word 136 4) = true)
    (hgo : s.board cl cl.unit [elemOpnd (cb c.word 4 4) (packedBytes (bits c.word 128 4) (countOf c.word)) false,
      elemOpnd (cb c.word 8 4) (packedBytes (bits c.word 136 4) (countOf c.word)) true,
      elemOpnd (cb c.word 12 4) (packedBytes (bits c.word 132 4) (countOf c.word)) false] = .go) :
    let w := c.word
    let a := ((s.ctx cl.unit).readElems (cb w 4 4) (bits w 128 4) (countOf w)).map (decodeNum (bits w 128 4))
    let b := ((s.ctx cl.unit).readElems (cb w 12 4) (bits w 132 4) (countOf w)).map (decodeNum (bits w 132 4))
    let r := elemwiseCodes (cb w 21 1 == 1) (bits w 136 4) (a.zip b) (s.cvOf cl.unit .array w)
    runElemwise s c cl none = .done (((s.putLocal cl.unit (cb w 8 4) (bits w 136 4) r.1).saveCv cl.unit c.seq r.2).bump
      (K.aryElemwiseElements cl.unit) (countOf w)) := by
  obtain ⟨hfields, hrnd, hpos, hle⟩ := hhead
  unfold runElemwise
  dsimp only
  rw [decoded_of_all_pass _ _ (by simp [hop, hfields, hrnd, hfa, hfb, hfo, Nat.ne_of_gt hpos, Nat.not_lt.mpr hle])]
  exact boarded_sound _ _ _ _ _ _ _ hgo hsound rfl hsound

/-- ACC_READ writes the rows of the open product's bank (R210). -/
theorem runAccRead_done (hfields : reservedSet c.word [(0, 8), (16, 16), (64, 32)] = false) (hpos : 0 < countOf c.word)
    (hle : countOf c.word ≤ 128) (hgo : s.board cl cl.unit [opnd (cb c.word 8 4) (512 * countOf c.word) true] = .go) {p : Product}
    (hp : (s.ctx cl.unit).product = some p) :
    runAccRead s c cl none = .done (s.modCtx cl.unit fun y => y.writeLocal (opRes (cb c.word 8 4)) (opOff (cb c.word 8 4))
      ((List.range (128 * countOf c.word)).flatMap fun i => leBytes 4 (bufGet ((s.ctx cl.unit).bank p.bank) i 32))) := by
  unfold runAccRead
  dsimp only
  rw [decoded_of_all_pass _ _ (by simp [hfields, Nat.ne_of_gt hpos, Nat.not_lt.mpr hle])]
  refine boarded_sound _ _ _ _ _ _ _ hgo hsound ?_ hsound
  dsimp only
  rw [hp]

/-- ACC_WRITE loads the rows, opening a product where none is open (R210). -/
theorem runAccWrite_done (hfields : reservedSet c.word [(0, 8), (16, 16), (32, 32)] = false) (hpos : 0 < countOf c.word)
    (hle : countOf c.word ≤ 128) (hgo : s.board cl cl.unit [opnd (cb c.word 4 4) (512 * countOf c.word) false] = .go) :
    runAccWrite s c cl none = .done (s.putAcc cl.unit (cb c.word 4 4) (countOf c.word)) := by
  unfold runAccWrite
  dsimp only
  rw [decoded_of_all_pass _ _ (by simp [hfields, Nat.ne_of_gt hpos, Nat.not_lt.mpr hle])]
  refine boarded_sound _ _ _ _ _ _ _ hgo hsound ?_ hsound
  dsimp only
  rw [State.overwrite_clean _ _ _ _ (by exact hsound)]

end Results

/-- Settles O4: each body passes its checks and the scoreboard, and ends with its results. -/
theorem arrayResultsComplete : Obligations.ArrayResultsComplete := by
  unfold Obligations.ArrayResultsComplete
  refine ⟨fun s q c cl h hsound n hq => ?_, fun s q c cl h hsound n hq => ?_⟩
  · subst hq
    have hclean := State.started_soundWords hsound ⟨.array, n⟩ c cl
    have hctx : (s.started ⟨.array, n⟩ c cl).ctx cl.unit = s.ctx cl.unit := State.started_ctx _ _ _ _ _
    dsimp only
    rw [← hctx]
    refine ⟨fun hop hchecks hgo => ?_, fun hop hhead hfits hgo hok => ?_, fun hop hhead hfits hgo => ?_,
      fun hop hkind hhead hfa hfb hfo hgo => ?_⟩
    · exact finish_issue_done (body := runReadout) h hop (runReadout_done hclean hchecks (started_board_go hgo _ _))
    · exact finish_issue_done (body := runTable true) h hop (runScaleLoad_done hclean hhead hfits (started_board_go hgo _ _) hok)
    · exact finish_issue_done (body := runTable false) h hop (runRescaleLoad_done hclean hhead hfits (started_board_go hgo _ _))
    · exact finish_issue_done (body := runElemwise) h hop
        (runElemwise_done hclean hkind hhead hfa hfb hfo (started_board_go hgo _ _))
  · subst hq
    have hclean := State.started_soundWords hsound ⟨.array, n⟩ c cl
    have hctx : (s.started ⟨.array, n⟩ c cl).ctx cl.unit = s.ctx cl.unit := State.started_ctx _ _ _ _ _
    dsimp only
    rw [← hctx]
    refine ⟨fun hop hfields hrnd => ?_, fun hop hfields hpos hle hgo p hp => ?_, fun hop hfields hpos hle hgo => ?_⟩
    · exact finish_issue_done (body := runAccClear) h hop (decoded_of_all_pass _ _ (by simp [hfields, hrnd]))
    · exact finish_issue_done (body := runAccRead) h hop (runAccRead_done hclean hfields hpos hle (started_board_go hgo _ _) hp)
    · exact finish_issue_done (body := runAccWrite) h hop (runAccWrite_done hclean hfields hpos hle (started_board_go hgo _ _))

end Sys2Proof.Machine
end

section
/-! SUPPORT and PROOFS. Mismatches of the array's check and words that cannot be corrected (R203, R204, R209). -/

namespace Sys2Proof.Machine

/-! ## Which fault strikes a command (R204) -/

/-- A check's mismatch of the array is reported by its units. -/
theorem faultOf_array {h : HwFault} (hr : h.reason = 0x31) : faultOf .array (some h) = some h := by
  simp [faultOf, Option.filter, hr]

/-- Where no word holds an error, a check's mismatch strikes as its check says. -/
theorem State.unitFault_check {s : State} (q : QueueId) (n : Nat) (words : List Words) (check : HwFault → Option HwFault) {h : HwFault}
    (hsound : s.svc.badWords = []) (hr : h.reason = 0x31) : s.unitFault q n words check (some h) = check h := by
  unfold State.unitFault
  rw [hsound, List.find?_nil]
  dsimp only
  rw [Option.bind_some, if_neg (by rw [hr]; decide)]

/-- A word that a command reads, and that holds an error, strikes it with its structure and byte offset. -/
theorem State.unitFault_badWord {s : State} {q : QueueId} {n : Nat} {words : List Words} (check : HwFault → Option HwFault)
    (flt : Option HwFault) (hbad : ∃ m ∈ s.svc.badWords, hitWords q n words m = true) :
    ∃ m ∈ s.svc.badWords, hitWords q n words m = true ∧ s.unitFault q n words check flt =
      some { reason := 0x30, detail := m.2.2.1 + 256 * m.2.2.2, progress := 0 } := by
  obtain ⟨m, hm⟩ := Option.isSome_iff_exists.mp (List.find?_isSome.mpr hbad)
  refine ⟨m, List.mem_of_find?_eq_some hm, List.find?_some hm, ?_⟩
  unfold State.unitFault
  rw [hm]

/-- The words listed as bad alone say which fault strikes. -/
theorem State.unitFault_congr {s t : State} (h : t.svc = s.svc) (q : QueueId) (n : Nat) (words : List Words)
    (check : HwFault → Option HwFault) (flt : Option HwFault) : t.unitFault q n words check flt = s.unitFault q n words check flt := by
  unfold State.unitFault
  rw [h]

/-- A column's mismatch is seen at its column. -/
theorem columnCheck_column {h : HwFault} (pass : Nat) (hcol : h.detail % 2 ^ 16 < 128) :
    columnCheck pass h = some (checkFault h (h.detail % 2 ^ 16) pass) := if_pos hcol

/-- The passes of the product that a PASS goes on in. -/
def passNumber (x : PhraseCtx) (w : Nat) : Nat := match passInto x w with | some p => p.passes | none => 0

/-- A PASS's check sees a column's mismatch, and a row's whose finite sum is beyond its threshold (R203). -/
theorem passCheck_sees {s : State} {n w : Nat} {h : HwFault} {column : Nat}
    (hcol : let sums := passSums s n w (min h.progress (countOf w - 1))
      (column < 128 ∧ h.detail % 2 ^ 16 = column) ∨ (column = 128 ∧ h.detail % 2 ^ 16 = 128 ∧ sums.1.isFin = true ∧
        checkRow (decodeNum fmF32 (bits h.detail 16 32)) sums.2.1 sums.2.2 = true)) :
    passCheck s n w h = some (checkFault h column (passNumber (s.ctx n) w)) := by
  unfold passCheck
  rcases hcol with ⟨hlt, rfl⟩ | ⟨rfl, hrow, hfin, hsum⟩
  · exact (if_neg (by omega)).trans (columnCheck_column _ hlt)
  · exact (if_pos hrow).trans (if_pos (by rw [hfin, hsum]; rfl))

/-! ## The commands that they halt (R203, R209) -/

section Halts

variable {s : State} {c : QCmd} {cl : Clause}

/-- A body behind the scoreboard, with the fault that strikes it. -/
theorem boarded_struck {n : Nat} {l : List Opnd} {more : List Words} {check : HwFault → Option HwFault} {flt : Option HwFault} {h : HwFault}
    {k : Option HwFault → Run} (hgo : s.board cl n l = .go)
    (hflt : s.unitFault ⟨cl.cls, cl.unit⟩ n (boardWords (s.ctx n) false l ++ more) check flt = some h)
    {t : State} {r d p pos : Nat} {b : Bool} (hk : k (some h) = .halt t r d p pos b) :
    boarded s cl n l more check flt k = .halt t r d p pos b := by
  rw [boarded_go _ _ _ _ _ _ _ _ hgo, hflt, hk]
  rfl

/-- A PASS that its check stops has done the rows before. -/
theorem PassReady.stopped (h : PassReady s c cl) (hsound : s.svc.badWords = []) {f : HwFault} (hr : f.reason = 0x31) {column : Nat}
    (hcol : let sums := passSums s cl.unit c.word (min f.progress (countOf c.word - 1))
      (column < 128 ∧ f.detail % 2 ^ 16 = column) ∨ (column = 128 ∧ f.detail % 2 ^ 16 = 128 ∧ sums.1.isFin = true ∧
        checkRow (decodeNum fmF32 (bits f.detail 16 32)) sums.2.1 sums.2.2 = true)) :
    let done := min f.progress (countOf c.word)
    runPass s c cl (some f) = .halt ((passWork s c cl done).arrayHalt cl.unit) 0x31
      (column + 2 ^ 16 * passNumber (s.ctx cl.unit) c.word) done 0 (done != 0) := by
  obtain ⟨hchecks, hgo, hroom⟩ := h
  unfold runPass
  dsimp only
  rw [decoded_of_all_pass _ _ hchecks]
  refine boarded_struck hgo ((State.unitFault_check _ _ _ _ hsound hr).trans (passCheck_sees hcol)) ?_
  dsimp only
  rw [if_neg (by simp [hroom]), arrayStop, checkFault, hr]

/-- So has a READOUT. -/
theorem runReadout_stopped (hsound : s.svc.badWords = []) (hchecks : ∀ y ∈ readoutChecks (s.ctx cl.unit) c.word, y.1 = false)
    (hgo : s.board cl cl.unit (readoutOpnds (s.ctx cl.unit) c.word) = .go) {f : HwFault} (hr : f.reason = 0x31)
    (hcol : f.detail % 2 ^ 16 < 128) :
    let done := min f.progress (countOf c.word)
    runReadout s c cl (some f) = .halt ((readoutWork s c cl done).arrayHalt cl.unit) 0x31
      (f.detail % 2 ^ 16 + 2 ^ 16 * ((s.ctx cl.unit).passNo - 1)) done 0 (done != 0) := by
  unfold runReadout
  dsimp only
  rw [decoded_of_all_pass _ _ hchecks]
  refine boarded_struck hgo ((State.unitFault_check _ _ _ _ hsound hr).trans (columnCheck_column _ hcol)) ?_
  dsimp only
  rw [arrayStop, checkFault, hr]

/-- A STAT_LOAD that reads a word with an error halts before its first row. -/
theorem runStatLoad_stopped (hchecks : ∀ x ∈ statChecks c.word, x.1 = false) (hgo : s.board cl cl.unit (statOpnds c.word) = .go)
    {f : HwFault} (hflt : s.unitFault ⟨cl.cls, cl.unit⟩ cl.unit (boardWords (s.ctx cl.unit) false (statOpnds c.word)) noCheck none = some f)
    (hr : f.reason = 0x30) (hp : f.progress = 0) :
    runStatLoad s c cl none = .halt ((s.modCtx cl.unit fun x => { x with staging := statStaged x c.word 0 }).arrayHalt cl.unit)
      0x30 f.detail 0 0 false := by
  unfold runStatLoad
  dsimp only
  rw [decoded_of_all_pass _ _ hchecks]
  refine boarded_struck hgo (h := f) (by rw [List.append_nil, hflt]) ?_
  dsimp only
  rw [arrayStop, hr, hp, Nat.zero_min]
  rfl

end Halts

/-- Settles O5: a mismatch and a bad word are the fault that strikes, and each body halts with it. -/
theorem arrayFaultsHaltWithProgress : Obligations.ArrayFaultsHaltWithProgress := by
  unfold Obligations.ArrayFaultsHaltWithProgress
  refine ⟨fun s q c cl h hsound n hq f hr => ⟨fun hop hchecks hgo hroom => ?_, fun hop hchecks hgo hcol => ?_⟩,
    fun s q n words check flt hbad => State.unitFault_badWord check flt hbad,
    fun s q c cl f h n hq hcls hunit hop hchecks hgo hflt hr hp => ?_⟩
  · subst hq
    have hctx : (s.started ⟨.array, n⟩ c cl).ctx cl.unit = s.ctx cl.unit := State.started_ctx _ _ _ _ _
    dsimp only
    intro column hcol
    have hready : PassReady (s.started ⟨.array, n⟩ c cl) c cl :=
      ⟨by rwa [hctx], by rw [hctx]; exact started_board_go hgo _ _, by rwa [hctx]⟩
    have hbody := hready.stopped (State.started_soundWords hsound _ c cl) hr hcol
    rw [hctx] at hbody
    exact finish_issue (body := runPass) (r := .halt _ _ _ _ _ _) h hop ((congrArg _ (faultOf_array hr)).trans hbody)
  · subst hq
    have hctx : (s.started ⟨.array, n⟩ c cl).ctx cl.unit = s.ctx cl.unit := State.started_ctx _ _ _ _ _
    have hbody := runReadout_stopped (State.started_soundWords hsound ⟨.array, n⟩ c cl) (by rwa [hctx])
      (by rw [hctx]; exact started_board_go hgo _ _) hr hcol
    rw [hctx] at hbody
    exact finish_issue (body := runReadout) (r := .halt _ _ _ _ _ _) h hop ((congrArg _ (faultOf_array hr)).trans hbody)
  · subst hq hunit
    have hbody := runStatLoad_stopped (s := s.started ⟨.array, cl.unit⟩ c cl) hchecks (started_board_go hgo _ _)
      (by rw [State.started_ctx, State.unitFault_congr (State.started_svc _ _ _ _), hcls, hflt]) hr hp
    exact finish_issue (body := runStatLoad) (r := .halt _ _ _ _ _ _) h hop hbody

end Sys2Proof.Machine
end

section
/-! SUPPORT and PROOFS. VUNARY, VBINARY and VTERNARY (R215 to R219, R230). -/

namespace Sys2Proof.Machine

/-! ## A vector command that may go -/

/-- Issuing a command lets its vector operands go as before. -/
theorem State.vectorGoes_started {s : State} {cl : Clause} {l : List Opnd} {dsts : List (Nat × Nat)} {srcs : List (Nat × Nat × Bool)}
    (h : s.vectorGoes cl l dsts srcs) (q : QueueId) (c : QCmd) : (s.started q c cl).vectorGoes cl l dsts srcs := by
  obtain ⟨hopnds, hoverlap, hwait⟩ := h
  exact ⟨by rw [State.started_ctx, hopnds], hoverlap, fun o ho => by rw [State.started_mustWait, hwait o ho]⟩

/-- A vector body whose operands may go, where no word holds an error. -/
theorem vecBoarded_done {s : State} {cl : Clause} {l : List Opnd} {dsts : List (Nat × Nat)} {srcs : List (Nat × Nat × Bool)}
    (hgo : s.vectorGoes cl l dsts srcs) (hsound : s.svc.badWords = []) (check : HwFault → Option HwFault) {k : Option HwFault → Run}
    {t : State} (hk : k none = .done t) (ht : t.svc.badWords = []) : vecBoarded s cl cl.unit l dsts srcs check none k = .done t := by
  obtain ⟨hopnds, hoverlap, hwait⟩ := hgo
  have hfree : (dsts.find? fun d => srcs.any fun x => overlapBad d.1 d.2 x) = none := by
    rw [List.find?_eq_none]
    intro d hd
    simpa using fun a b e hx => hoverlap d hd (a, b, e) hx
  have hnow : ¬ (l.any fun o => s.mustWait cl cl.unit (opRes o.v) o.write) = true := by
    simpa using hwait
  unfold vecBoarded
  rw [hopnds]
  dsimp only
  rw [hfree]
  dsimp only
  rw [if_neg hnow, State.unitFault_none _ _ _ _ _ hsound, hk, Run.after, State.overwrite_clean _ _ _ _ ht]

/-- The end of a vector command leaves the service state. -/
theorem vectorEnd_svc (u : State) (n : Nat) (c : QCmd) (cl : Clause) (k : Nat) (cv : Cv) : (vectorEnd u n c cl k cv).svc = u.svc :=
  State.count_svc _ _ _ _ _

/-- A vector command that no fault strikes ends with its elements counted, and its flags kept. -/
theorem vecEnd_none (u : State) (c : QCmd) (cl : Clause) (k progress : Nat) (cv : Cv) :
    vecEnd (u.saveCv cl.unit c.seq cv) cl.unit cl k progress none = .done (vectorEnd u cl.unit c cl k cv) := rfl

/-- The head's checks pass. -/
theorem vecChecks_pass {w : Nat} {fields : List (Nat × Nat)} (h : headOk w fields 16384) : ∀ x ∈ vecChecks w fields, x.1 = false := by
  obtain ⟨hfields, hrnd, hpos, hle⟩ := h
  simp [vecChecks, hfields, hrnd, Nat.ne_of_gt hpos, Nat.not_lt.mpr hle]

/-- An operand that is no spill tile passes R213's check. -/
theorem spillCheck_of_not_spill {v : Nat} (h : isSpill (opRes v) = false) (f : Nat) (tiles : Bool) : (spillCheck v f tiles).1 = false := by
  simp [spillCheck, h]

/-- Checks in three groups pass where each group's do. -/
theorem decoded_of_three {s : State} {k : Run} {l₁ l₂ l₃ : List (Bool × Nat × Nat)} (h₁ : ∀ x ∈ l₁, x.1 = false)
    (h₂ : ∀ x ∈ l₂, x.1 = false) (h₃ : ∀ x ∈ l₃, x.1 = false) : decoded s (l₁ ++ l₂ ++ l₃) k = k :=
  decoded_of_all_pass _ _ (List.forall_mem_append.mpr ⟨List.forall_mem_append.mpr ⟨h₁, h₂⟩, h₃⟩)

/-! ## The element-wise commands -/

section Elementwise

variable {s : State} {c : QCmd} {cl : Clause} (hsound : s.svc.badWords = [])
include hsound

/-- VUNARY (R218, R219). -/
theorem runVunary_done (hop : cb c.word 18 1 ≤ 0x0A ∨ cb c.word 18 1 = 0x10 ∨ cb c.word 18 1 = 0x11)
    (hhead : headOk c.word vecFields 16384) (hfa : isFloat (bits c.word 128 4) = true)
    (hfd : if cb c.word 18 1 = 0x10 ∨ cb c.word 18 1 = 0x11 then bits c.word 136 4 = fmBit else isFloat (bits c.word 136 4) = true)
    (ha : isSpill (opRes (cb c.word 4 4)) = false) (hd : isSpill (opRes (cb c.word 12 4)) = false)
    (hgo : s.vectorGoes cl [vecOpnd (cb c.word 4 4) (packedBytes (bits c.word 128 4) (countOf c.word)) false false,
        vecOpnd (cb c.word 12 4) (packedBytes (bits c.word 136 4) (countOf c.word)) true false]
      [(cb c.word 12 4, packedBytes (bits c.word 136 4) (countOf c.word))]
      [(cb c.word 4 4, packedBytes (bits c.word 128 4) (countOf c.word), true)]) :
    let w := c.word
    let a := (s.ctx cl.unit).readElems (cb w 4 4) (bits w 128 4) (countOf w)
    let r := mapPut (fun i cv => unaryElem (cb w 18 1) (bits w 128 4) (bits w 136 4) (a.getD i 0) cv) (countOf w) (s.cvOf cl.unit .vector w)
    runVunary s c cl none = .done (vectorEnd (s.putLocal cl.unit (cb w 12 4) (bits w 136 4) r.1) cl.unit c cl (countOf w) r.2) := by
  have hkind : ∀ x ∈ [(!(decide (cb c.word 18 1 ≤ 0x0A) || (cb c.word 18 1 == 0x10 || cb c.word 18 1 == 0x11)), 0x01, 0)],
      x.1 = false := by
    simp only [List.forall_mem_singleton]
    rcases hop with hle | heq | heq <;> simp [*]
  have hformat : (if (cb c.word 18 1 == 0x10 || cb c.word 18 1 == 0x11) = true then bits c.word 136 4 != fmBit
      else !isFloat (bits c.word 136 4)) = false := by
    by_cases hmask : cb c.word 18 1 = 0x10 ∨ cb c.word 18 1 = 0x11
    · rw [if_pos hmask] at hfd
      rw [if_pos (by simpa using hmask), hfd, bne_self_eq_false]
    · rw [if_neg hmask] at hfd
      rw [if_neg (by simpa using hmask), hfd, Bool.not_true]
  unfold runVunary
  dsimp only
  rw [decoded_of_three hkind (vecChecks_pass hhead) (by
    simp only [List.forall_mem_cons, hfa, hformat, Bool.not_true, spillCheck_of_not_spill ha, spillCheck_of_not_spill hd]
    simp)]
  exact vecBoarded_done hgo hsound _ (vecEnd_none _ c cl _ _ _) (by rw [vectorEnd_svc]; exact hsound)

/-- The second source of a broadcast operation: its operand, and what of it must not be overwritten (R217). -/
def bcastOpnds (w : Nat) : List Opnd :=
  if bits w 152 2 = 3 then []
  else [vecOpnd (cb w 8 4) (packedBytes (bits w 132 4) (bcastCount (bits w 152 2) (countOf w))) false false]

def bcastSrcs (w : Nat) : List (Nat × Nat × Bool) :=
  if bits w 152 2 = 3 then []
  else [(cb w 8 4, packedBytes (bits w 132 4) (bcastCount (bits w 152 2) (countOf w)), bits w 152 2 == 0)]

/-- The elements of the second source; an immediate has none. -/
def bcastElems (x : PhraseCtx) (w : Nat) : List Nat :=
  if bits w 152 2 = 3 then [] else x.readElems (cb w 8 4) (bits w 132 4) (bcastCount (bits w 152 2) (countOf w))

omit hsound in
/-- An immediate names no second source. -/
theorem bcastCheck_passes (himm : bits c.word 152 2 = 3 → cb c.word 8 4 = 0 ∧ bits c.word 132 4 = 0) :
    (decide (bits c.word 152 2 = 3) && (cb c.word 8 4 != 0 || bits c.word 132 4 != 0)) = false := by
  by_cases hbc : bits c.word 152 2 = 3
  · simp [himm hbc]
  · simp [hbc]

/-- VBINARY (R218). -/
theorem runVbinary_done (hop : cb c.word 18 1 ≤ 0x07)
    (hhead : headOk c.word (vecFields ++ [(64, 32), (132, 4), (152, 2), (192, 32)]) 16384)
    (himm : bits c.word 152 2 = 3 → cb c.word 8 4 = 0 ∧ bits c.word 132 4 = 0)
    (hfmts : binaryBad (cb c.word 18 1) (bits c.word 128 4) (bits c.word 132 4) (bits c.word 136 4) = none)
    (ha : isSpill (opRes (cb c.word 4 4)) = false) (hb : isSpill (opRes (cb c.word 8 4)) = false)
    (hd : isSpill (opRes (cb c.word 12 4)) = false)
    (hgo : s.vectorGoes cl ([vecOpnd (cb c.word 4 4) (packedBytes (bits c.word 128 4) (countOf c.word)) false false] ++ bcastOpnds c.word ++
        [vecOpnd (cb c.word 12 4) (packedBytes (bits c.word 136 4) (countOf c.word)) true false])
      [(cb c.word 12 4, packedBytes (bits c.word 136 4) (countOf c.word))]
      ([(cb c.word 4 4, packedBytes (bits c.word 128 4) (countOf c.word), true)] ++ bcastSrcs c.word)) :
    let w := c.word
    let a := (s.ctx cl.unit).readElems (cb w 4 4) (bits w 128 4) (countOf w)
    let r := mapPut (fun i cv => binaryElem (cb w 18 1) (bits w 128 4) (bits w 132 4) (bits w 136 4) (a.getD i 0)
      (bcastElem (bits w 152 2) (bcastElems (s.ctx cl.unit) w) (cb w 24 4) i) cv) (countOf w) (s.cvOf cl.unit .vector w)
    runVbinary s c cl none = .done (vectorEnd (s.putLocal cl.unit (cb w 12 4) (bits w 136 4) r.1) cl.unit c cl (countOf w) r.2) := by
  unfold runVbinary
  dsimp only
  rw [decoded_of_three (by simp [hop]) (vecChecks_pass hhead) (by
    simp only [List.forall_mem_cons, bcastCheck_passes himm, hfmts, spillCheck_of_not_spill ha, spillCheck_of_not_spill hb,
      spillCheck_of_not_spill hd]
    simp)]
  exact vecBoarded_done hgo hsound _ (vecEnd_none _ c cl _ _ _) (by rw [vectorEnd_svc]; exact hsound)

/-- The format of VTERNARY's third source: a mask for a selection. -/
def ternaryFmt (w : Nat) : Nat := if cb w 18 1 = 0x02 then fmBit else bits w 136 4

/-- Whether VTERNARY reads three regions, and so runs at half rate (R216). -/
def halfRate (w : Nat) : Prop :=
  opRes (cb w 4 4) < 256 ∧ opRes (cb w 28 4) < 256 ∧ bits w 152 2 = 0 ∧ opRes (cb w 8 4) < 256

/-- VTERNARY (R218). -/
theorem runVternary_done (hop : cb c.word 18 1 ≤ 0x02)
    (hhead : headOk c.word (vecFields ++ [(64, 32), (132, 4), (152, 2), (192, 32), (224, 32)]) 16384)
    (himm : bits c.word 152 2 = 3 → cb c.word 8 4 = 0 ∧ bits c.word 132 4 = 0) (hfa : isFloat (bits c.word 128 4) = true)
    (hfb : isFloat (bits c.word 132 4) = true) (hfd : isFloat (bits c.word 136 4) = true)
    (ha : isSpill (opRes (cb c.word 4 4)) = false) (hb : isSpill (opRes (cb c.word 8 4)) = false)
    (hd : isSpill (opRes (cb c.word 12 4)) = false) (hc : isSpill (opRes (cb c.word 28 4)) = false)
    (hgo : s.vectorGoes cl ([vecOpnd (cb c.word 4 4) (packedBytes (bits c.word 128 4) (countOf c.word)) false false] ++ bcastOpnds c.word ++
        [vecOpnd (cb c.word 12 4) (packedBytes (bits c.word 136 4) (countOf c.word)) true false,
          vecOpnd (cb c.word 28 4) (packedBytes (ternaryFmt c.word) (countOf c.word)) false false])
      [(cb c.word 12 4, packedBytes (bits c.word 136 4) (countOf c.word))]
      ([(cb c.word 4 4, packedBytes (bits c.word 128 4) (countOf c.word), true),
        (cb c.word 28 4, packedBytes (ternaryFmt c.word) (countOf c.word), true)] ++ bcastSrcs c.word)) :
    let w := c.word
    let a := (s.ctx cl.unit).readElems (cb w 4 4) (bits w 128 4) (countOf w)
    let cc := (s.ctx cl.unit).readElems (cb w 28 4) (ternaryFmt w) (countOf w)
    let r := mapPut (fun i cv => ternaryElem (cb w 18 1) (bits w 128 4) (bits w 132 4) (bits w 136 4) (a.getD i 0)
      (bcastElem (bits w 152 2) (bcastElems (s.ctx cl.unit) w) (cb w 24 4) i) (cc.getD i 0) cv) (countOf w) (s.cvOf cl.unit .vector w)
    (halfRate w → runVternary s c cl none = .done (vectorEnd ((s.bump (K.vecHalfRateCommands cl.unit) 1).putLocal cl.unit (cb w 12 4)
      (bits w 136 4) r.1) cl.unit c cl (countOf w) r.2)) ∧
    (¬ halfRate w → runVternary s c cl none =
      .done (vectorEnd (s.putLocal cl.unit (cb w 12 4) (bits w 136 4) r.1) cl.unit c cl (countOf w) r.2)) := by
  have hhalf : (decide (opRes (cb c.word 4 4) < 256) && decide (opRes (cb c.word 28 4) < 256) && bits c.word 152 2 == 0 &&
      decide (opRes (cb c.word 8 4) < 256)) = true ↔ halfRate c.word := by
    simp [halfRate, and_assoc]
  unfold runVternary
  dsimp only
  rw [decoded_of_three (by simp [hop]) (vecChecks_pass hhead) (by
    simp only [List.forall_mem_cons, bcastCheck_passes himm, hfa, hfb, hfd, Bool.not_true, spillCheck_of_not_spill ha,
      spillCheck_of_not_spill hb, spillCheck_of_not_spill hd, spillCheck_of_not_spill hc]
    simp)]
  refine ⟨fun h => vecBoarded_done hgo hsound _ ?_ ?_, fun h => vecBoarded_done hgo hsound _ ?_ ?_⟩
  case refine_2 => rw [vectorEnd_svc]; exact hsound
  case refine_4 => rw [vectorEnd_svc]; exact hsound
  · rw [if_pos (hhalf.mpr h)]
    exact vecEnd_none _ c cl _ _ _
  · rw [if_neg fun hrate => h (hhalf.mp hrate)]
    exact vecEnd_none _ c cl _ _ _

end Elementwise

/-- Settles O6: each body passes its checks, its operands may go, and it ends with its elements' results. -/
theorem vectorElementwiseComplete : Obligations.VectorElementwiseComplete := by
  unfold Obligations.VectorElementwiseComplete
  intro s q c cl h hsound n hq
  subst hq
  have hclean := State.started_soundWords hsound ⟨.vector, n⟩ c cl
  have hctx : (s.started ⟨.vector, n⟩ c cl).ctx cl.unit = s.ctx cl.unit := State.started_ctx _ _ _ _ _
  dsimp only
  rw [← hctx]
  refine ⟨fun hop hkind hhead hfa hfd ha hd hgo => ?_, fun hop hkind hhead himm hfmts ha hb hd hgo => ?_,
    fun hop hkind hhead himm hfa hfb hfd ha hb hd hc hgo => ?_⟩
  · exact finish_issue_done (body := runVunary) h hop
      (runVunary_done hclean hkind hhead hfa hfd ha hd (State.vectorGoes_started hgo _ c))
  · exact finish_issue_done (body := runVbinary) h hop
      (runVbinary_done hclean hkind hhead himm hfmts ha hb hd (State.vectorGoes_started hgo _ c))
  · obtain ⟨hhalf, hfull⟩ := runVternary_done hclean hkind hhead himm hfa hfb hfd ha hb hd hc (State.vectorGoes_started hgo _ c)
    exact ⟨fun hrate => finish_issue_done (body := runVternary) h hop (hhalf hrate),
      fun hrate => finish_issue_done (body := runVternary) h hop (hfull hrate)⟩

end Sys2Proof.Machine
end

section
/-! SUPPORT and PROOFS. VREDUCE, VCONVERT, VCOMBINE, VQUANT and VDEQUANT (R220, R222 to R225). -/

namespace Sys2Proof.Machine

/-- A spill tile in w48 passes R213's check where the command takes spill tiles. -/
theorem spillCheck_of_w48 {v f : Nat} (h : isSpill (opRes v) = true → f = fmW48) : (spillCheck v f true).1 = false := by
  cases hspill : isSpill (opRes v)
  · exact spillCheck_of_not_spill hspill f true
  · simp [spillCheck, h hspill]

/-- A row length in R222's range passes its check. -/
theorem rowLength_passes {len : Nat} (hpos : 0 < len) (hle : len ≤ 16384) : (decide (len = 0) || decide (len > 16384)) = false := by
  simp [Nat.ne_of_gt hpos, Nat.not_lt.mpr hle]

/-- The rows that cover `k` elements hold them all. -/
theorem le_mul_ceilDiv (k : Nat) {len : Nat} (hpos : 0 < len) : k ≤ len * ceilDiv k len := by
  have hdiv := Nat.div_add_mod (k + len - 1) len
  have hmod := Nat.mod_lt (k + len - 1) hpos
  unfold ceilDiv
  omega

/-- The records from the first on that may be used are all of them where each may. -/
theorem length_takeWhile_range {p : Nat → Bool} {n : Nat} (h : ∀ j < n, p j = true) : ((List.range n).takeWhile p).length = n := by
  rw [takeWhile_of_all fun j hj => h j (List.mem_range.mp hj), List.length_range]

section RowsAndFormats

variable {s : State} {c : QCmd} {cl : Clause} (hsound : s.svc.badWords = [])
include hsound

/-- The reductions of VREDUCE's rows, and the conversion unit after them (R222). -/
def reducedRows (s : State) (cl : Clause) (w : Nat) : List Nat × Cv :=
  mapPut (fun j cv => reduceRow (bits w 144 4) (bits w 136 4) s.free j
    (rowOf (((s.ctx cl.unit).readElems (cb w 4 4) (bits w 128 4) (countOf w)).map (decodeNum (bits w 128 4))) (cb w 20 2) j) cv)
    (ceilDiv (countOf w) (cb w 20 2)) (s.cvOf cl.unit .vector w)

/-- What VREDUCE writes: each reduction once, or over its row. -/
def reducedOut (s : State) (cl : Clause) (w : Nat) : List Nat :=
  if bit w 151 then
    (reducedRows s cl w).1.zipIdx.flatMap fun y => List.replicate (rowOf
      (((s.ctx cl.unit).readElems (cb w 4 4) (bits w 128 4) (countOf w)).map (decodeNum (bits w 128 4))) (cb w 20 2) y.2).length y.1
  else (reducedRows s cl w).1

/-- The elements that VREDUCE writes. -/
def reducedCount (w : Nat) : Nat := if bit w 151 then countOf w else ceilDiv (countOf w) (cb w 20 2)

/-- VREDUCE (R222). -/
theorem runVreduce_done (hop : bits c.word 144 4 ≤ 4) (hzero : bits c.word 148 3 = 0)
    (hhead : headOk c.word (vecFields ++ [(160, 16)]) 16384) (hpos : 0 < cb c.word 20 2) (hle : cb c.word 20 2 ≤ 16384)
    (hfa : isFloat (bits c.word 128 4) = true)
    (hfd : isFloat (bits c.word 136 4) = true ∨
      (bits c.word 136 4 = fmW48 ∧ (bits c.word 144 4 = 0 ∨ bits c.word 144 4 = 3 ∨ bits c.word 144 4 = 4)))
    (ha : isSpill (opRes (cb c.word 4 4)) = false) (hd : isSpill (opRes (cb c.word 12 4)) = false)
    (hgo : s.vectorGoes cl [vecOpnd (cb c.word 4 4) (packedBytes (bits c.word 128 4) (countOf c.word)) false false,
        vecOpnd (cb c.word 12 4) (packedBytes (bits c.word 136 4) (reducedCount c.word)) true false]
      [(cb c.word 12 4, packedBytes (bits c.word 136 4) (reducedCount c.word))]
      [(cb c.word 4 4, packedBytes (bits c.word 128 4) (countOf c.word), true)]) :
    runVreduce s c cl none = .done (vectorEnd (s.putLocal cl.unit (cb c.word 12 4) (bits c.word 136 4) (reducedOut s cl c.word))
      cl.unit c cl (reducedOut s cl c.word).length (reducedRows s cl c.word).2) := by
  have hwide : (!(isFloat (bits c.word 136 4) || (bits c.word 136 4 == fmW48 &&
      (bits c.word 144 4 == 0 || bits c.word 144 4 == 3 || bits c.word 144 4 == 4)))) = false := by
    rcases hfd with hfloat | ⟨hw48, hsum⟩
    · simp [hfloat]
    · rcases hsum with hsum | hsum | hsum <;> simp [hw48, hsum]
  unfold runVreduce
  dsimp only
  rw [decoded_of_three (by simp [hop, hzero]) (vecChecks_pass hhead) (by
    simp only [List.forall_mem_cons, rowLength_passes hpos hle, hfa, hwide, Bool.not_true, spillCheck_of_not_spill ha, hd]
    simp)]
  exact vecBoarded_done hgo hsound _ (vecEnd_none _ c cl _ _ _) (by rw [vectorEnd_svc]; exact hsound)

/-- VCONVERT (R220). -/
theorem runVconvert_done (hop : cb c.word 18 1 ≤ 1) (hhead : headOk c.word vecFields 16384)
    (hfmts : if cb c.word 18 1 = 1 then bits c.word 128 4 = fmBit ∧ isFloat (bits c.word 136 4) = true
      else (isWide (bits c.word 128 4) = true ∨ bits c.word 128 4 = fmI32) ∧
        (isWide (bits c.word 136 4) = true ∨ bits c.word 136 4 = fmI32))
    (ha : isSpill (opRes (cb c.word 4 4)) = true → bits c.word 128 4 = fmW48)
    (hd : isSpill (opRes (cb c.word 12 4)) = true → bits c.word 136 4 = fmW48)
    (hgo : s.vectorGoes cl [vecOpnd (cb c.word 4 4) (packedBytes (bits c.word 128 4) (countOf c.word)) false true,
        vecOpnd (cb c.word 12 4) (packedBytes (bits c.word 136 4) (countOf c.word)) true true]
      [(cb c.word 12 4, packedBytes (bits c.word 136 4) (countOf c.word))]
      [(cb c.word 4 4, packedBytes (bits c.word 128 4) (countOf c.word), true)]) :
    let w := c.word
    let a := (s.ctx cl.unit).readElems (cb w 4 4) (bits w 128 4) (countOf w)
    let r := mapPut (fun i cv => convertElem (cb w 18 1) (bits w 128 4) (bits w 136 4) (a.getD i 0) cv) (countOf w)
      (s.cvOf cl.unit .vector w)
    runVconvert s c cl none = .done (vectorEnd (s.putLocal cl.unit (cb w 12 4) (bits w 136 4) r.1) cl.unit c cl (countOf w) r.2) := by
  have hnumber {f : Nat} (h : isWide f = true ∨ f = fmI32) : (!(isWide f || f == fmI32)) = false := by
    rcases h with h | h <;> simp [h]
  have hsrc : (if cb c.word 18 1 = 1 then bits c.word 128 4 != fmBit
      else !(isWide (bits c.word 128 4) || bits c.word 128 4 == fmI32)) = false := by
    by_cases hmask : cb c.word 18 1 = 1
    · rw [if_pos hmask] at hfmts ⊢
      simp [hfmts.1]
    · rw [if_neg hmask] at hfmts ⊢
      exact hnumber hfmts.1
  have hdst : (if cb c.word 18 1 = 1 then !isFloat (bits c.word 136 4)
      else !(isWide (bits c.word 136 4) || bits c.word 136 4 == fmI32)) = false := by
    by_cases hmask : cb c.word 18 1 = 1
    · rw [if_pos hmask] at hfmts ⊢
      simp [hfmts.2]
    · rw [if_neg hmask] at hfmts ⊢
      exact hnumber hfmts.2
  unfold runVconvert
  dsimp only
  rw [decoded_of_three (by simp [hop]) (vecChecks_pass hhead) (by
    simp only [List.forall_mem_cons, hsrc, hdst, spillCheck_of_w48 ha, spillCheck_of_w48 hd]
    simp)]
  exact vecBoarded_done hgo hsound _ (vecEnd_none _ c cl _ _ _) (by rw [vectorEnd_svc]; exact hsound)

/-- VCOMBINE (R225). -/
theorem runVcombine_done (hop : cb c.word 18 1 = 0) (hhead : headOk c.word (vecFields ++ [(64, 32), (132, 4)]) 16384)
    (hfa : bits c.word 128 4 = fmF32 ∨ bits c.word 128 4 = fmW48) (hfb : bits c.word 132 4 = fmF32 ∨ bits c.word 132 4 = fmW48)
    (hfd : isWide (bits c.word 136 4) = true) (ha : isSpill (opRes (cb c.word 4 4)) = true → bits c.word 128 4 = fmW48)
    (hb : isSpill (opRes (cb c.word 8 4)) = true → bits c.word 132 4 = fmW48)
    (hd : isSpill (opRes (cb c.word 12 4)) = true → bits c.word 136 4 = fmW48)
    (hgo : s.vectorGoes cl [vecOpnd (cb c.word 4 4) (packedBytes (bits c.word 128 4) (countOf c.word)) false true,
        vecOpnd (cb c.word 8 4) (packedBytes (bits c.word 132 4) (countOf c.word)) false true,
        vecOpnd (cb c.word 12 4) (packedBytes (bits c.word 136 4) (countOf c.word)) true true]
      [(cb c.word 12 4, packedBytes (bits c.word 136 4) (countOf c.word))]
      [(cb c.word 4 4, packedBytes (bits c.word 128 4) (countOf c.word), true),
        (cb c.word 8 4, packedBytes (bits c.word 132 4) (countOf c.word), true)]) :
    let w := c.word
    let a := (s.ctx cl.unit).readElems (cb w 4 4) (bits w 128 4) (countOf w)
    let b := (s.ctx cl.unit).readElems (cb w 8 4) (bits w 132 4) (countOf w)
    let r := mapPut (fun i cv => combineElem (bits w 128 4) (bits w 132 4) (bits w 136 4) (a.getD i 0) (b.getD i 0) cv) (countOf w)
      (s.cvOf cl.unit .vector w)
    runVcombine s c cl none = .done (vectorEnd (s.putLocal cl.unit (cb w 12 4) (bits w 136 4) r.1) cl.unit c cl (countOf w) r.2) := by
  have hpartial {f : Nat} (h : f = fmF32 ∨ f = fmW48) : (f != fmF32 && f != fmW48) = false := by
    rcases h with h | h <;> simp [h]
  unfold runVcombine
  dsimp only
  rw [decoded_of_three (by simp [hop]) (vecChecks_pass hhead) (by
    simp only [List.forall_mem_cons, hpartial hfa, hpartial hfb, hfd, Bool.not_true, spillCheck_of_w48 ha, spillCheck_of_w48 hb,
      spillCheck_of_w48 hd]
    simp)]
  exact vecBoarded_done hgo hsound _ (vecEnd_none _ c cl _ _ _) (by rw [vectorEnd_svc]; exact hsound)

/-- VQUANT (R223). -/
theorem runVquant_done (hop : cb c.word 18 1 ≤ 1) (hhead : headOk c.word (vecFields ++ [(160, 16), (224, 32)]) 16384)
    (hpos : 0 < cb c.word 20 2) (hle : cb c.word 20 2 ≤ 16384)
    (heven : cb c.word 18 1 = 1 → cb c.word 20 2 % 2 = 0 ∧ countOf c.word % 2 = 0) (hfa : bits c.word 128 4 ≤ 2)
    (hfd : bits c.word 136 4 = (if cb c.word 18 1 = 0 then fmI8 else fmI4)) (ha : isSpill (opRes (cb c.word 4 4)) = false)
    (hd : isSpill (opRes (cb c.word 12 4)) = false) (hc : isSpill (opRes (cb c.word 28 4)) = false)
    (hgo : s.vectorGoes cl [vecOpnd (cb c.word 4 4) (packedBytes (bits c.word 128 4) (countOf c.word)) false false,
        vecOpnd (cb c.word 12 4) (packedBytes (bits c.word 136 4) (countOf c.word)) true false,
        vecOpnd (cb c.word 28 4) (8 * ceilDiv (countOf c.word) (cb c.word 20 2)) true false]
      [(cb c.word 12 4, packedBytes (bits c.word 136 4) (countOf c.word)),
        (cb c.word 28 4, 8 * ceilDiv (countOf c.word) (cb c.word 20 2))]
      [(cb c.word 4 4, packedBytes (bits c.word 128 4) (countOf c.word), true)]) :
    let w := c.word
    let rows := ceilDiv (countOf w) (cb w 20 2)
    let r := quantRows (if cb w 18 1 = 0 then 8 else 4) (cb w 20 2)
      (((s.ctx cl.unit).readElems (cb w 4 4) (bits w 128 4) (countOf w)).map (decodeNum (bits w 128 4))) rows (s.cvOf cl.unit .vector w)
    runVquant s c cl none = .done (vectorEnd
      ((s.modCtx cl.unit fun y => y.writeLocal (opRes (cb w 28 4)) (opOff (cb w 28 4)) (r.1.reverse.flatMap quantRecord)).putLocal
        cl.unit (cb w 12 4) (bits w 136 4) ((r.1.reverse.flatMap (·.codes)).take (countOf w))) cl.unit c cl (countOf w + rows) r.2) := by
  have hrow : (decide (cb c.word 18 1 = 1) && cb c.word 20 2 % 2 == 1) = false := by
    simpa using fun h => (heven h).1
  have hcount : (decide (cb c.word 18 1 = 1) && countOf c.word % 2 == 1) = false := by
    simpa using fun h => (heven h).2
  unfold runVquant
  dsimp only
  rw [← hfd, decoded_of_three (by simp [hop]) (vecChecks_pass hhead) (by
    simp only [List.forall_mem_cons, rowLength_passes hpos hle, hrow, hcount, decide_eq_false (Nat.not_lt.mpr hfa), bne_self_eq_false,
      spillCheck_of_not_spill ha, hd, hc]
    simp)]
  exact vecBoarded_done hgo hsound _ (vecEnd_none _ c cl _ _ _) (by rw [vectorEnd_svc]; exact hsound)

/-- VDEQUANT (R224). -/
theorem runVdequant_done (hop : cb c.word 18 1 = 0) (hhead : headOk c.word (vecFields ++ [(64, 32), (160, 16)]) 16384)
    (hpos : 0 < cb c.word 20 2) (hle : cb c.word 20 2 ≤ 16384) (hfa : isCode (bits c.word 128 4) = true)
    (hfd : isFloat (bits c.word 136 4) = true) (ha : isSpill (opRes (cb c.word 4 4)) = false)
    (hb : isSpill (opRes (cb c.word 8 4)) = false) (hd : isSpill (opRes (cb c.word 12 4)) = false)
    (hgo : s.vectorGoes cl [vecOpnd (cb c.word 4 4) (packedBytes (bits c.word 128 4) (countOf c.word)) false false,
        vecOpnd (cb c.word 8 4) (8 * ceilDiv (countOf c.word) (cb c.word 20 2)) false false,
        vecOpnd (cb c.word 12 4) (packedBytes (bits c.word 136 4) (countOf c.word)) true false]
      [(cb c.word 12 4, packedBytes (bits c.word 136 4) (countOf c.word))]
      [(cb c.word 4 4, packedBytes (bits c.word 128 4) (countOf c.word), true),
        (cb c.word 8 4, 8 * ceilDiv (countOf c.word) (cb c.word 20 2), false)])
    (hrecords : ∀ j < ceilDiv (countOf c.word) (cb c.word 20 2),
      recordOk (bits c.word 128 4) ((s.ctx cl.unit).entryAt (cb c.word 8 4) j) = true) :
    let w := c.word
    let x := s.ctx cl.unit
    let a := x.readElems (cb w 4 4) (bits w 128 4) (countOf w)
    let r := mapPut (fun i cv => cv.put (bits w 136 4) (dequant (bits (x.entryAt (cb w 8 4) (i / cb w 20 2)) 0 32) (a.getD i 0)
      (bits (x.entryAt (cb w 8 4) (i / cb w 20 2)) 32 8))) (countOf w) (s.cvOf cl.unit .vector w)
    runVdequant s c cl none = .done (vectorEnd (s.putLocal cl.unit (cb w 12 4) (bits w 136 4) r.1) cl.unit c cl (countOf w) r.2) := by
  unfold runVdequant
  dsimp only
  rw [decoded_of_three (by simp [hop]) (vecChecks_pass hhead) (by
    simp only [List.forall_mem_cons, rowLength_passes hpos hle, hfa, hfd, Bool.not_true, spillCheck_of_not_spill ha,
      spillCheck_of_not_spill hd, hb]
    simp), length_takeWhile_range hrecords, Nat.min_eq_left (le_mul_ceilDiv (countOf c.word) hpos)]
  refine vecBoarded_done hgo hsound _ ?_ (by rw [vectorEnd_svc]; exact hsound)
  rw [if_neg fun h => Nat.lt_irrefl _ h.1]
  exact vecEnd_none _ c cl _ _ _

end RowsAndFormats

/-- Settles O7: each body passes its checks, its operands may go, and it ends with its rows' or elements' results. -/
theorem vectorReductionsAndFormatsComplete : Obligations.VectorReductionsAndFormatsComplete := by
  unfold Obligations.VectorReductionsAndFormatsComplete
  constructor
  · intro s q c cl h hsound n hq
    subst hq
    have hclean := State.started_soundWords hsound ⟨.vector, n⟩ c cl
    have hctx : (s.started ⟨.vector, n⟩ c cl).ctx cl.unit = s.ctx cl.unit := State.started_ctx _ _ _ _ _
    dsimp only
    rw [← hctx]
    refine ⟨fun hop hkind hzero hhead hpos hle hfa hfd ha hd hgo => ?_, fun hop hkind hhead hfmts ha hd hgo => ?_,
      fun hop hkind hhead hfa hfb hfd ha hb hd hgo => ?_⟩
    · rw [← State.started_free s ⟨.vector, n⟩ c cl]
      exact finish_issue_done (body := runVreduce) h hop
        (runVreduce_done hclean hkind hzero hhead hpos hle hfa hfd ha hd (State.vectorGoes_started hgo _ c))
    · exact finish_issue_done (body := runVconvert) h hop
        (runVconvert_done hclean hkind hhead hfmts ha hd (State.vectorGoes_started hgo _ c))
    · exact finish_issue_done (body := runVcombine) h hop
        (runVcombine_done hclean hkind hhead hfa hfb hfd ha hb hd (State.vectorGoes_started hgo _ c))
  · intro s q c cl h hsound n hq
    subst hq
    have hclean := State.started_soundWords hsound ⟨.vector, n⟩ c cl
    have hctx : (s.started ⟨.vector, n⟩ c cl).ctx cl.unit = s.ctx cl.unit := State.started_ctx _ _ _ _ _
    dsimp only
    rw [← hctx]
    refine ⟨fun hop hkind hhead hpos hle heven hfa hfd ha hd hc hgo => ?_,
      fun hop hkind hhead hpos hle hfa hfd ha hb hd hgo hrecords => ?_⟩
    · exact finish_issue_done (body := runVquant) h hop
        (runVquant_done hclean hkind hhead hpos hle heven hfa hfd ha hd hc (State.vectorGoes_started hgo _ c))
    · exact finish_issue_done (body := runVdequant) h hop
        (runVdequant_done hclean hkind hhead hpos hle hfa hfd ha hb hd (State.vectorGoes_started hgo _ c) hrecords)

end Sys2Proof.Machine
end
